-- ==== Sys2Proof/Word.lean ====
section
/-!
DEFINITION. The word types of the device (01_device R2 to R6) and the two plain shapes of data the state is
made of: a register number and a finite map with a default.
-/

namespace Sys2Proof

/-- A byte (R2). -/
abbrev Byte := BitVec 8
/-- A 32-bit general or uniform register (R4). -/
abbrev Word := BitVec 32
/-- A 64-bit register pair, program counter or virtual address (R4). -/
abbrev DWord := BitVec 64
/-- A 128-bit register quad (R4). -/
abbrev QWord := BitVec 128
/-- The number of a register of class x, k, p, t, b or s, as an operand field holds it (R27). -/
abbrev RegNo := BitVec 8

/-- A finite map by number: the entries listed, every other number at the map's default, which the
reader of the map names. -/
abbrev SMap (α : Type) := List (Nat × α)

end Sys2Proof
end

