-- ==== Sys2Proof/Machine/Bits.lean ====
section
/-!
DEFINITION. Bit fields, byte order, sign extension, finite maps and list helpers: the plain operations the
meanings share.
-/

namespace Sys2Proof.Machine

/-! ## Finite maps -/

/-- The value at `k`, or the default `d` where `k` is not listed. -/
def SMap.get {α : Type} (m : SMap α) (k : Nat) (d : α) : α :=
  match m with
  | [] => d
  | (j, v) :: r => if j = k then v else SMap.get r k d

/-- The value at `k`, if `k` is listed. -/
def SMap.find {α : Type} (m : SMap α) (k : Nat) : Option α :=
  match m with
  | [] => none
  | (j, v) :: r => if j = k then some v else SMap.find r k

/-- The map with `k` listed at `v`; an entry already listed keeps its place. -/
def SMap.set {α : Type} (m : SMap α) (k : Nat) (v : α) : SMap α :=
  match m with
  | [] => [(k, v)]
  | (j, w) :: r => if j = k then (j, v) :: r else (j, w) :: SMap.set r k v

/-- The map with `k` not listed. -/
def SMap.del {α : Type} (m : SMap α) (k : Nat) : SMap α :=
  match m with
  | [] => []
  | (j, w) :: r => if j = k then SMap.del r k else (j, w) :: SMap.del r k

/-- The map with every listed value changed by `f`. -/
def SMap.mapVal {α : Type} (m : SMap α) (f : Nat → α → α) : SMap α :=
  m.map fun e => (e.1, f e.1 e.2)

/-! ## Lists -/

/-- Element `n` of a list, or the default past its end. -/
def nthD {α : Type} (l : List α) (n : Nat) (d : α) : α :=
  match l, n with
  | [], _ => d
  | x :: _, 0 => x
  | _ :: r, n + 1 => nthD r n d

/-- The list with element `n` changed by `f`; past its end, the list as it is. -/
def modNth {α : Type} (l : List α) (n : Nat) (f : α → α) : List α :=
  match l, n with
  | [], _ => []
  | x :: r, 0 => f x :: r
  | x :: r, n + 1 => x :: modNth r n f

/-- The numbers `b`, `b + 1`, … , `n` of them. -/
def rangeFrom (b n : Nat) : List Nat :=
  match n with
  | 0 => []
  | n + 1 => b :: rangeFrom (b + 1) n

/-- The number list `0` to `n - 1`. -/
def upTo (n : Nat) : List Nat := rangeFrom 0 n

/-- The least number from `b` on, among `n`, for which `f` holds. -/
def findFrom (f : Nat → Bool) (b n : Nat) : Option Nat :=
  match n with
  | 0 => none
  | n + 1 => if f b then some b else findFrom f (b + 1) n

/-- The place of the first element for which `f` holds. -/
def indexOf {α : Type} (l : List α) (f : α → Bool) : Option Nat :=
  match l with
  | [] => none
  | x :: r => if f x then some 0 else (indexOf r f).map (· + 1)

/-- A list sorted by a number key, stable: insertion sort. -/
def insertBy {α : Type} (key : α → Nat) (x : α) : List α → List α
  | [] => [x]
  | y :: r => if key x < key y then x :: y :: r else y :: insertBy key x r

/-- Stable ascending sort by a number key. -/
def sortBy {α : Type} (key : α → Nat) (l : List α) : List α :=
  l.foldl (fun acc x => insertBy key x acc) []

/-! ## Bit fields -/

/-- Bits `[lo + n - 1 : lo]` of a number. -/
def field (v lo n : Nat) : Nat := (v >>> lo) % 2 ^ n

/-- Bit `i` of a number. -/
def bit (v i : Nat) : Bool := v.testBit i

/-- A flag as a number. -/
def ofBool (b : Bool) : Nat := if b then 1 else 0

/-- SignExt of R70: the integer whose two's-complement form in `n` bits is `v`'s low `n` bits. -/
def signExt (v n : Nat) : Int :=
  let u := v % 2 ^ n
  if n = 0 then 0 else if u < 2 ^ (n - 1) then u else (u : Int) - 2 ^ n

/-- An integer taken modulo 2^n. -/
def wrapInt (i : Int) (n : Nat) : Nat := (i % (2 ^ n : Int)).toNat

/-- An integer clamped to `[lo, hi]`. -/
def clampInt (i lo hi : Int) : Int := if i < lo then lo else if i > hi then hi else i

/-- The number of ones among the low `n` bits. -/
def popCount (v n : Nat) : Nat :=
  match n with
  | 0 => 0
  | n + 1 => ofBool (v.testBit n) + popCount v n

/-- Bit `i` of the low `n` bits moved to bit `n - 1 - i`. -/
def reverseBits (v n : Nat) : Nat :=
  (upTo n).foldl (fun acc i => acc + (if v.testBit i then 2 ^ (n - 1 - i) else 0)) 0

/-! ## Byte order (R3: little-endian) -/

/-- The `n` bytes of a number, least significant first. -/
def toBytes (v n : Nat) : List Byte :=
  match n with
  | 0 => []
  | n + 1 => BitVec.ofNat 8 v :: toBytes (v / 256) n

/-- The number whose bytes, least significant first, are given. -/
def ofBytes (l : List Byte) : Nat :=
  match l with
  | [] => 0
  | b :: r => b.toNat + 256 * ofBytes r

/-- `n` bytes of a byte string from byte `i`, zero past its end. -/
def sliceBytes (l : List Byte) (i n : Nat) : List Byte :=
  (upTo n).map fun j => nthD l (i + j) 0

end Sys2Proof.Machine
end

