-- ==== Sys2Proof/Config.lean ====
section
/-!
DEFINITION. What an implementation fixes and the spec leaves open: opaque constants, with no body to lean on.
-/

namespace Sys2Proof

/-- The approximated functions of family 0x1A (R185). -/
inductive ApproxFn where
  | rcp | rsq | exp2 | log2 | sin | cos | tanh
  deriving DecidableEq, Repr

/-- The device's fixed choice for each approximated function (R186): a candidate, taken where it lies within the
bound of R185. -/
opaque Config.approx : ApproxFn → Word → Word

/-- A free value: the `n`th value the spec leaves open in a run, of 64 bits, cut to the width wanted. Nothing
constrains it (notes/assumptions 5). -/
opaque Config.freeValue : Nat → DWord

/-! ## Cryptography and fuses (19_bringup R371, R372, R375, R378): named by the spec, whose values and functions it does not state (notes/assumptions 7) -/

/-- Byte `n` of the SHAKE256 output of a message. -/
opaque Config.shake256 : List Byte → Nat → Byte

/-- Does an SLH-DSA-SHAKE-256s signature of a message verify under a public key? The operands are the key, the message and the signature. -/
opaque Config.slhVerify : List Byte → List Byte → List Byte → Bool

/-- Byte `n` of the signature of a message under the device identity key. -/
opaque Config.identitySign : List Byte → Nat → Byte

/-- Byte `n` of the fuse key hash, and of the device identity public key. -/
opaque Config.keyHash : Nat → Byte
opaque Config.identityKey : Nat → Byte

/-- The Device Serial Number. -/
opaque Config.serial : DWord

end Sys2Proof
end

