-- ==== Sys2Proof/Machine/Numbers.lean ====
section
/-!
DEFINITION. Numbers and rounding (03_numbers R53 to R70): the element formats, the exact values, rounding, scaled
blocks, delivered conversion and the block sums of the matrix engine.
-/

namespace Sys2Proof.Machine

/-- An exact value (R70: a real, an infinity or NaN). A finite value is `(-1)^neg * m * 2^e`; a zero keeps its sign. -/
inductive Val where
  | nan
  | inf (neg : Bool)
  | fin (neg : Bool) (m : Nat) (e : Int)
  deriving DecidableEq, Repr

/-- The element types and their codes (R53, R56). -/
inductive Elem where
  | fp32 | bf16 | fp16 | e4m3 | e5m2 | e2m3 | e3m2 | e2m1 | int8 | int32 | e8m0
  deriving DecidableEq, Repr

/-- The type a code names; codes 11 and up are reserved (R38). -/
def elemOfCode (n : Nat) : Option Elem :=
  match n with
  | 0 => some .fp32 | 1 => some .bf16 | 2 => some .fp16 | 3 => some .e4m3 | 4 => some .e5m2
  | 5 => some .e2m3 | 6 => some .e3m2 | 7 => some .e2m1 | 8 => some .int8 | 9 => some .int32
  | 10 => some .e8m0 | _ => none

/-- The code of a type (R53, R56). -/
def elemCode (t : Elem) : Nat :=
  match t with
  | .fp32 => 0 | .bf16 => 1 | .fp16 => 2 | .e4m3 => 3 | .e5m2 => 4 | .e2m3 => 5 | .e3m2 => 6
  | .e2m1 => 7 | .int8 => 8 | .int32 => 9 | .e8m0 => 10

/-- The width of an element in bits (R53, R56). -/
def elemBits (t : Elem) : Nat :=
  match t with
  | .fp32 => 32 | .bf16 => 16 | .fp16 => 16 | .e4m3 => 8 | .e5m2 => 8 | .e2m3 => 6 | .e3m2 => 6
  | .e2m1 => 4 | .int8 => 8 | .int32 => 32 | .e8m0 => 8

/-- Exponent field width (R53); 0 for the types that are no binary floating-point format. -/
def elemExpBits (t : Elem) : Nat :=
  match t with
  | .fp32 => 8 | .bf16 => 8 | .fp16 => 5 | .e4m3 => 4 | .e5m2 => 5 | .e2m3 => 2 | .e3m2 => 3 | .e2m1 => 2
  | .int8 | .int32 | .e8m0 => 0

/-- Mantissa field width M (R53). -/
def elemMan (t : Elem) : Nat :=
  match t with
  | .fp32 => 23 | .bf16 => 7 | .fp16 => 10 | .e4m3 => 3 | .e5m2 => 2 | .e2m3 => 3 | .e3m2 => 2 | .e2m1 => 1
  | .int8 | .int32 | .e8m0 => 0

/-- Exponent bias (R53). -/
def elemBias (t : Elem) : Int :=
  match t with
  | .fp32 => 127 | .bf16 => 127 | .fp16 => 15 | .e4m3 => 7 | .e5m2 => 15 | .e2m3 => 1 | .e3m2 => 3 | .e2m1 => 1
  | .int8 | .int32 | .e8m0 => 0

/-- EMAX (R55; 0 for INT8 by R56). -/
def elemEmax (t : Elem) : Int :=
  match t with
  | .fp32 => 127 | .bf16 => 127 | .fp16 => 15 | .e4m3 => 8 | .e5m2 => 15 | .e2m3 => 2 | .e3m2 => 4 | .e2m1 => 2
  | .int8 | .int32 | .e8m0 => 0

/-- The encoding of the largest finite value (R55). -/
def elemMaxEnc (t : Elem) : Nat :=
  match t with
  | .fp32 => 0x7F7FFFFF | .bf16 => 0x7F7F | .fp16 => 0x7BFF | .e4m3 => 0x7E | .e5m2 => 0x7B
  | .e2m3 => 0x1F | .e3m2 => 0x1F | .e2m1 => 0x7 | .int8 => 127 | .int32 => 0x7FFFFFFF | .e8m0 => 0xFE

/-- The types whose all-ones exponent holds infinity and NaN (R53). -/
def elemHasInf (t : Elem) : Bool :=
  match t with
  | .fp32 | .bf16 | .fp16 | .e5m2 => true
  | _ => false

/-- CanonNaN of R70 (R58). The types with no NaN give the all-zero encoding (R61). -/
def canonNaN (t : Elem) : Nat :=
  match t with
  | .fp32 => 0x7FC00000 | .bf16 => 0x7FC0 | .fp16 => 0x7E00 | .e4m3 => 0x7F | .e5m2 => 0x7F | .e8m0 => 0xFF
  | _ => 0

/-- The encoding of an infinity in a type that has one (R53). -/
def infEnc (t : Elem) (neg : Bool) : Nat :=
  (2 ^ elemExpBits t - 1) * 2 ^ elemMan t + (if neg then 2 ^ (elemBits t - 1) else 0)

/-- Decode of R70 (R53, R54, R56). INT8 gives the integer; `scaledVal` gives it in steps of 2^-6. -/
def decodeElem (bits : Nat) (t : Elem) : Val :=
  match t with
  | .int8 => let i := signExt bits 8; .fin (i < 0) i.natAbs 0
  | .int32 => let i := signExt bits 32; .fin (i < 0) i.natAbs 0
  | .e8m0 => let x := bits % 256; if x = 255 then .nan else .fin false 1 ((x : Int) - 127)
  | _ =>
    let mb := elemMan t
    let eb := elemExpBits t
    let neg := bits.testBit (elemBits t - 1)
    let e := field bits mb eb
    let m := bits % 2 ^ mb
    if elemHasInf t && e == 2 ^ eb - 1 then (if m = 0 then .inf neg else .nan)
    else if t == .e4m3 && e == 15 && m == 7 then .nan
    else if e = 0 then .fin neg m (1 - elemBias t - mb)
    else .fin neg (2 ^ mb + m) ((e : Int) - elemBias t - mb)

/-- The rounding modes and their MOD codes (R34, R60). -/
inductive RMode where
  | rne | zero | up | down
  deriving DecidableEq, Repr

/-- The mode of a two-bit code (R60). -/
def rmodeOf (n : Nat) : RMode :=
  match n % 4 with
  | 0 => .rne | 1 => .zero | 2 => .up | _ => .down

/-- `m / 2^s` rounded to an integer under a mode, for a value of sign `neg` (R60 on a grid of integers). -/
def roundShift (neg : Bool) (m s : Nat) (mode : RMode) : Nat :=
  let lo := m >>> s
  let rem := m % 2 ^ s
  if rem = 0 then lo
  else match mode with
    | .rne => if 2 * rem > 2 ^ s ∨ (2 * rem = 2 ^ s ∧ lo % 2 = 1) then lo + 1 else lo
    | .zero => lo
    | .up => if neg then lo else lo + 1
    | .down => if neg then lo + 1 else lo

/-- The magnitude encoding of `m * 2^e`, `m > 0`, rounded with the exponent range unbounded above (R60 steps 1 to 3). -/
def roundMag (neg : Bool) (m : Nat) (e : Int) (t : Elem) (mode : RMode) : Nat :=
  let mb : Int := elemMan t
  let qmin : Int := 1 - elemBias t - mb
  let q : Int := max (e + Nat.log2 m - mb) qmin
  let sig := if e ≥ q then m <<< (e - q).toNat else roundShift neg m (q - e).toNat mode
  (q - qmin).toNat * 2 ^ elemMan t + sig

/-- The sign bit of a type, where the value is negative. -/
def signEnc (t : Elem) (neg : Bool) : Nat := if neg then 2 ^ (elemBits t - 1) else 0

/-- RoundF of R70: the encoding in FP32, BF16 or FP16 (R58, R59, R60). -/
def roundF (x : Val) (t : Elem) (mode : RMode) : Nat :=
  match x with
  | .nan => canonNaN t
  | .inf neg => infEnc t neg
  | .fin neg m e =>
    if m = 0 then signEnc t neg
    else
      let enc := roundMag neg m e t mode
      if enc > elemMaxEnc t then
        match mode, neg with
        | .rne, _ => infEnc t neg
        | .zero, _ => elemMaxEnc t + signEnc t neg
        | .up, false => infEnc t false
        | .up, true => elemMaxEnc t + signEnc t true
        | .down, false => elemMaxEnc t
        | .down, true => infEnc t true
      else enc + signEnc t neg

/-- An exact value rounded to an integer under a mode; `none` for NaN and the infinities. -/
def roundInt (neg : Bool) (m : Nat) (e : Int) (mode : RMode) : Int :=
  let n := if e ≥ 0 then m <<< e.toNat else roundShift neg m (-e).toNat mode
  if neg then -(n : Int) else n

/-- ToInt of R70 (R69). -/
def toInt (x : Val) (mode : RMode) (lo hi : Int) : Int :=
  match x with
  | .nan => 0
  | .inf neg => if neg then lo else hi
  | .fin neg m e => clampInt (roundInt neg m e mode) lo hi

/-- RoundSat of R70 (R61). `step` is the exponent of one INT8 step: -6 in a scaled block, 0 elsewhere (R56). -/
def roundSatStep (x : Val) (t : Elem) (step : Int) : Nat :=
  match t with
  | .int8 =>
    match x with
    | .nan => 0
    | .inf neg => if neg then 0x80 else 0x7F
    | .fin neg m e => wrapInt (clampInt (roundInt neg m (e - step) .rne) (-128) 127) 8
  | _ =>
    match x with
    | .nan => canonNaN t
    | .inf neg => elemMaxEnc t + signEnc t neg
    | .fin neg m e =>
      if m = 0 then signEnc t neg
      else min (roundMag neg m e t .rne) (elemMaxEnc t) + signEnc t neg

/-- RoundSat for an element of a scaled block (R64). -/
def roundSat (x : Val) (t : Elem) : Nat := roundSatStep x t (-6)

/-- Sat01 of R70 on an encoding of FP32, BF16 or FP16 (R62, R188). -/
def sat01 (enc : Nat) (t : Elem) : Nat :=
  match decodeElem enc t with
  | .nan => 0
  | .inf neg => if neg then 0 else roundF (.fin false 1 0) t .rne
  | .fin neg m e =>
    if neg || m == 0 then 0
    else if e + Nat.log2 m ≥ 0 then roundF (.fin false 1 0) t .rne
    else enc

/-! ## Arithmetic on exact values -/

/-- The exact value with its sign changed. -/
def Val.negate (x : Val) : Val :=
  match x with
  | .nan => .nan
  | .inf s => .inf (!s)
  | .fin s m e => .fin (!s) m e

/-- A finite value as an integer multiple of `2^q`, for `q` at most its exponent. -/
def scaledInt (neg : Bool) (m : Nat) (e q : Int) : Int :=
  let n : Int := (m <<< (e - q).toNat : Nat)
  if neg then -n else n

/-- The finite value `i * 2^q`, with the sign `zneg` where it is zero. -/
def ofScaled (i q : Int) (zneg : Bool) : Val :=
  if i = 0 then .fin zneg 0 0 else .fin (decide (i < 0)) i.natAbs q

/-- The exact sum, with the zero signs of R59 under a mode. -/
def Val.add (x y : Val) (mode : RMode) : Val :=
  match x, y with
  | .nan, _ => .nan
  | _, .nan => .nan
  | .inf s, .inf t => if s = t then .inf s else .nan
  | .inf s, _ => .inf s
  | _, .inf t => .inf t
  | .fin s m e, .fin t n f =>
    let q := min e f
    let zneg := if s = t then s else decide (mode = .down)
    ofScaled (scaledInt s m e q + scaledInt t n f q) q zneg

/-- The exact product (R59, R180). -/
def Val.mul (x y : Val) : Val :=
  match x, y with
  | .nan, _ => .nan
  | _, .nan => .nan
  | .inf s, .inf t => .inf (s != t)
  | .inf s, .fin t n _ => if n = 0 then .nan else .inf (s != t)
  | .fin s m _, .inf t => if m = 0 then .nan else .inf (s != t)
  | .fin s m e, .fin t n f => .fin (s != t) (m * n) (e + f)

/-- The quotient of two finite numbers kept to 64 bits more than any format holds, its last bit one where the
quotient is inexact, so that one rounding of it is the rounding of the exact quotient (R180 FDIV). -/
def divMag (m n : Nat) : Nat := 2 * ((m <<< 320) / n) + (if (m <<< 320) % n = 0 then 0 else 1)

/-- The quotient (R180 FDIV): x / ±0 is an infinity by the sign rule of R59, 0/0 and ∞/∞ are NaN. -/
def Val.div (x y : Val) : Val :=
  match x, y with
  | .nan, _ => .nan
  | _, .nan => .nan
  | .inf _, .inf _ => .nan
  | .inf s, .fin t _ _ => .inf (s != t)
  | .fin s _ _, .inf t => .fin (s != t) 0 0
  | .fin s m e, .fin t n f =>
    if n = 0 then (if m = 0 then .nan else .inf (s != t))
    else .fin (s != t) (divMag m n) (e - f - 321)

/-- One bit of an integer square root at a time: `r` is the root so far, `k` bits remain. -/
def isqrtBits (n r k : Nat) : Nat :=
  match k with
  | 0 => r
  | k + 1 =>
    let c := r + 2 ^ k
    if c * c ≤ n then isqrtBits n c k else isqrtBits n r k

/-- The integer square root. -/
def isqrt (n : Nat) : Nat := isqrtBits n 0 (Nat.log2 n / 2 + 1)

/-- The square root, kept as `divMag` keeps a quotient (R180 FSQRT). -/
def Val.sqrt (x : Val) : Val :=
  match x with
  | .nan => .nan
  | .inf neg => if neg then .nan else .inf false
  | .fin neg m e =>
    if m = 0 then .fin neg 0 0
    else if neg then .nan
    else
      let m' := if e % 2 = 0 then m else 2 * m
      let e' := if e % 2 = 0 then e else e - 1
      let n := m' <<< 320
      let r := isqrt n
      .fin false (2 * r + (if r * r = n then 0 else 1)) (e' / 2 - 161)

/-- FRND of R180: a value rounded on the grid of integers, a zero result keeping the sign. -/
def Val.toIntegral (x : Val) (mode : RMode) : Val :=
  match x with
  | .nan => .nan
  | .inf neg => .inf neg
  | .fin neg m e => if e ≥ 0 then .fin neg m e else .fin neg (roundShift neg m (-e).toNat mode) 0

/-- The order of two values that are no NaN: -0 equals +0 (R182). -/
def Val.cmp (x y : Val) : Ordering :=
  match x, y with
  | .inf s, .inf t => if s = t then .eq else if s then .lt else .gt
  | .inf s, _ => if s then .lt else .gt
  | _, .inf t => if t then .gt else .lt
  | .fin s m e, .fin t n f => let q := min e f; compare (scaledInt s m e q) (scaledInt t n f q)
  | _, _ => .eq

/-- A NaN. -/
def Val.isNan (x : Val) : Bool := match x with | .nan => true | _ => false

/-- A negative value, -0 and negative infinity among them. -/
def Val.isNeg (x : Val) : Bool := match x with | .nan => false | .inf s => s | .fin s _ _ => s

/-- An encoding ordered with -0 below +0 (R70 MinNum): is the first operand the lesser? -/
def valLess (a b : Val) : Bool :=
  match a.cmp b with
  | .lt => true
  | .gt => false
  | .eq => a.isNeg && !b.isNeg

/-- MinNum of R70 over encodings: the encoding of the lesser operand as it stands (R181). -/
def minNum (ea eb : Nat) (t : Elem) : Nat :=
  let a := decodeElem ea t
  let b := decodeElem eb t
  if a.isNan then (if b.isNan then canonNaN t else eb)
  else if b.isNan then ea else if valLess b a then eb else ea

/-- MaxNum of R70 over encodings (R181). -/
def maxNum (ea eb : Nat) (t : Elem) : Nat :=
  let a := decodeElem ea t
  let b := decodeElem eb t
  if a.isNan then (if b.isNan then canonNaN t else eb)
  else if b.isNan then ea else if valLess a b then eb else ea

/-- The float conditions of R182; `none` for the reserved codes 14 and 15. -/
def floatCond (code : Nat) (a b : Val) : Option Bool :=
  let un := a.isNan || b.isNan
  let o := a.cmp b
  let rel (k : Nat) : Bool :=
    match k with
    | 0 => o == .eq
    | 1 => o != .eq
    | 2 => o == .lt
    | 3 => o != .gt
    | 4 => o == .gt
    | _ => o != .lt
  if code < 6 then some (!un && rel code)
  else if code = 6 then some (!un)
  else if code = 7 then some un
  else if code < 14 then some (un || rel (code - 8))
  else none

/-! ## Scaled blocks (R63 to R67) -/

/-- floor(log2 |x|) of a nonzero finite value. -/
def floorLog2 (m : Nat) (e : Int) : Int := e + Nat.log2 m

/-- The largest floor(log2 |v[i]|) of a block; `none` where every value is zero. -/
def blockTop (v : List Val) : Option Int :=
  v.foldl (fun acc x =>
    match x with
    | .fin _ m e =>
      if m = 0 then acc
      else match acc with
        | none => some (floorLog2 m e)
        | some t => some (max t (floorLog2 m e))
    | _ => acc) none

/-- DeriveScale of R70 (R63). -/
def deriveScale (v : List Val) (t : Elem) : Nat :=
  if v.any (fun x => match x with | .fin _ _ _ => false | _ => true) then 0xFF
  else match blockTop v with
    | none => 0
    | some top => (clampInt (top - elemEmax t + 127) 0 254).toNat

/-- A value times a power of two. -/
def Val.scale (x : Val) (k : Int) : Val :=
  match x with
  | .fin s m e => .fin s m (e + k)
  | y => y

/-- One element of Quantise of R70 (R64). -/
def quantiseOne (v : Val) (t : Elem) (x : Nat) : Nat :=
  if x = 0xFF then 0 else roundSat (v.scale (127 - (x : Int))) t

/-- Quantise of R70 (R64). -/
def quantise (v : List Val) (t : Elem) (x : Nat) : List Nat := v.map fun y => quantiseOne y t x

/-- The value of an element of a scaled block before its scale: INT8 in steps of 2^-6 (R56). -/
def scaledVal (q : Nat) (t : Elem) : Val :=
  match t with
  | .int8 => (decodeElem q .int8).scale (-6)
  | _ => decodeElem q t

/-- Dequant of R70 (R65). -/
def dequant (q x : Nat) (t : Elem) : Val :=
  if x = 0xFF then .nan else (scaledVal q t).scale ((x : Int) - 127)

/-- Deliver of R70 (R66): beyond the largest finite value the result is an infinity; every other finite value is
exact, or rounded RNE where its lowest bit lies below the smallest subnormal. -/
def deliver (x : Val) (t : Elem) : Nat := roundF x t .rne

/-- The elements of a packed group: element `i` of type `t` in a little-endian byte string (R57). -/
def packedElem (bytes : List Byte) (t : Elem) (i : Nat) : Nat :=
  match elemBits t with
  | 4 => field (nthD bytes (i / 2) 0).toNat (4 * (i % 2)) 4
  | 6 => field (ofBytes (sliceBytes bytes (3 * (i / 4)) 3)) (6 * (i % 4)) 6
  | w => ofBytes (sliceBytes bytes (i * (w / 8)) (w / 8))

/-- The number whose successive fields of `w` bits are given, the first lowest. -/
def packBits (w : Nat) (l : List Nat) : Nat :=
  match l with
  | [] => 0
  | x :: r => x % 2 ^ w + 2 ^ w * packBits w r

/-- Elements packed into bytes (R57). -/
def packElems (t : Elem) (l : List Nat) : List Byte :=
  toBytes (packBits (elemBits t) l) ((elemBits t * l.length + 7) / 8)

/-! ## Matrix summation (R68) -/

/-- One exact product a × b × sa × sb (R68 step 1). -/
def product4 (a b sa sb : Val) : Val := (a.mul b).mul (sa.mul sb)

/-- The signs of a block's infinite products and whether a NaN is among them. -/
def blockSpecial (p : List Val) : Bool × Bool × Bool :=
  (p.any (·.isNan), p.any (· == .inf false), p.any (· == .inf true))

/-- The exact sum of the finite products, as an integer multiple of `2^q`. -/
def finiteSum (p : List Val) (q : Int) : Int :=
  p.foldl (fun acc x => match x with | .fin s m e => acc + scaledInt s m e q | _ => acc) 0

/-- The least exponent among finite products. -/
def leastExp (p : List Val) : Int :=
  p.foldl (fun acc x => match x with | .fin _ _ e => min acc e | _ => acc) 0

/-- The exact sum of several values: NaN or infinities as in R68, and an exact zero negative only when every term
is negative (R59 under RNE, R68, R184). -/
def sumExact (p : List Val) : Val :=
  let (nan, pinf, ninf) := blockSpecial p
  if nan || (pinf && ninf) then .nan
  else if pinf then .inf false
  else if ninf then .inf true
  else
    let q := leastExp p
    ofScaled (finiteSum p q) q (p.all (·.isNeg))

/-- BlockSum of R70 over the products of one K-block: summed exactly and rounded once to FP32 with RNE (R68). -/
def blockSum (p : List Val) : Val := decodeElem (roundF (sumExact p) .fp32 .rne) .fp32

/-- Accumulation of one block sum into an FP32 encoding (R68 step 3). -/
def accumulate (c : Nat) (s : Val) : Nat := roundF ((decodeElem c .fp32).add s .rne) .fp32 .rne

end Sys2Proof.Machine
end

