-- ==== Sys2Proof/Machine/Approx.lean ====
section
/-!
DEFINITION. The approximated functions of R185 and R186: the exact cases as the table gives them; elsewhere the
device's fixed candidate where it lies within the stated bound, and otherwise a value that does. The exact value y
is evaluated in fixed point of 256 bits.
-/

namespace Sys2Proof.Machine

/-- The fraction bits of the fixed point. -/
def fixBits : Nat := 256

/-- π in fixed point, truncated. -/
def piFix : Nat := 363771576891766324280234942777729862653393377328392429958772151117938894466185

/-- ln 2 in fixed point, truncated. -/
def ln2Fix : Nat := 80260960185991308862233904206310070533990667611589946606122867505419956976171

/-- The product of two fixed-point integers. -/
def fixMul (a b : Int) : Int := (a * b) / 2 ^ fixBits

/-- Taylor sum of exp: `term` is the term of index `k`. -/
def expTaylor (x term acc : Int) (k fuel : Nat) : Int :=
  match fuel with
  | 0 => acc
  | fuel + 1 => let t := fixMul term x / ((k : Int) + 1); expTaylor x t (acc + t) (k + 1) fuel

/-- e^x for a fixed-point x in [0, ln 2). -/
def expFix (x : Int) : Int := expTaylor x (2 ^ fixBits) (2 ^ fixBits) 0 60

/-- The alternating series of sin and cos: every second term of exp with its sign changed. -/
def trigTaylor (x2 term acc : Int) (k fuel : Nat) : Int :=
  match fuel with
  | 0 => acc
  | fuel + 1 =>
    let t := -(fixMul term x2) / (((k : Int) + 1) * (k + 2))
    trigTaylor x2 t (acc + t) (k + 2) fuel

/-- sin of a fixed-point x in [-π, π]. -/
def sinFix (x : Int) : Int := trigTaylor (fixMul x x) x x 1 60

/-- cos of a fixed-point x in [-π, π]. -/
def cosFix (x : Int) : Int := trigTaylor (fixMul x x) (2 ^ fixBits) (2 ^ fixBits) 0 60

/-- The series of atanh: `pw` is z^(2k+1). -/
def atanhSeries (z2 pw acc : Int) (k fuel : Nat) : Int :=
  match fuel with
  | 0 => acc
  | fuel + 1 => atanhSeries z2 (fixMul pw z2) (acc + pw / (2 * (k : Int) + 1)) (k + 1) fuel

/-- ln of a fixed-point m in [1, 2). -/
def lnFix (m : Int) : Int :=
  let one : Int := 2 ^ fixBits
  let z := ((m - one) * 2 ^ fixBits) / (m + one)
  2 * atanhSeries (fixMul z z) z 0 0 90

/-- A finite value as a fixed-point integer, truncated. -/
def valFix (neg : Bool) (m : Nat) (e : Int) : Int :=
  let k := e + fixBits
  let n : Int := if k ≥ 0 then ((m <<< k.toNat : Nat) : Int) else ((m >>> (-k).toNat : Nat) : Int)
  if neg then -n else n

/-- A fixed-point integer as a value times 2^k. -/
def ofFix (i k : Int) : Val := ofScaled i (k - fixBits) false

/-- 2^x for a fixed-point x. -/
def exp2Val (x : Int) : Val :=
  let n := x / 2 ^ fixBits
  let f := x % 2 ^ fixBits
  ofFix (expFix (fixMul f ln2Fix)) n

/-- The argument brought into [-π, π]. -/
def reduceAngle (x : Int) : Int :=
  let r := x % (2 * piFix)
  if r > piFix then r - 2 * piFix else r

/-- The exact value y of R185 for an operand the exact cases do not settle. -/
def approxExact (fn : ApproxFn) (neg : Bool) (m : Nat) (e : Int) : Val :=
  match fn with
  | .rcp => Val.div (.fin false 1 0) (.fin neg m e)
  | .rsq => Val.div (.fin false 1 0) (Val.sqrt (.fin neg m e))
  | .exp2 => exp2Val (valFix neg m e)
  | .log2 =>
    let k := floorLog2 m e
    let mant := valFix false m (e - k)
    let l := (lnFix mant * 2 ^ fixBits) / ln2Fix
    ofFix (l + k * 2 ^ fixBits) 0
  | .sin => ofFix (sinFix (reduceAngle (valFix neg m e))) 0
  | .cos => ofFix (cosFix (reduceAngle (valFix neg m e))) 0
  | .tanh =>
    -- tanh |a| = (u - 1) / (u + 1) with u = e^(2|a|) = 2^(2|a| / ln 2)
    let x := (2 * valFix false m e * 2 ^ fixBits) / ln2Fix
    let u := exp2Val x
    let one : Val := .fin false 1 0
    let r := Val.div (u.add one.negate .rne) (u.add one .rne)
    if neg then r.negate else r

/-- ulp(y) of R185 as a power of two. -/
def ulpExp (y : Val) : Int :=
  match y with
  | .fin _ m e => if m = 0 then -149 else max (floorLog2 m e) (-126) - 23
  | _ => 0

/-- Is |x| at most |y|? -/
def magLe (x y : Val) : Bool :=
  match x, y with
  | .fin _ m e, .fin _ n f =>
    let q := min e f
    decide (scaledInt false m e q ≤ scaledInt false n f q)
  | _, _ => false

/-- The bound of R185 on |r - y| for the operand `a`; `none` where any value in [-1, 1] is allowed. -/
def approxBound (fn : ApproxFn) (y a : Val) : Option Val :=
  match fn with
  | .rcp | .rsq => some (.fin false 1 (ulpExp y))
  | .exp2 | .log2 => some (.fin false 2 (ulpExp y))
  | .tanh => some (.fin false 1 (-22))
  | .sin | .cos =>
    match a with
    | .fin _ m e =>
      let x := valFix false m e
      if x ≥ 2 ^ (fixBits + 16) then none
      else if x ≤ piFix then some (.fin false 1 (-21))
      else some ((Val.fin false 1 (-21)).add (.fin false m (e - 23)) .rne)
    | _ => none

/-- Is |r − 1/a| at most 2^u? -/
def nearRcp (a r : Val) (u : Int) : Bool := magLe ((r.mul a).add (.fin true 1 0) .rne) ((Val.fin false 1 u).mul a)

/-- Is |r − 1/√a| at most 2^u, for an `r` that is not negative? -/
def nearRsq (a r : Val) (u : Int) : Bool :=
  let one : Val := .fin false 1 0
  let sq (x : Val) : Val := (x.mul x).mul a
  !r.isNeg && magLe (sq (r.add (.fin true 1 u) .rne)) one && magLe one (sq (r.add (.fin false 1 u) .rne))

/-- May the device answer `r` where the exact value is `y` (R185)? -/
def approxAllows (fn : ApproxFn) (a y : Val) (r : Word) : Bool :=
  let v := decodeElem r.toNat .fp32
  let near :=
    match approxBound fn y a with
    | some b => magLe (v.add y.negate .rne) b
    | none => true
  let one : Val := .fin false 1 0
  match fn with
  | .rcp => nearRcp a v (ulpExp y)
  | .rsq => nearRsq a v (ulpExp y)
  | .exp2 | .log2 => near
  | .sin | .cos => near && magLe v one
  | .tanh => near && magLe v one && (v.isNeg == a.isNeg)

/-- Does a finite value exceed the largest finite FP32 value in magnitude? -/
def beyondFp32 (y : Val) : Bool :=
  match y with
  | .fin _ m _ => m != 0 && !magLe y (decodeElem 0x7F7FFFFF .fp32)
  | _ => false

/-- An FP32 encoding brought into [-1, 1]. -/
def unitEnc (r : Nat) : Nat := min (r % 2 ^ 31) 0x3F800000 + r / 2 ^ 31 * 2 ^ 31

/-- The FP32 value nearest to `y`; no result of FSIN, FCOS or FTANH lies outside [-1, 1], and FTANH keeps its operand's sign. -/
def nearestEnc (fn : ApproxFn) (neg : Bool) (y : Val) : Nat :=
  let r := roundF y .fp32 .rne
  match fn with
  | .rcp | .rsq | .exp2 | .log2 => r
  | .sin | .cos => unitEnc r
  | .tanh => unitEnc (r % 2 ^ 31) + signEnc .fp32 neg

/-- The result of a function where no exact case applies: an infinity beyond the finite range, the device's own
candidate where R185 allows it, and otherwise the nearest FP32 value, which R185 always allows. -/
def approxInexact (fn : ApproxFn) (enc : Word) (neg : Bool) (m : Nat) (e : Int) : Nat :=
  let y := approxExact fn neg m e
  let wide := fn != .sin && fn != .cos && fn != .tanh
  if wide && beyondFp32 y then infEnc .fp32 y.isNeg
  else if approxAllows fn (.fin neg m e) y (Config.approx fn enc) then (Config.approx fn enc).toNat
  else nearestEnc fn neg y

/-- The integer a finite value is, where it is one. -/
def asInteger (neg : Bool) (m : Nat) (e : Int) : Option Int :=
  let n := if e ≥ 0 then m <<< e.toNat else m >>> (-e).toNat
  if e ≥ 0 ∨ m % 2 ^ (-e).toNat = 0 then some (if neg then -(n : Int) else n) else none

/-- Is a nonzero magnitude a power of two, and which? -/
def asPow2 (m : Nat) (e : Int) : Option Int :=
  if m ≠ 0 ∧ 2 ^ Nat.log2 m = m then some (floorLog2 m e) else none

/-- A power of two, or a value, as an FP32 encoding. -/
def pow2Enc (neg : Bool) (k : Int) : Nat := roundF (.fin neg 1 k) .fp32 .rne

/-- The result of an approximated function on an FP32 operand: the exact cases of R185, else `approxInexact`. -/
def approxResult (fn : ApproxFn) (ea : Word) : Nat :=
  match decodeElem ea.toNat .fp32 with
  | .nan => canonNaN .fp32
  | .inf neg =>
    match fn with
    | .rcp => signEnc .fp32 neg
    | .rsq => if neg then canonNaN .fp32 else 0
    | .exp2 => if neg then 0 else infEnc .fp32 false
    | .log2 => if neg then canonNaN .fp32 else infEnc .fp32 false
    | .sin | .cos => canonNaN .fp32
    | .tanh => pow2Enc neg 0
  | .fin neg m e =>
    if m = 0 then
      match fn with
      | .rcp | .rsq => infEnc .fp32 neg
      | .exp2 | .cos => pow2Enc false 0
      | .log2 => infEnc .fp32 true
      | .sin | .tanh => signEnc .fp32 neg
    else
      match fn with
      | .rcp =>
        match asPow2 m e with
        | some k => if k ≥ -127 then pow2Enc neg (-k) else approxInexact fn ea neg m e
        | none => approxInexact fn ea neg m e
      | .rsq =>
        if neg then canonNaN .fp32
        else match asPow2 m e with
          | some k => if k % 2 = 0 then pow2Enc false (-(k / 2)) else approxInexact fn ea neg m e
          | none => approxInexact fn ea neg m e
      | .exp2 =>
        if !neg && decide (floorLog2 m e ≥ 7) then infEnc .fp32 false
        else if neg && decide ((Val.fin neg m e).cmp (.fin true 150 0) = .lt) then 0
        else match asInteger neg m e with
          | some n => if -149 ≤ n ∧ n ≤ 127 then pow2Enc false n else approxInexact fn ea neg m e
          | none => approxInexact fn ea neg m e
      | .log2 =>
        if neg then canonNaN .fp32
        else match asPow2 m e with
          | some k => roundF (ofScaled k 0 false) .fp32 .rne
          | none => approxInexact fn ea neg m e
      | .sin | .cos => approxInexact fn ea neg m e
      | .tanh =>
        if floorLog2 m e < -12 then ea.toNat
        else if (Val.fin false m e).cmp (.fin false 9 0) ≠ .lt then pow2Enc neg 0
        else approxInexact fn ea neg m e

end Sys2Proof.Machine
end

