-- ==== Sys2Proof/Machine/Flags.lean ====
section
/-!
DEFINITION. The conditions and predicate combinations. The device keeps no status flags (09_thread_float R178,
03_numbers): what a comparison finds goes to a predicate register, and these are the functions that find it (R33, R173,
R182).
-/

namespace Sys2Proof.Machine

/-- The integer conditions of R33. -/
inductive IntCond where
  | eq | ne | lt | le | gt | ge | ltu | leu | gtu | geu
  deriving DecidableEq, Repr

/-- The condition a code names; codes 10 to 15 are reserved (R33). -/
def intCondOf (n : Nat) : Option IntCond :=
  match n with
  | 0 => some .eq | 1 => some .ne | 2 => some .lt | 3 => some .le | 4 => some .gt | 5 => some .ge
  | 6 => some .ltu | 7 => some .leu | 8 => some .gtu | 9 => some .geu | _ => none

/-- A condition on two values of one width: signed for eq to ge, unsigned for ltu to geu (R173, R174). -/
def intCondHolds {w : Nat} (c : IntCond) (a b : BitVec w) : Bool :=
  match c with
  | .eq => a == b
  | .ne => a != b
  | .lt => BitVec.slt a b
  | .le => BitVec.sle a b
  | .gt => BitVec.slt b a
  | .ge => BitVec.sle b a
  | .ltu => BitVec.ult a b
  | .leu => BitVec.ule a b
  | .gtu => BitVec.ult b a
  | .geu => BitVec.ule b a

/-- The condition a MOD code names, tested; a reserved code holds nowhere (the decoder refuses it). -/
def condCode {w : Nat} (n : Nat) (a b : BitVec w) : Bool :=
  match intCondOf n with
  | some c => intCondHolds c a b
  | none => false

/-- The predicate combination MOD[5:4] of R33: none, and, or, xor. -/
def combine (code : Nat) (v p : Bool) : Bool :=
  match code % 4 with
  | 0 => v
  | 1 => v && p
  | 2 => v || p
  | _ => v != p

/-- A three-input look-up table (R173 PLUT, R172 BLUT): bit 4a + 2b + c of the table. -/
def lut3 (table : BitVec 8) (a b c : Bool) : Bool :=
  table.getLsbD (4 * ofBool a + 2 * ofBool b + ofBool c)

/-- A float condition of R182 on two prepared FP32 or packed values; a reserved code holds nowhere. -/
def floatCondHolds (code : Nat) (a b : Val) : Bool := (floatCond code a b).getD false

end Sys2Proof.Machine
end

