-- ==== Sys2Proof/Machine/Alu.lean ====
section
/-!
DEFINITION. The results of the arithmetic families as functions of their operands' values (08_thread R169 to R174,
09_thread_float R179 to R189, and the folds of 10_barrier R203). Registers, guards and traps are elsewhere.
-/

namespace Sys2Proof.Machine

/-! ## Integer arithmetic (R170, R171) -/

/-- A word as a signed integer. -/
abbrev sw (a : Word) : Int := a.toInt

/-- A word from an integer, modulo 2^32 (R69). -/
abbrev ofI (i : Int) : Word := BitVec.ofInt 32 i

/-- IMULH: the upper half of the signed product. -/
def mulHigh (a b : Word) : Word := ofI ((sw a * sw b) / 2 ^ 32)

/-- IMULHU: the upper half of the unsigned product. -/
def mulHighU (a b : Word) : Word := BitVec.ofNat 32 ((a.toNat * b.toNat) / 2 ^ 32)

/-- IDIV, truncated toward zero, with the cases of R171. -/
def idiv (a b : Word) : Word :=
  if b = 0 then 0xFFFFFFFF
  else if a = 0x80000000 ∧ b = 0xFFFFFFFF then 0x80000000
  else ofI (Int.tdiv (sw a) (sw b))

/-- UDIV with the cases of R171. -/
def udiv (a b : Word) : Word := if b = 0 then 0xFFFFFFFF else BitVec.ofNat 32 (a.toNat / b.toNat)

/-- IREM with the cases of R171. -/
def irem (a b : Word) : Word :=
  if b = 0 then a
  else if a = 0x80000000 ∧ b = 0xFFFFFFFF then 0
  else ofI (sw a - sw b * Int.tdiv (sw a) (sw b))

/-- UREM with the cases of R171. -/
def urem (a b : Word) : Word := if b = 0 then a else BitVec.ofNat 32 (a.toNat - b.toNat * (a.toNat / b.toNat))

/-- A saturating result (R69, R170). -/
def satI (i : Int) : Word := ofI (clampInt i (-2147483648) 2147483647)

/-- Byte `i` of a word. -/
def byteOf (a : Word) (i : Nat) : Nat := field a.toNat (8 * i) 8

/-- DP4A: four signed byte products added to `c`. -/
def dp4a (a b c : Word) : Word :=
  ofI ((c.toNat : Int) + ((upTo 4).map fun i => signExt (byteOf a i) 8 * signExt (byteOf b i) 8).sum)

/-- DP4AU: as DP4A with unsigned bytes. -/
def dp4au (a b c : Word) : Word :=
  BitVec.ofNat 32 (c.toNat + ((upTo 4).map fun i => byteOf a i * byteOf b i).sum)

/-- IABS; 0x80000000 gives itself. -/
def iabs (a : Word) : Word := if sw a < 0 then -a else a

/-- The lesser and greater of two words, signed and unsigned. -/
def imin (a b : Word) : Word := if BitVec.slt b a then b else a
def imax (a b : Word) : Word := if BitVec.slt a b then b else a
def umin (a b : Word) : Word := if BitVec.ult b a then b else a
def umax (a b : Word) : Word := if BitVec.ult a b then b else a

/-! ## Logic, shifts and bit fields (R172) -/

/-- BLUT: the table applied bit by bit. -/
def blut (table : BitVec 8) (a b c : Word) : Word :=
  BitVec.ofNat 32 ((upTo 32).foldl (fun acc i =>
    acc + (if lut3 table (a.getLsbD i) (b.getLsbD i) (c.getLsbD i) then 2 ^ i else 0)) 0)

/-- SHL: 0 when the count is 32 or more. -/
def shl (a b : Word) : Word := if b.toNat ≥ 32 then 0 else a <<< b.toNat

/-- SHR: 0 when the count is 32 or more. -/
def shr (a b : Word) : Word := if b.toNat ≥ 32 then 0 else a >>> b.toNat

/-- SAR: by min(ub, 31), filled with the sign. -/
def sar (a b : Word) : Word := a.sshiftRight (min b.toNat 31)

/-- ROL by b[4:0]. -/
def rol (a b : Word) : Word := a.rotateLeft (b.toNat % 32)

/-- The position and length of a bit field: b[7:0] and min(b[15:8], 32). -/
def fieldPos (b : Word) : Nat := b.toNat % 256
def fieldLen (b : Word) : Nat := min (field b.toNat 8 8) 32

/-- Bits of `a` from `pos` on, positions from 32 up reading as `fill`. -/
def fieldBits (a : Word) (fill : Bool) (pos len : Nat) : Nat :=
  (upTo len).foldl (fun acc i =>
    acc + (if (if pos + i < 32 then a.getLsbD (pos + i) else fill) then 2 ^ i else 0)) 0

/-- BFE: sign-extended from the field's top bit, positions from 32 up reading as a[31]; length 0 gives 0. -/
def bfe (a b : Word) : Word := ofI (signExt (fieldBits a a.msb (fieldPos b) (fieldLen b)) (fieldLen b))

/-- BFEU: zero-extended, positions from 32 up reading as 0. -/
def bfeu (a b : Word) : Word := BitVec.ofNat 32 (fieldBits a false (fieldPos b) (fieldLen b))

/-- BFI: bits pos to min(pos + len, 32) - 1 of `c` replaced by a[0] upward. -/
def bfi (a b c : Word) : Word :=
  BitVec.ofNat 32 ((upTo 32).foldl (fun acc i =>
    acc + (if (if fieldPos b ≤ i ∧ i < fieldPos b + fieldLen b then a.getLsbD (i - fieldPos b) else c.getLsbD i)
      then 2 ^ i else 0)) 0)

/-- Leading zeros; 32 for zero. -/
def clz (a : Word) : Word := if a = 0 then 32 else BitVec.ofNat 32 (31 - Nat.log2 a.toNat)

/-- One byte of BSHUF under its control byte. -/
def bshufByte (a b : Word) (ctl : Nat) : Nat :=
  if ctl.testBit 4 then 0
  else
    let y := field (a.toNat + b.toNat * 2 ^ 32) (8 * (ctl % 8)) 8
    if ctl.testBit 3 then reverseBits y 8 else y

/-- BSHUF. -/
def bshuf (a b c : Word) : Word :=
  BitVec.ofNat 32 (packBits 8 ((upTo 4).map fun i => bshufByte a b (byteOf c i)))

/-! ## 64-bit values (R174) -/

/-- SHL64: 0 when the count is 64 or more. -/
def shl64 (a : DWord) (n : Nat) : DWord := if n ≥ 64 then 0 else a <<< n

/-- SHR64: the same rule, logical. -/
def shr64 (a : DWord) (n : Nat) : DWord := if n ≥ 64 then 0 else a >>> n

/-! ## Float operands and results (R179) -/

/-- An operand's bit 31 cleared and flipped as MOD[4] and MOD[3] ask (R179). -/
def prepA (mod : BitVec 8) (e : Word) : Word :=
  let e := if mod.getLsbD 4 then e &&& 0x7FFFFFFF else e
  if mod.getLsbD 3 then e ^^^ 0x80000000 else e

/-- An operand's bit 31 flipped where the MOD bit asks: MOD[5] for B, MOD[6] for C (R179). -/
def prepNeg (mod : BitVec 8) (i : Nat) (e : Word) : Word :=
  if mod.getLsbD i then e ^^^ 0x80000000 else e

/-- The FP32 value of a word. -/
def f32 (e : Word) : Val := decodeElem e.toNat .fp32

/-- The result of a rounded FP32 entry: RoundF under MOD[1:0], then Sat01 when MOD[2] asks (R179). -/
def f32Result (mod : BitVec 8) (x : Val) : Word :=
  let r := roundF x .fp32 (rmodeOf mod.toNat)
  BitVec.ofNat 32 (if mod.getLsbD 2 then sat01 r .fp32 else r)

/-- Sat01 on an approximated result when MOD[2] asks (R185). -/
def approxFinal (mod : BitVec 8) (r : Nat) : Word :=
  BitVec.ofNat 32 (if mod.getLsbD 2 then sat01 r .fp32 else r)

/-- The rounding mode of FADD in R59's zero rule is the instruction's own. -/
def faddVal (mod : BitVec 8) (a b : Val) : Val := a.add b (rmodeOf mod.toNat)

/-! ## Packed elements (R183, R184) -/

/-- The element type MOD[0] selects (R35). -/
def halfElem (mod : BitVec 8) : Elem := if mod.getLsbD 0 then .bf16 else .fp16

/-- Element `i` of a packed word. -/
def half (a : Word) (i : Nat) : Nat := field a.toNat (16 * i) 16

/-- A packed word from its two elements. -/
def packHalf (e0 e1 : Nat) : Word := BitVec.ofNat 32 (e0 % 65536 + 65536 * (e1 % 65536))

/-- An operation on values applied to both elements, each rounded RNE (R183). -/
def half2 (t : Elem) (f : Val → Val → Val) (a b : Word) : Word :=
  let el (i : Nat) := roundF (f (decodeElem (half a i) t) (decodeElem (half b i) t)) t .rne
  packHalf (el 0) (el 1)

/-- HFMA2: rounded once (R183). -/
def hfma2 (t : Elem) (a b c : Word) : Word :=
  let v (x : Word) (i : Nat) := decodeElem (half x i) t
  let el (i : Nat) := roundF (((v a i).mul (v b i)).add (v c i) .rne) t .rne
  packHalf (el 0) (el 1)

/-- HDOT2: c + a0 × b0 + a1 × b1, rounded once to FP32 (R184). -/
def hdot2 (t : Elem) (a b c : Word) : Word :=
  let v (x : Word) (i : Nat) := decodeElem (half x i) t
  BitVec.ofNat 32 (roundF (sumExact [f32 c, (v a 0).mul (v b 0), (v a 1).mul (v b 1)]) .fp32 .rne)

/-! ## Conversions (R187 to R189) -/

/-- F2H: one element converted, and clamped when MOD[2] asks (R188). -/
def f2hElem (mod : BitVec 8) (t : Elem) (a : Val) : Nat :=
  let r := roundF a t (rmodeOf mod.toNat)
  if mod.getLsbD 2 then sat01 r t else r

/-- H2F: one element with bit 15 cleared and flipped as MOD asks, converted exactly (R188). -/
def h2fElem (mod : BitVec 8) (t : Elem) (e : Nat) : Word :=
  let e := if mod.getLsbD 4 then e % 32768 else e
  let e := if mod.getLsbD 3 then e ^^^ 32768 else e
  BitVec.ofNat 32 (roundF (decodeElem e t) .fp32 .rne)

/-- CVTQ of R189. -/
def cvtq (t : Elem) (a : Val) (x : Nat) : Word := BitVec.ofNat 32 (quantiseOne a t x)

/-- CVTD of R189. -/
def cvtd (t : Elem) (q x : Nat) : Word := BitVec.ofNat 32 (deliver (dequant (q % 2 ^ elemBits t) x t) .fp32)

/-- XSCALE of R189. -/
def xscale (t : Elem) (a : Val) : Word := BitVec.ofNat 32 (deriveScale [a] t)

/-! ## Fold operations (R203) -/

/-- Op(acc, v) of R203; codes 11 to 15 are reserved. -/
def foldOp (code : Nat) (acc v : Word) : Word :=
  match code with
  | 0 => acc + v
  | 1 => imin acc v
  | 2 => imax acc v
  | 3 => umin acc v
  | 4 => umax acc v
  | 5 => acc &&& v
  | 6 => acc ||| v
  | 7 => acc ^^^ v
  | 8 => BitVec.ofNat 32 (roundF ((f32 acc).add (f32 v) .rne) .fp32 .rne)
  | 9 => BitVec.ofNat 32 (minNum acc.toNat v.toNat .fp32)
  | _ => BitVec.ofNat 32 (maxNum acc.toNat v.toNat .fp32)

/-- The exclusive identity of R203. -/
def foldIdentity (code : Nat) : Word :=
  match code with
  | 0 => 0 | 1 => 0x7FFFFFFF | 2 => 0x80000000 | 3 => 0xFFFFFFFF | 4 => 0 | 5 => 0xFFFFFFFF | 6 => 0 | 7 => 0
  | 8 => 0x80000000 | 9 => 0x7F800000 | _ => 0xFF800000

/-- The inclusive folds of a list of values, the first its own value. -/
def foldScan (code : Nat) (l : List Word) : List Word :=
  match l with
  | [] => []
  | v :: r => go v r [v]
where
  /-- The rest of the scan after accumulator `acc`, in reverse onto `out`. -/
  go (acc : Word) (r out : List Word) : List Word :=
    match r with
    | [] => out.reverse
    | v :: r => let n := foldOp code acc v; go n r (n :: out)

end Sys2Proof.Machine
end

