-- ==== Sys2Proof/Syntax.lean ====
section
/-!
DEFINITION. The syntax: one constructor per row of spec/opcode_table.json. The rows are of two kinds: the instructions
of the Shavon word (02_encoding R23, R40), whose constructors carry the fields of their format, and the steps of the
device, its engines, its firmware and its host (95_what_each_step_holds), whose constructors carry nothing: what such a step acts on, and what comes from outside the machine,
stands beside it in the state (EvArg), as an agenda entry gives it.
-/

namespace Sys2Proof

/-- Who accesses storage: a thread of a group (by the group's identity), a service lane of a core (R346), the sextant core of
a die (R31), and an engine of a core (R109), which executes no instructions of the word. -/
inductive Agent where
  | thread (gid tid : Nat)
  | lane (core lane : Nat)
  | sextant (die : Nat)
  | engine (core q : Nat)
  deriving DecidableEq, Repr

/-- The operations of ATOM and RED (R40, R262). -/
inductive AtomOp where
  | add | min | max | umin | umax | and | or | xor | exch | cas | fadd | fmax | incw
  deriving DecidableEq, Repr

/-- The guard of a word (R20, R21): polarity PN and predicate PI. -/
structure GuardF where
  pn : Bool
  pi : BitVec 3
  deriving DecidableEq, Repr

/-- The fields of an R-format word whose FN is the instruction's own (R23). -/
structure OpR where
  g : GuardF
  d : RegNo
  a : RegNo
  b : RegNo
  c : RegNo
  mod : BitVec 8
  deriving DecidableEq, Repr

/-- An R-format word of families 0x36 and 0x37, whose FN[11:8] is the scope (R37). -/
structure OpS where
  g : GuardF
  d : RegNo
  a : RegNo
  b : RegNo
  scope : BitVec 4
  mod : BitVec 8
  deriving DecidableEq, Repr

/-- An R-format word of families 0x34 and 0x35: the operation of FN[7:0] beside the scope (R37, R261). -/
structure OpA where
  g : GuardF
  d : RegNo
  a : RegNo
  b : RegNo
  c : RegNo
  scope : BitVec 4
  op : AtomOp
  mod : BitVec 8
  deriving DecidableEq, Repr

/-- The fields of an I-format word (R23). -/
structure OpI where
  g : GuardF
  d : RegNo
  a : RegNo
  imm : Word
  deriving DecidableEq, Repr

/-- The fields of an M-format word (R23, R36). -/
structure OpM where
  g : GuardF
  d : RegNo
  b : RegNo
  off : BitVec 16
  scope : BitVec 4
  mod : BitVec 8
  deriving DecidableEq, Repr

/-- The fields of a J-format word (R23, R25). -/
structure OpJ where
  g : GuardF
  d : RegNo
  rel : BitVec 36
  deriving DecidableEq, Repr

/-- The fields of an E-format word (R23, R109). -/
structure OpE where
  g : GuardF
  d : RegNo
  a : RegNo
  b : RegNo
  q : BitVec 8
  mod : BitVec 8
  deriving DecidableEq, Repr

/-- The fields of a T-format word (R23, R287). -/
structure OpT where
  g : GuardF
  td : BitVec 4
  ta : BitVec 4
  tb : BitVec 4
  ts : BitVec 4
  ea : BitVec 8
  eb : BitVec 8
  acc : BitVec 4
  gran : BitVec 2
  mod : BitVec 8
  deriving DecidableEq, Repr

/-- A level of work that can complete (R93): a launch or a graph run by its identity, the phase or the job of a
context. -/
inductive Level where
  | launch (uid : Nat)
  | graph (uid : Nat)
  | phase (ctx : Nat)
  | job (ctx : Nat)
  deriving DecidableEq, Repr

/-- A request from a peer device (R312, R324), or from the host: its operation, offset, bytes and identity; a message of a reserved OP is
one too. -/
inductive PeerReq where
  | read (off n id : Nat)
  | write (off : Nat) (data : List Byte) (id : Nat)
  | atomic (off : Nat) (op : AtomOp) (wide : Bool) (b c : DWord) (id : Nat)
  | reserved (op : Nat)
  deriving DecidableEq, Repr

/-- What an SRAM soft error hits (R364, R381). -/
inductive SoftHit where
  | corrected
  | register (who : Agent) (r : Nat)
  | scratch (gid word : Nat)
  | tile (core t word : Nat)
  | l1 (core index : Nat)
  | storeBuffer (core index : Nat)
  | template (core q slot : Nat)
  | entry (core q index : Nat)
  deriving DecidableEq, Repr

/-- What a step of the device acts on: the numbers of its objects (n1, n2, n3), a choice, values and bytes from outside,
and the few structured operands. Each step's meaning says which fields it reads. -/
structure EvArg where
  n1 : Nat := 0
  n2 : Nat := 0
  n3 : Nat := 0
  flag : Bool := false
  v1 : DWord := 0
  v2 : DWord := 0
  who : Agent := .sextant 0
  bytes : List Byte := []
  nums : List Nat := []
  op : AtomOp := .add
  level : Level := .job 0
  hit : SoftHit := .corrected
  peer : PeerReq := .read 0 0 0
  deriving DecidableEq, Repr

/-- The instructions and steps, one constructor per row of spec/opcode_table.json: the instructions of the word first,
then the steps of the device. -/
inductive Instr where
  | nop (o : OpR)
  | bra (o : OpJ)
  | call (o : OpJ)
  | brx (o : OpR)
  | callx (o : OpR)
  | ret (o : OpR)
  | exit_ (o : OpR)
  | yield (o : OpR)
  | trap (o : OpR)
  | brk (o : OpR)
  | sleep (o : OpR)
  | movi (o : OpI)
  | movih (o : OpI)
  | iaddi (o : OpI)
  | imuli (o : OpI)
  | andi (o : OpI)
  | ori (o : OpI)
  | xori (o : OpI)
  | shli (o : OpI)
  | shri (o : OpI)
  | sari (o : OpI)
  | aaddi (o : OpI)
  | iadd (o : OpR)
  | isub (o : OpR)
  | imul (o : OpR)
  | imulh (o : OpR)
  | imulhu (o : OpR)
  | imad (o : OpR)
  | imin (o : OpR)
  | imax (o : OpR)
  | umin (o : OpR)
  | umax (o : OpR)
  | iabs (o : OpR)
  | iadds (o : OpR)
  | isubs (o : OpR)
  | idiv (o : OpR)
  | udiv (o : OpR)
  | irem (o : OpR)
  | urem (o : OpR)
  | dp4a (o : OpR)
  | dp4au (o : OpR)
  | and_ (o : OpR)
  | or_ (o : OpR)
  | xor_ (o : OpR)
  | andn (o : OpR)
  | blut (o : OpR)
  | shl (o : OpR)
  | shr_ (o : OpR)
  | sar (o : OpR)
  | rol (o : OpR)
  | bfe (o : OpR)
  | bfeu (o : OpR)
  | bfi (o : OpR)
  | popc (o : OpR)
  | clz (o : OpR)
  | brev (o : OpR)
  | bshuf (o : OpR)
  | icmp (o : OpR)
  | icmpm (o : OpR)
  | sel (o : OpR)
  | plut (o : OpR)
  | pgat (o : OpR)
  | pscat (o : OpR)
  | aadd (o : OpR)
  | asub (o : OpR)
  | acmp (o : OpR)
  | shl64 (o : OpR)
  | shr64 (o : OpR)
  | iadd64 (o : OpR)
  | imul64 (o : OpR)
  | amov (o : OpR)
  | fadd (o : OpR)
  | fsub (o : OpR)
  | fmul (o : OpR)
  | ffma (o : OpR)
  | fmin (o : OpR)
  | fmax (o : OpR)
  | fsetp (o : OpR)
  | fset (o : OpR)
  | fdiv (o : OpR)
  | fsqrt (o : OpR)
  | frnd (o : OpR)
  | hadd2 (o : OpR)
  | hmul2 (o : OpR)
  | hfma2 (o : OpR)
  | hmin2 (o : OpR)
  | hmax2 (o : OpR)
  | hsetp2 (o : OpR)
  | hdot2 (o : OpR)
  | frcp (o : OpR)
  | frsq (o : OpR)
  | fexp2 (o : OpR)
  | flog2 (o : OpR)
  | fsin (o : OpR)
  | fcos (o : OpR)
  | ftanh (o : OpR)
  | f2i (o : OpR)
  | f2u (o : OpR)
  | i2f (o : OpR)
  | u2f (o : OpR)
  | f2h (o : OpR)
  | h2f (o : OpR)
  | cvtq (o : OpR)
  | cvtd (o : OpR)
  | xscale (o : OpR)
  | mov (o : OpR)
  | sread (o : OpR)
  | kput (o : OpR)
  | kget (o : OpR)
  | tumb (o : OpR)
  | xshf (o : OpR)
  | xred (o : OpR)
  | xscn (o : OpR)
  | xbal (o : OpR)
  | xvote (o : OpR)
  | bari (o : OpR)
  | bara (o : OpR)
  | barw (o : OpR)
  | bars (o : OpR)
  | semi (o : OpR)
  | sems (o : OpR)
  | semw (o : OpR)
  | semr (o : OpR)
  | ld (o : OpM)
  | st (o : OpM)
  | ldsc (o : OpM)
  | stsc (o : OpM)
  | atom (o : OpA)
  | red_ (o : OpA)
  | fence (o : OpS)
  | fprom (o : OpS)
  | cinv (o : OpS)
  | cwb (o : OpS)
  | bkvaddf (o : OpS)
  | bkvaddi (o : OpS)
  | bkvmaxf (o : OpS)
  | bkvmaxa (o : OpS)
  | bkvaddh (o : OpS)
  | bkred (o : OpS)
  | sharm (o : OpR)
  | shpub (o : OpR)
  | shdrop (o : OpR)
  | shstat (o : OpR)
  | enq (o : OpE)
  | tplw (o : OpE)
  | qstat (o : OpE)
  | qwait (o : OpE)
  | qpop (o : OpE)
  | qpush (o : OpE)
  | tcfg (o : OpR)
  | tcfgr (o : OpR)
  | tzero (o : OpR)
  | tget (o : OpR)
  | tset (o : OpR)
  | tmma (o : OpT)
  | tcvt (o : OpT)
  | tadd (o : OpT)
  | tld (o : OpR)
  | tst (o : OpR)
  | tdrain (o : OpR)
  | tfill (o : OpR)
  | sample (o : OpR)
  | imld (o : OpR)
  | imst (o : OpR)
  | trace (o : OpR)
  | tlist (o : OpR)
  | launch (o : OpR)
  | cancel (o : OpR)
  | cntrRd (o : OpR)
  | cntrAdd (o : OpR)
  | phaseRd (o : OpR)
  | phaseNext (o : OpR)
  | idemOff (o : OpR)
  | idemOn (o : OpR)
  | csrr (o : OpR)
  | csrw (o : OpR)
  | eret (o : OpR)
  | eretExit (o : OpR)
  | halt (o : OpR)
  | haltRel (o : OpR)
  | beat (o : OpR)
  | hinge (o : OpR)
  | captGroup (o : OpR)
  | captCore (o : OpR)
  | captResume (o : OpR)
  | tinvInv (o : OpR)
  | tinvRetry (o : OpR)
  | tinvFail (o : OpR)
  | coldReset
  | fwcmd
  | imageFetched
  | qcmd
  | quoteComplete
  | mbdb
  | doorbell
  | hostWindowRead
  | hostWindowWrite
  | hostAtomic
  | peerRequest
  | heartbeatExpiry
  | thermalClampStep
  | powerClamp
  | sextantException
  | recordDispatch
  | serviceLaneTrap
  | hostQueueEntryTaken
  | phaseStart
  | graphStart
  | nodeLaunchStart
  | levelComplete
  | groupPlacing
  | placementComplete
  | groupRetire
  | activeSetReplace
  | issueCycle
  | dropCommit
  | droppedGroupFree
  | ctxQuiesced
  | ctxCaptureDone
  | scrubComplete
  | engineWaitMet
  | copyRowDone
  | matrixUnitDone
  | engineWorkDone
  | followOnSubmit
  | engineFault
  | stopPointReached
  | enqSpaceRetry
  | matrixIssueRetry
  | traceIssueRetry
  | rayTraversal
  | tilerBegin
  | tilerPrims
  | spillLaunchComplete
  | tilerEnd
  | tilerRelease
  | storeDrain
  | l2Fill
  | blockUpdate
  | replicatedUpdate
  | fpromReceipt
  | daoftRead
  | daoftReadResponse
  | daoftWrite
  | daoftWriteAck
  | daoftAtomic
  | daoftAtomicResponse
  | routeMarker
  | daoftControl
  | flitReceive
  | flitReplay
  | linkTrained
  | linkDownResend
  | handoverDrained
  | handoverSwitched
  | drainTimeout
  | shutterCommit
  | shutterDropCommit
  | yieldWake
  | semwService
  | sleepExpiry
  | ckDone
  | ctxLoad
  | ctxStart
  | ctxQuiesce
  | ctxResume
  | ctxRelease
  | ctxFault
  | apOpen
  | apRelease
  | ctxcntWrite
  | ctxapWrite
  | ctxhqpWrite
  | tvecWrite
  | hwinbWrite
  | queueResume
  | queueSkip
  | queueFlush
  | queueStop
  | groupDrop
  | groupKill
  | semFree
  | faultPop
  | faultClearOvf
  | tileFree
  | stackReopen
  | linkRetrain
  | linkOff
  | linkOn
  | frameFree
  | sbMerge
  | sbDiscard
  | ckSave
  | ckLoad
  | ckAbort
  | eccClear
  | tokenArrival
  | hostCompletion
  | completionTimeout
  | hostLinkLost
  | sramSoftError
  deriving DecidableEq, Repr

end Sys2Proof
end

