-- ==== Sys2Proof/Machine/State.lean ====
section
/-!
DEFINITION. The state of the device, as plain data: everything the spec names (INVENTORY.md lists each piece with its
rule), and beside it the model's own scheduling fields (notes/assumptions 1 and 5). Reset is at the end (R369).
-/

namespace Sys2Proof.Machine

/-- A 128-byte line. -/
abbrev Line := BitVec 1024
/-- One bit per byte of a line. -/
abbrev LineMask := BitVec 128

/-! ## Outcomes -/

/-- Why a step stops. -/
inductive Fault where
  /-- An instruction of the word was given to `exec` while no thread issues (the state's `cur` names none that exists).
  Raised by the shared operation that runs an instruction; no step of the machine reaches it. Safe. -/
  | noIssuer
  deriving DecidableEq, Repr

/-- Why an instruction has no meaning in the model. -/
inductive Refusal where
  /-- Raised by Dispatch for an instruction that is not modelled. Safe. -/
  | notModelled (mnemonic : String)
  deriving DecidableEq, Repr

/-! ## Threads (R157, R160) -/

/-- What a WAITING thread waits for (R160). -/
inductive Wait where
  /-- SLEEP, until the core's cycle counter reaches the value (R168). -/
  | sleep (until_ : Nat)
  /-- SEMW, among the waiters of a semaphore (R210). -/
  | semw (sem count scope : Nat)
  /-- BARW, or BARS after its arrival, on a barrier and a token (R194). -/
  | barw (bar : Nat) (tok : Word) (scope : Nat) (bars : Bool)
  /-- A pending rendezvous of the span (R198). -/
  | tumbler
  /-- QWAIT (R132). -/
  | qwait (q n : Nat)
  /-- ENQ at a full queue, with its destination and patch word (R129). -/
  | enq (q : Nat) (d : RegNo) (pw : Word)
  /-- TMMA, TCVT or TADD at a full q1, with its words as a template (R287). -/
  | matrix (tpl : BitVec 256)
  /-- TRACE at a full q2, with the ray entry it makes and its destination (R342). -/
  | trace (tpl : BitVec 256) (d : Nat)
  /-- A release: entries older than the bound are still in the core's store buffer (R241), or writes are under way. -/
  | drain (bound : Nat)
  /-- A source register that awaits a result (R159). -/
  | regs
  /-- HINGE, its turn or its hand-over, with its target die and its destination (R307). -/
  | hinge (stack target d : Nat)
  /-- SHPUB or SHDROP, its turn or its commit, with its destination (R250, R272); window 1024 stands for a SHARM or a
  TINV that waits for store buffers and write-backs anywhere (R237, R274). -/
  | shutter (win d : Nat)
  /-- A request of die `die` for physical line `line`, held for a stack (R303, R304). -/
  | held (stack die line : Nat)
  /-- A request of context `ctx` for physical line `line` that waits for a QoS token at a die's controllers (R87). -/
  | token (die ctx line : Nat)
  /-- FPROM, until the receipt (R265). -/
  | fprom (victim : Nat)
  /-- A request with no route (R314). -/
  | route
  /-- An atomic of the thread is still under way at a location the thread would read (R263). -/
  | pending
  /-- A request of the thread to host or peer memory, until its completion (R319). -/
  | port (pend : Nat)
  /-- A line at a port that the thread's instruction reads or writes, until its completion (R319): asked for at an address. -/
  | ask (port addr : Nat) (write : Bool)
  /-- A write bound to a later generation of a window's backing than a read under way (R250). -/
  | isolation
  /-- A lower thread of its bundle has not yet done the instruction that both were chosen for (R164). -/
  | turn
  /-- HALT, until the core it halts has stopped, with its destination (R360). -/
  | halt (core d : Nat)
  deriving DecidableEq, Repr

/-- What a PARKED thread waits for (R160): its YIELD (R167) or the resolution of a fault (R234). `due` tells what a TINV has done for a thread
of a HALTED group, which it does when the group resumes (R161): 0 nothing yet, 1 a retry, 2 a failure. -/
inductive Park where
  | sem (sem count scope d : Nat) (cont : DWord)
  | queue (q n d : Nat) (cont : DWord)
  | tick (t : Nat) (d : Nat) (cont : DWord)
  | fault (tag page code due : Nat)
  deriving DecidableEq, Repr

/-- The states of R160. -/
inductive TStat where
  | ready
  | fused
  | waiting (w : Wait)
  | parked (p : Park)
  | trapped
  | exited
  deriving DecidableEq, Repr

/-- An armed window as it stood at a tick (R250): its tag, first byte, pages and generation. -/
structure WinView where
  tag : Nat
  base : Nat
  n : Nat
  g : Word
  deriving DecidableEq, Repr

/-- The attribute bits a line keeps from its leaf (R219, R220, R223): W, X, U, P, SH, PSN, SF and DF, and of a converting
leaf the physical address of its scale slot. -/
structure Attr where
  w : Bool := false
  x : Bool := false
  u : Bool := false
  p : Bool := false
  sh : Bool := false
  psn : Bool := false
  sf : Nat := 0
  df : Nat := 0
  slot : Nat := 0
  deriving DecidableEq, Repr

/-- A store-buffer entry (R239, R362): the bytes of one store to one line, with what the issue check found. `sent` marks
an entry whose write is under way as a message or at a port, `slotTid` is what R355 records of its thread, and `stale` a frozen entry that a TINV or a
scrub has passed, which leaves no line behind (R74, R226). -/
structure SbEntry where
  id : Nat
  who : Agent
  ctx : Nat
  launch : Nat := 0
  slotTid : Nat := 0
  tag : Nat
  line : Nat
  gen : Nat
  home : Nat
  frame : Nat
  attr : Attr
  mask : LineMask
  data : Line
  nt : Bool := false
  bad : Bool := false
  sent : Bool := false
  stale : Bool := false
  deriving DecidableEq, Repr

/-- A thread of a group, a service lane or a sextant core: PC, x1 to xN, p0 to p6, IDEM OFF and state (R157), with the
age stamp of R163, the registers that await a result (R159), the poisoned registers (R364), the trap it stands at (R345)
and the bound of a release it has begun to wait for (R241). `view` holds the windows at the tick the instruction that waits
first issued (R250, R384), `rows` the rows that a TLD that waits has still to read (R294), `tc` the control word that a TLD or TST found
when it issued (R283, R293), `stores` the checked stores that
an instruction of many has still to put into the store buffer (R295, R296, R353), `bids` names the bundles in which the thread was chosen
for the instruction it stands at (R164), `lau` the bundle in which it was chosen for a LAUNCH that it has not yet done (R103), and `capt` the group
that a CAPT has halted, with the length of the image it writes once that is composed (R353). -/
structure Thread where
  pc : DWord := 0
  x : SMap Word := []
  p : BitVec 8 := 0
  idemOff : Bool := false
  st : TStat := .ready
  stamp : Nat := 0
  await : List Nat := []
  bad : List Nat := []
  code : Nat := 0
  arg : Word := 0
  va : Nat := 0
  dispatched : Bool := false
  relBound : Option Nat := none
  view : Option (List WinView) := none
  rows : Option (List Nat) := none
  tc : Option Nat := none
  stores : List SbEntry := []
  bids : List Nat := []
  lau : Option Nat := none
  capt : Option (Nat × Nat) := none
  deriving DecidableEq, Repr

/-! ## Groups -/

/-- The states of R140. -/
inductive GState where
  | placing | running | draining | dropping | halted
  deriving DecidableEq, Repr

/-- Why a group is dropped (R149). -/
inductive DropKind where
  | preempt | cancel
  deriving DecidableEq, Repr

/-- A barrier (R191); `all` is MODE ALL, `arrived` the tids whose flag is set. -/
structure Barrier where
  all : Bool := true
  exp : Nat := 0
  arr : Nat := 0
  phase : Word := 0
  arrived : List Nat := []
  deriving DecidableEq, Repr

/-- One arrival at a tumbler: the lane and the operands it brought (R198). -/
structure Arrival where
  lane : Nat
  tid : Nat
  d : RegNo
  va : Word
  vb : Word
  vp : Bool
  deriving DecidableEq, Repr

/-- A pending rendezvous (R197): its mask, its key (FN and MOD of the opener) and its arrivals. -/
structure Rendezvous where
  mask : Word
  fn : Nat
  mod : BitVec 8
  got : List Arrival
  deriving DecidableEq, Repr

/-- A group (R134 to R141): its launch and place in it, its shape, its slices by rank (core and slot), its threads by tid,
and the objects it holds. -/
structure Group where
  ctx : Nat := 0
  launch : Nat := 0
  lid : Word := 0
  flat : Nat := 0
  gx : Nat := 1
  gy : Nat := 1
  gz : Nat := 1
  lx : Nat := 1
  ly : Nat := 1
  depth : Nat := 0
  depthMax : Nat := 1
  variant : Nat := 0
  entry : DWord := 0
  regs : Nat := 8
  idem : Bool := false
  scratchSize : Nat := 0
  spans : Nat := 1
  slices : List (Nat × Nat) := []
  state : GState := .placing
  before : GState := .running
  cause : Nat := 0
  haltTick : Nat := 0
  drop : Option DropKind := none
  dropping : DropKind := .preempt
  threads : List Thread := []
  k : List (SMap Word) := []
  bars : SMap Barrier := []
  tumblers : SMap (List Rendezvous) := []
  pend : SMap (List Word) := []
  scratch : SMap Byte := []
  badScratch : List Nat := []
  deriving DecidableEq, Repr

/-! ## Translation and lines -/

/-- A translation of one 64 KiB page (R217, R223): the physical address of the page's frame (of the payload, on a converting
page), the attributes, and the level of the leaf. -/
structure Xlat where
  tag : Nat
  page : Nat
  frame : Nat
  attr : Attr
  level : Nat
  deriving DecidableEq, Repr

/-- A cached line (R223, R273): tag, line number (address / 128), generation mod 4, the frame of its page, its attributes,
its bytes, whether it is the next victim of its set (R258); in an L2, its dirty bytes, its way class (R88) and the context that its
transfers are charged to (R87). -/
structure CLine where
  tag : Nat
  line : Nat
  gen : Nat := 0
  frame : Nat
  attr : Attr
  data : Line
  nt : Bool := false
  dirty : LineMask := 0
  cls : Nat := 0
  level : Nat := 0
  ctx : Nat := 0
  deriving DecidableEq, Repr

/-- A write posted to a stack and not yet performed in DRAM (R302, R387), with the die that sent it, the context charged for it (R87),
whether it is admitted and waits for a token only, the tag and line it comes from, and its place in the order received (`seq`). -/
structure Posted where
  die : Nat
  ctx : Nat
  adm : Bool := false
  seq : Nat
  tag : Nat
  line : Nat
  addr : Nat
  mask : LineMask
  data : Line
  deriving DecidableEq, Repr

/-- A fault record of a die (R235). -/
structure FltRec where
  va : Nat
  code : Nat
  tag : Nat
  kind : Nat
  eng : Bool
  cause : Nat
  level : Nat
  deriving DecidableEq, Repr

/-! ## Cores -/

/-- Who waits on a semaphore (R207): a SEMW thread or an engine head of the core. -/
inductive SemWho where
  | thread (who : Agent)
  | engine (q : Nat)
  deriving DecidableEq, Repr

/-- A waiter with its count and the scope its acquire names. -/
structure SemWaiter where
  who : SemWho
  ctx : Nat
  count : Nat
  deriving DecidableEq, Repr

/-- A semaphore (R205). -/
structure Sem where
  value : Nat := 0
  ceil : Nat := 0
  owner : Option Nat := none
  waiters : List SemWaiter := []
  deriving DecidableEq, Repr

/-- A tile register (R278): bytes, control word TC, owner, LMASK with the thread and PC that set it, poisoned words. -/
structure Tile where
  data : BitVec 32768 := 0
  tc : Nat := 0
  owner : Option Nat := none
  lmask : BitVec 64 := 0
  lwho : Agent := .sextant 0
  lpc : DWord := 0
  bad : List Nat := []
  deriving DecidableEq, Repr

/-- The engine queue states of R117. -/
inductive QState where
  | idle | waiting | running | faulted | stopping | stopped
  deriving DecidableEq, Repr

/-- An accepted engine entry (R113, R125, R127): its group and context, its template, the captured tile control words, the
captured follow-on template, whether a soft error hit that template, whether it is cancelled or its group was dropped while it ran (R119), the
spill launch a PRIMS entry waits for (R330) and before it the tile whose notice is written (R332), the frame that both are of (`spillFrame`), and
whether it stands in the middle of a primitive (`inPrim`); an END entry that waits in CLOSING holds 0 as its spill. -/
structure Entry where
  gid : Nat
  ctx : Nat
  launch : Nat
  slot : Nat
  tpl : BitVec 256
  tcs : SMap Nat := []
  follow : Option (BitVec 256) := none
  followBad : Bool := false
  cancelled : Bool := false
  dropped : Bool := false
  bad : Bool := false
  spill : Option Nat := none
  spillTile : Option Nat := none
  spillFrame : Nat := 0
  inPrim : Bool := false
  deriving DecidableEq, Repr

/-- An engine queue (R113, R117, R122): counts, state, the head's status and progress, the fault, whether a capture stopped it
(R357), the entries held, the windows at the tick its row under way first issued (R384), and the stores of that row not yet in the store
buffer. -/
structure EngQ where
  acc : Word := 0
  ret : Word := 0
  st : QState := .idle
  hst : Nat := 0
  prog : Nat := 0
  code : Nat := 0
  va : Nat := 0
  capt : Bool := false
  entries : List Entry := []
  view : Option (List WinView) := none
  stores : List SbEntry := []
  deriving DecidableEq, Repr

/-- A template slot (R123). -/
structure Template where
  words : BitVec 256 := 0
  owner : Option Nat := none
  bad : Bool := false
  deriving DecidableEq, Repr

/-- A record waiting for dispatch, or the record of a dispatched lane (R347). -/
structure TrapRec where
  kind : Nat
  code : Nat
  epc : DWord
  arg : Word
  slot : Nat
  tid : Nat
  q : Nat
  va : Nat
  gid : Nat
  deriving DecidableEq, Repr

/-- A service lane (R346): lane 0 is the steward; a lane that is not `busy` is IDLE. -/
structure Lane where
  busy : Bool := false
  th : Thread := {}
  trec : Option TrapRec := none
  deriving DecidableEq, Repr

/-- A group slot of a core (R138, R155); `active` holds the cycle at which the slice entered the active set (R142). -/
structure Slot where
  gid : Nat
  rank : Nat
  active : Option Nat := none
  deriving DecidableEq, Repr

/-- A compute core (R13). A halted one is `freezing` until what had issued there is over and its store buffer freezes (R360). `base` is the die's cycle
count at which its own counter was zero (R15); `dbg` holds TID and STEP of DBGST by slot (R365), `issued` the cycle of its die at which it last formed bundles (R163). -/
structure Core where
  base : Nat := 0
  running : Bool := false
  halted : Bool := false
  freezing : Bool := false
  cause : Nat := 0
  hb : Bool := false
  lastBeat : Nat := 0
  haltTick : Nat := 0
  sb : List SbEntry := []
  frozen : List SbEntry := []
  l1 : List CLine := []
  ilines : List CLine := []
  slots : SMap Slot := []
  sems : SMap Sem := []
  tiles : SMap Tile := []
  queues : SMap EngQ := []
  templates : SMap Template := []
  lanes : SMap Lane := []
  tvec : DWord := 0
  tvecSet : Bool := false
  recs : List TrapRec := []
  issued : Option Nat := none
  dbg : SMap (Nat × Bool) := []
  deriving DecidableEq, Repr

/-! ## Dies -/

/-- An event for a sextant core (R380). -/
structure SxEvent where
  kind : Nat
  code : Nat
  core : Nat
  deriving DecidableEq, Repr

/-- A sextant core (R31, R380). In `rom` it runs the boot ROM (R369, R370), and `first` tells that its first fetch of an image is still to come
(R373). -/
structure Sextant where
  th : Thread := {}
  base : Nat := 0
  running : Bool := false
  rom : Bool := false
  first : Bool := false
  vec : DWord := 0
  epc : DWord := 0
  causeCode : Nat := 0
  causeCore : Nat := 0
  causeKind : Nat := 0
  inExc : Bool := false
  events : List SxEvent := []
  deriving DecidableEq, Repr

/-- A frame slot of a die's tiler (R326): 0 FREE, 1 BINNING, 2 CLOSING, 3 CLOSED. `id` names the frame on every die it claims. -/
structure Frame where
  id : Nat := 0
  st : Nat := 0
  owner : Nat := 0
  descVa : Nat := 0
  desc : List Byte := []
  spillRec : List Byte := []
  passes : SMap Nat := []
  spills : Nat := 0
  dropped : Nat := 0
  outst : List Nat := []
  claimed : List Nat := []
  deriving DecidableEq, Repr

/-- A request that the memory controllers hold or keep waiting (R87, R303): a thread's or an engine head's, a message's, a store-buffer
entry's (core and identity), one of the host or a peer, or one of the device's own for a context (R388). -/
inductive Req where
  | agent (a : Agent)
  | msg (id : Nat)
  | entry (core id : Nat)
  | host (id : Nat)
  | device (ctx : Nat)
  deriving DecidableEq, Repr

/-- A request that waits for a token at a die (R87): its context, its physical line, and its place in the order received (`seq`). -/
structure TokReq where
  req : Req
  ctx : Nat
  line : Nat
  seq : Nat := 0
  deriving DecidableEq, Repr

/-- A die (R11). `cycles` counts its core clock, `frac` the thousandths of a cycle not yet counted; `clock` is in MHz, `hotDown` is by how much the
thermal clamp has lowered it (R379). `tokq` holds the requests that wait for tokens in the order received, `dlRun` for each stack the
deadline-class ones that its controllers have served in a row while a bulk one waited (R87). -/
structure Die where
  l2 : List CLine := []
  tlb : List Xlat := []
  faults : List FltRec := []
  ovf : Bool := false
  quota : List Nat := [16, 16, 16, 16]
  buckets : SMap Nat := []
  lastToken : SMap Nat := []
  tokq : List TokReq := []
  dlRun : SMap Nat := []
  routes : SMap Nat := []
  frames : SMap Frame := []
  sx : Sextant := {}
  period : Nat := 10
  ecCorr : Nat := 0
  ecUncorr : Nat := 0
  ckAddr : Nat := 0
  ckPort : Nat := 0
  clock : Nat := 2000
  hot : Bool := false
  hotDown : Nat := 0
  lastClamp : Nat := 0
  cycles : Nat := 0
  frac : Nat := 0
  deriving DecidableEq, Repr

/-! ## Contexts and work -/

/-- A launch record (R97). -/
structure LaunchRec where
  kdesc : Nat
  param : Nat
  lx : Nat
  ly : Nat
  lz : Nat
  cnt : Option Nat
  deriving DecidableEq, Repr

/-- A kernel descriptor (R91) with its address. -/
structure KDesc where
  va : Nat
  entry : Nat
  regs : Nat
  idem : Bool
  depth : Nat
  nvar : Nat
  gx : Nat
  gy : Nat
  gz : Nat
  scratch : Nat
  offs : List Nat
  buds : List Nat
  deriving DecidableEq, Repr

/-- A launch that has been created (R93, R103): the groups not yet resident from `next` on, those to run again, those
ended, and the children not yet complete. -/
structure Launch where
  ctx : Nat
  lid : Word
  depth : Nat
  kd : KDesc
  variant : Nat
  param : Nat
  lx : Nat
  ly : Nat
  lz : Nat
  cnt : Option Nat
  parent : Level
  graph : Option Nat
  phase : Nat
  next : Nat := 0
  requeue : List Nat := []
  ended : Nat := 0
  kids : Nat := 0
  started : Bool := false
  cancelled : Bool := false
  complete : Bool := false
  deriving DecidableEq, Repr

/-- A node of a graph run (R99): its launch record, its predecessors, whether it was malformed, the launch it became, and
whether it has ended. -/
structure GNode where
  lrec : LaunchRec
  preds : List Nat
  launch : Option Nat := none
  ended : Bool := false
  deriving DecidableEq, Repr

/-- A graph run (R99, R100). -/
structure GraphRun where
  ctx : Nat
  index : Nat
  cnt : Nat
  pdir : Nat
  nodes : List GNode
  cancelled : Bool := false
  complete : Bool := false
  deriving DecidableEq, Repr

/-- The phase a job runs (R98, R101): its counter, its graphs, those started and ended, CTXBUD as it stood at the phase's
start, the kernels its graphs named then, and the variant chosen for each kernel. -/
structure PhaseRun where
  cnt : Nat
  ng : Nat
  gtab : Nat
  started : List Nat := []
  ended : Nat := 0
  cancelled : Bool := false
  budget : Nat := 0
  kernels : List Nat := []
  variants : SMap Nat := []
  deriving DecidableEq, Repr

/-- The job a context runs (R98, R112). -/
structure Job where
  entryVa : Nat
  nph : Nat
  jcnt : Nat
  phtab : Nat
  index : Nat := 0
  next : Option Nat := none
  phase : Option PhaseRun := none
  mrec : Nat := 0
  faulted : Bool := false
  cancelled : Bool := false
  ending : Bool := false
  deriving DecidableEq, Repr

/-- The context states of R75. -/
inductive CtxState where
  | free | loaded | ready | active | quiescing | suspended | faulted | scrubbing
  deriving DecidableEq, Repr

/-- A context (R75 to R89, R110, R319). `rel` stands while a RELEASE has statuses of host queue entries still to write (R76): it names the entry whose
job had started, with its MREC, until its ST = 5 is written (R112). -/
structure Ctx where
  state : CtxState := .free
  halted : Bool := false
  fcode : Nat := 0
  root : Nat := 0
  splBase : Nat := 0
  splSize : Nat := 0
  key : Word := 0
  wclass : Nat := 0
  lat : Bool := false
  rate : Nat := 0
  depth : Nat := 0xFFFF
  budget : Nat := 0
  cnt : Nat := 0
  slots : SMap (BitVec 15) := []
  hqBase : Nat := 0
  hqSize : Nat := 0
  tail : Word := 0
  head : Word := 0
  hport : Nat := 0
  nextLid : Word := 1
  held : List Nat := []
  job : Option Job := none
  rel : Option (Option (Nat × Nat)) := none
  deriving DecidableEq, Repr

/-- The aperture states of R84. -/
inductive ApState where
  | free | live | scrubbing
  deriving DecidableEq, Repr

/-- An aperture (R81, R84). -/
structure Ap where
  state : ApState := .free
  base : Nat := 0
  len : Nat := 0
  root : Nat := 0
  splBase : Nat := 0
  splSize : Nat := 0
  maps : Nat := 0
  deriving DecidableEq, Repr

/-- The window states of R272. -/
inductive WinState where
  | free | armed | publishing | dropping
  deriving DecidableEq, Repr

/-- A shutter window (R271): the commit tick of the publish or drop under way, its thread, and those queued behind. -/
structure Win where
  state : WinState := .free
  tag : Nat := 0
  base : Nat := 0
  n : Nat := 0
  g : Word := 0
  tick : Nat := 0
  issuer : Option Agent := none
  queue : List Agent := []
  deriving DecidableEq, Repr

/-- A host window (R322). -/
structure HWin where
  base : Nat := 0
  len : Nat := 0
  apn : Nat := 0
  v : Bool := false
  w : Bool := false
  hmask : BitVec 4 := 0
  pmask : BitVec 6 := 0
  deriving DecidableEq, Repr

/-! ## Stacks, links and messages -/

/-- The stack states of R300. -/
inductive StackState where
  | owned | closing | drained | switching | opening | frozen
  deriving DecidableEq, Repr

/-- A request held for a stack (R303), with the die it comes from, its physical line, and its place in the order received (`seq`). -/
structure HeldReq where
  req : Req
  seq : Nat
  die : Nat
  line : Nat
  deriving DecidableEq, Repr

/-- A stack (R300, R302, R305): `began` is the tick of step 1, `err` a standing controller error (R304), `markers` the dies
whose route marker has reached the new owner, `issuer` the HINGE under way and `queue` those waiting their turn. -/
structure Stack where
  state : StackState := .owned
  owner : Nat
  target : Nat
  degl : Bool := false
  degh : Bool := false
  fcause : Nat := 0
  hcnt : Nat := 0
  began : Nat := 0
  err : Bool := false
  held : List HeldReq := []
  posted : List Posted := []
  markers : List Nat := []
  issuer : Option Agent := none
  queue : List Agent := []
  deriving DecidableEq, Repr

/-- A bank operation under way (R269, R270): 0 to 4 for the vector forms in the table's order, with MOD and the source line, or 5 for BKRED with its
fold. -/
structure BankReq where
  fn : Nat
  mod : Nat := 0
  src : Line := 0
  deriving DecidableEq, Repr

/-- What a pending load, atomic or bank operation of a thread will do with its value (R159, R312). `save` is the thread as it stood at the instruction, to
which it goes back where the request is held at a halt (R352) or meets a stranded or poisoned line (R362, R364); results of older requests that
return meanwhile are put there too. `fail` is the trap that the answer brought. A request that a TINV or a
scrub passes installs no line at its home (R74, R226): `stale`. `l1` tells an L1-served load (R242), `acq` the scope of the acquire of an atomic at
a port, 0 for none, and `launch` the launch of the thread (R247). -/
structure Pend where
  id : Nat
  who : Agent
  pc : DWord := 0
  core : Nat
  ctx : Nat
  atomic : Bool
  op : AtomOp := .add
  wide : Bool := false
  b : DWord := 0
  c : DWord := 0
  d : RegNo := 0
  width : Nat := 2
  drop : Bool := false
  va : Nat
  tag : Nat
  gen : Nat
  home : Nat
  frame : Nat
  attr : Attr
  level : Nat
  install : Bool := false
  nt : Bool := false
  host : Bool := false
  save : Thread := {}
  stale : Bool := false
  red : Bool := false
  bank : Option BankReq := none
  l1 : Bool := false
  acq : Nat := 0
  launch : Nat := 0
  fail : Option Nat := none
  deriving DecidableEq, Repr

/-- A line at a host or peer port that a request reads or writes, asked for and perhaps answered (R318, R319). One asked for before an invalidation of
its core's L1 lines enters no L1 (R383): `install`. -/
structure PortAsk where
  id : Nat
  req : Req
  port : Nat
  addr : Nat
  write : Bool := false
  done : Bool := false
  ok : Bool := true
  install : Bool := true
  deriving DecidableEq, Repr

/-- What a host or a peer asks at a port: an access to a window (R320, R322, R324), a doorbell write (R376), a write or a read of BAR0 (R375), or a
write of FWCMD, MBDB or QCMD there (R370, R377, R378). -/
inductive PortReq where
  | window (r : PeerReq)
  | doorbell (ctx : Nat) (v : Word)
  | bar0 (off : Nat) (data : List Byte)
  | bar0Read (off n id : Nat)
  | fwcmd (v : Nat)
  | mbdb
  | qcmd (v : Nat)
  deriving DecidableEq, Repr

/-- A request that a host or peer made at a port and that is not yet served (R323, R387), with the windows at its arrival (R250). -/
structure HostReq where
  id : Nat
  port : Nat
  req : PortReq
  view : List WinView := []
  deriving DecidableEq, Repr

/-- The messages of R312 that the model sends, with the request each serves. -/
inductive MsgBody where
  | read (pend : Nat)
  | readResp (pend value : Nat) (line : Option CLine)
  | write (core : Nat) (e : SbEntry)
  | writeAck (core entry : Nat)
  | atomic (pend : Nat)
  | atomicResp (pend value : Nat)
  /-- A response that brings a trap: the request met a stranded or poisoned line (R362, R364). -/
  | failResp (pend code : Nat)
  | marker (stack die : Nat)
  | control (link : Nat) (up : Bool) (seq : Nat)
  /-- A message of a reserved OP, which its receiver drops (R312). -/
  | reserved (op : Nat)
  deriving DecidableEq, Repr

/-- A message (R312): the die it came from, where it goes, the die it stands at, and the links still ahead of it (link
and whether it goes up, from the lower end to the upper), of the route it was given (R313). `detour` tells the virtual channel pair (R313, R314). -/
structure Msg where
  id : Nat
  src : Nat
  dst : Nat
  at_ : Nat
  path : List (Nat × Bool)
  route : List (Nat × Bool) := []
  wire : Bool := false
  detour : Bool := false
  response : Bool := false
  body : MsgBody
  deriving DecidableEq, Repr

/-- A flit on a link, carrying one message (R312). -/
structure Flit where
  seq : Nat
  msg : Nat
  deriving DecidableEq, Repr

/-- One direction of a link (R315): the next SEQ, the flits kept for replay, those on the wire, the SEQ expected, a NAK not
yet served, and the replays since the last good flit. `queue` holds what has still to go out at a peer port whose 512 flits are not acknowledged. -/
structure LinkDir where
  next : Nat := 0
  queue : List Nat := []
  replay : List Flit := []
  wire : List Flit := []
  expect : Nat := 0
  nak : Bool := false
  replays : Nat := 0
  deriving DecidableEq, Repr

/-- The link and port states of R316. -/
inductive LinkState where
  | reset | training | up | degraded | retrain | down | off
  deriving DecidableEq, Repr

/-- A link or port (R316, R317); `rx` counts the flits that a peer port has taken good from its peer and whose message is still to be acted on
(R324). -/
structure Link where
  state : LinkState := .training
  width : Nat := 0
  lrep : Nat := 0
  errs : Nat := 0
  crce : Nat := 0
  offPend : Bool := false
  fails : Nat := 0
  rx : Nat := 0
  fwd : LinkDir := {}
  bwd : LinkDir := {}
  deriving DecidableEq, Repr

/-- A P = 1 replicated write not yet at every copy (R228, R251): the bytes, the writer, and the dies still to update. -/
structure Repl where
  id : Nat
  who : Agent
  launch : Nat := 0
  frame : Nat
  tag : Nat
  line : Nat
  mask : LineMask
  data : Line
  dies : List Nat
  deriving DecidableEq, Repr

/-- A completion sent to a host or peer (R322, R324): 0 successful, 1 unsupported request, 2 completer abort. -/
structure HostOut where
  port : Nat
  id : Nat
  status : Nat
  data : List Byte
  deriving DecidableEq, Repr

/-! ## The device -/

/-- DEVST.STATE (R368). -/
inductive DevState where
  | reset | rom | loading | verify | running | failed
  deriving DecidableEq, Repr

/-- CKCTL.STATE (R367). -/
inductive CkState where
  | idle | running | done | failed
  deriving DecidableEq, Repr

/-- The device registers of R367 to R378 and the meridian tick (R16). The load under way keeps its port, address and length; `resetDue`
says that step 4 of a reload still waits for a hand-over (R374); `msix` counts the times vector 0 was raised (R377). -/
structure Dev where
  tick : Nat := 0
  state : DevState := .rom
  fcode : Nat := 0
  fwver : Nat := 0
  loads : Nat := 0
  fwadr : DWord := 0
  fwlen : Nat := 0
  fwport : Nat := 0
  ldAdr : Nat := 0
  ldLen : Nat := 0
  resetDue : Bool := false
  steward : Nat := 0
  meas : List Byte := []
  nonce : List Byte := []
  qbusy : Bool := false
  qbuf : List Byte := []
  mbreq : List Byte := []
  mbrsp : List Byte := []
  mbbusy : Bool := false
  msix : Nat := 0
  ck : CkState := .idle
  ckLoad : Bool := false
  ckUnits : Nat := 0
  deriving DecidableEq, Repr

/-- What may happen next, chosen from outside the rules: a step of the device on its operands, an agent issuing alone, time
passing, the next access going out as messages, an eviction, an uncorrectable DRAM error, an access of the host to BAR0, a
waiting request of the host or a peer, or the firmware's own access to the mailbox (notes/assumptions 1 and 15). -/
inductive Choice where
  | ev (i : Instr) (arg : EvArg)
  | issue (who : Agent)
  | tick (n : Nat)
  | defer
  | evictL1 (core index : Nat)
  | evictIline (core index : Nat)
  | evictL2 (die index : Nat)
  | dramError (addr : Nat)
  | bar0 (port off : Nat) (data : List Byte)
  | bar0Read (port off n id : Nat)
  | mailboxReply (data : List Byte)
  | hostMemory (port addr : Nat) (data : List Byte)
  | controllerRepair (stack : Nat)
  | hostServe (id : Nat)
  deriving DecidableEq, Repr

/-- The state of the device. `asks` and `hostq` hold the lines asked for at ports and the requests of hosts and peers not yet served. `host` is
what host and peer memory hold, by port and address, as the outside world's side of R318 (notes/assumptions 16). The last nine fields are the model's own: the agenda of what happens next, the steps that follow at
once from what has just happened, the threads of the bundle being issued, the agent whose instruction executes, the operands of the step of the device that executes, whether the
next access goes out as messages, the turn of the idle schedule, and the counters behind free values and identities. -/
structure State where
  dev : Dev := {}
  ctxs : SMap Ctx := []
  aps : SMap Ap := []
  wins : SMap Win := []
  hwins : SMap HWin := []
  stk : SMap Stack := []
  links : SMap Link := []
  dies : SMap Die := []
  cores : SMap Core := []
  groups : SMap Group := []
  launches : SMap Launch := []
  graphs : SMap GraphRun := []
  mem : List Host.Cell := []
  poison : SMap LineMask := []
  host : SMap Byte := []
  msgs : List Msg := []
  pends : List Pend := []
  repls : List Repl := []
  asks : List PortAsk := []
  hostq : List HostReq := []
  outs : List HostOut := []
  agenda : List Choice := []
  todo : List (Instr × EvArg) := []
  bundle : List Agent := []
  cur : Option Agent := none
  arg : EvArg := {}
  defer : Bool := false
  turn : Nat := 0
  free : Nat := 0
  uid : Nat := 1
  deriving DecidableEq, Repr

/-- The state right after a cold reset (R369): the tick is zero, the boot ROM awaits an image on die 0's sextant core, every other core is
stopped, every stack is owned by floor(s / 2), the links and ports have left RESET and train (R316), memory lists nothing,
and every register and CSR holds its reset value. A number that a map does not list stands at its reset value. -/
def State.reset : State := { dies := [(0, { sx := { running := true, rom := true } })] }

end Sys2Proof.Machine
end

