-- ==== Sys2Proof/Machine/Ops.lean ====
section
/-!
DEFINITION. The named operations over the state: reaching an object, the thread that issues and its surroundings, registers
(R28 to R31), retiring, waiting, trapping (R345, R349, R380) and returning from a trap (R350), and the order of checks of
R22 that every instruction of the word shares.
-/

namespace Sys2Proof.Machine

/-! ## Objects by number -/

def getCore (s : State) (c : Nat) : Core := SMap.get s.cores c {}
def setCore (s : State) (c : Nat) (v : Core) : State := { s with cores := SMap.set s.cores c v }
def modCore (s : State) (c : Nat) (f : Core → Core) : State := setCore s c (f (getCore s c))

def getDie (s : State) (d : Nat) : Die := SMap.get s.dies d {}
def setDie (s : State) (d : Nat) (v : Die) : State := { s with dies := SMap.set s.dies d v }
def modDie (s : State) (d : Nat) (f : Die → Die) : State := setDie s d (f (getDie s d))

def getCtx (s : State) (c : Nat) : Ctx := SMap.get s.ctxs c {}
def setCtx (s : State) (c : Nat) (v : Ctx) : State := { s with ctxs := SMap.set s.ctxs c v }
def modCtx (s : State) (c : Nat) (f : Ctx → Ctx) : State := setCtx s c (f (getCtx s c))

def getAp (s : State) (n : Nat) : Ap := SMap.get s.aps n {}
def setAp (s : State) (n : Nat) (v : Ap) : State := { s with aps := SMap.set s.aps n v }

def getWin (s : State) (n : Nat) : Win := SMap.get s.wins n {}
def setWin (s : State) (n : Nat) (v : Win) : State := { s with wins := SMap.set s.wins n v }

def getHWin (s : State) (n : Nat) : HWin := SMap.get s.hwins n {}
def setHWin (s : State) (n : Nat) (v : HWin) : State := { s with hwins := SMap.set s.hwins n v }

/-- A stack after a cold reset: owned by the lower of its two dies (R10, R305). -/
def stackReset (n : Nat) : Stack := { owner := n / 2, target := n / 2 }
def getStack (s : State) (n : Nat) : Stack := SMap.get s.stk n (stackReset n)
def setStack (s : State) (n : Nat) (v : Stack) : State := { s with stk := SMap.set s.stk n v }
def modStack (s : State) (n : Nat) (f : Stack → Stack) : State := setStack s n (f (getStack s n))

def getLink (s : State) (n : Nat) : Link := SMap.get s.links n {}
def setLink (s : State) (n : Nat) (v : Link) : State := { s with links := SMap.set s.links n v }
def modLink (s : State) (n : Nat) (f : Link → Link) : State := setLink s n (f (getLink s n))

def getGroup (s : State) (g : Nat) : Option Group := SMap.find s.groups g
def setGroup (s : State) (g : Nat) (v : Group) : State := { s with groups := SMap.set s.groups g v }
def modGroup (s : State) (g : Nat) (f : Group → Group) : State :=
  match getGroup s g with
  | some v => setGroup s g (f v)
  | none => s

def getLaunch (s : State) (n : Nat) : Option Launch := SMap.find s.launches n
def setLaunch (s : State) (n : Nat) (v : Launch) : State := { s with launches := SMap.set s.launches n v }
def modLaunch (s : State) (n : Nat) (f : Launch → Launch) : State :=
  match getLaunch s n with
  | some v => setLaunch s n (f v)
  | none => s

def getSem (c : Core) (n : Nat) : Sem := SMap.get c.sems n {}
def getTile (c : Core) (n : Nat) : Tile := SMap.get c.tiles n {}
def getQueue (c : Core) (n : Nat) : EngQ := SMap.get c.queues n {}
def getTemplate (c : Core) (q n : Nat) : Template := SMap.get c.templates (64 * q + n) {}
def getLane (c : Core) (n : Nat) : Lane := SMap.get c.lanes n {}

def modSem (s : State) (c n : Nat) (f : Sem → Sem) : State :=
  modCore s c fun k => { k with sems := SMap.set k.sems n (f (getSem k n)) }
def modTile (s : State) (c n : Nat) (f : Tile → Tile) : State :=
  modCore s c fun k => { k with tiles := SMap.set k.tiles n (f (getTile k n)) }
def modQueue (s : State) (c n : Nat) (f : EngQ → EngQ) : State :=
  modCore s c fun k => { k with queues := SMap.set k.queues n (f (getQueue k n)) }
def modLane (s : State) (c n : Nat) (f : Lane → Lane) : State :=
  modCore s c fun k => { k with lanes := SMap.set k.lanes n (f (getLane k n)) }

/-- The die of a core (R12). -/
def dieOf (core : Nat) : Nat := core / 40

/-- The cycle count of a die's clock, and of a core's own counter (R15). -/
def dieCycle (s : State) (d : Nat) : Nat := (getDie s d).cycles
def coreCycle (s : State) (c : Nat) : Nat := dieCycle s (dieOf c) - (getCore s c).base

/-- Does a core run: its engines and its groups' threads go on? -/
def coreOn (s : State) (c : Nat) : Bool := (getCore s c).running && !(getCore s c).halted

/-- A fresh identity, and the state that has used it. -/
def fresh (s : State) : Nat × State := (s.uid, { s with uid := s.uid + 1 })

/-- A free value of 64 bits, and the state whose counter has passed it (notes/assumptions 5). -/
def freeVal (s : State) : DWord × State := (Config.freeValue s.free, { s with free := s.free + 1 })

/-! ## Threads -/

/-- The span rank of a thread of a group (R137). -/
def rankOf (g : Group) (tid : Nat) : Nat := tid / 32 / g.spans

/-- The core and slot of a rank. -/
def sliceOf (g : Group) (rank : Nat) : Nat × Nat := nthD g.slices rank (0, 0)

/-- The thread of an agent. -/
def getThread (s : State) (a : Agent) : Option Thread :=
  match a with
  | .thread gid tid => match getGroup s gid with
    | some g => g.threads[tid]?
    | none => none
  | .lane c l => if l < 32 then some (getLane (getCore s c) l).th else none
  | .sextant d => if d < 16 then some (getDie s d).sx.th else none
  | .engine _ _ => none

/-- The state with an agent's thread changed. -/
def setThread (s : State) (a : Agent) (t : Thread) : State :=
  match a with
  | .thread gid tid => modGroup s gid fun g => { g with threads := modNth g.threads tid fun _ => t }
  | .lane c l => modLane s c l fun v => { v with th := t }
  | .sextant d => modDie s d fun v => { v with sx := { v.sx with th := t } }
  | .engine _ _ => s

/-- The state with an agent's thread changed by a function. -/
def modThread (s : State) (a : Agent) (f : Thread → Thread) : State :=
  match getThread s a with
  | some t => setThread s a (f t)
  | none => s

/-- The surroundings of a thread that issues: its core (none on a sextant core), die, context, privilege, declared register
count, whether it is a steward, and its group, rank and tid where it has one. -/
structure Env where
  who : Agent
  core : Option Nat
  die : Nat
  ctx : Nat
  sup : Bool
  steward : Bool
  nregs : Nat
  gid : Nat
  rank : Nat
  tid : Nat
  /-- The windows its accesses bind to, where its instruction, or its row, issued first at an earlier tick (R250, R384). -/
  view : Option (List WinView) := none
  deriving DecidableEq, Repr

/-- The surroundings of an agent. Service lanes and sextant cores run under context 0 in supervisor mode (R346, R373). -/
def envOf (s : State) (a : Agent) : Env :=
  match a with
  | .thread gid tid =>
    let g := (getGroup s gid).getD {}
    let r := rankOf g tid
    let c := (sliceOf g r).1
    { who := a, core := some c, die := dieOf c, ctx := g.ctx, sup := false, steward := false, nregs := g.regs,
      gid := gid, rank := r, tid := tid, view := (getThread s a).bind (·.view) }
  | .lane c l =>
    { who := a, core := some c, die := dieOf c, ctx := 0, sup := true, steward := l == 0, nregs := 255,
      gid := 0, rank := 0, tid := l, view := (getThread s a).bind (·.view) }
  | .sextant d =>
    { who := a, core := none, die := d, ctx := 0, sup := true, steward := false, nregs := 255, gid := 0, rank := 0,
      tid := 0, view := (getThread s a).bind (·.view) }
  | .engine c q =>
    let h := (getQueue (getCore s c) q).entries.head?
    let gid := (h.map (·.gid)).getD 0
    let r := ((getGroup s gid).bind fun g => indexOf g.slices fun p => p.1 == c).getD 0
    { who := a, core := some c, die := dieOf c, ctx := (h.map (·.ctx)).getD 0, sup := false, steward := false, nregs := 0,
      gid := gid, rank := r, tid := 0, view := (getQueue (getCore s c) q).view }

/-- The core number of an agent that has one; 640, no core, on a sextant core. -/
def Env.coreNo (e : Env) : Nat := e.core.getD 640

/-- A group thread, and a sextant core. -/
def Env.inGroup (e : Env) : Bool := match e.who with | .thread _ _ => true | .engine _ _ => true | _ => false
def Env.onSextant (e : Env) : Bool := match e.who with | .sextant _ => true | _ => false

/-- The group of the thread, an empty one where it has none. -/
def Env.group (e : Env) (s : State) : Group := if e.inGroup then (getGroup s e.gid).getD {} else {}

/-- The lane of a thread (R135, R176). -/
def Env.lane (e : Env) : Nat := e.tid % 32

/-! ## Registers (R28 to R31) -/

/-- x[r]: x0 reads zero. -/
def readX (t : Thread) (r : Nat) : Word := if r = 0 then 0 else SMap.get t.x r 0

/-- A pair: x0 names 64-bit zero (R28). -/
def readPair (t : Thread) (r : Nat) : DWord := if r = 0 then 0 else readX t (r + 1) ++ readX t r

/-- A quad: x0 names 128-bit zero (R257). -/
def readQuad (t : Thread) (r : Nat) : QWord :=
  if r = 0 then 0 else readX t (r + 3) ++ readX t (r + 2) ++ readX t (r + 1) ++ readX t r

/-- x[r] := v: a write to x0 is dropped (R28); a written register is no longer poisoned (R364). -/
def writeX (t : Thread) (r : Nat) (v : Word) : Thread :=
  if r = 0 then t else { t with x := SMap.set t.x r v, bad := t.bad.filter (· != r) }

/-- A pair write; to x0 both halves are dropped. -/
def writePair (t : Thread) (r : Nat) (v : DWord) : Thread :=
  if r = 0 then t else writeX (writeX t r (v.extractLsb' 0 32)) (r + 1) (v.extractLsb' 32 32)

/-- A quad write; to x0 all four words are dropped (R257). -/
def writeQuad (t : Thread) (r : Nat) (v : QWord) : Thread :=
  if r = 0 then t
  else writePair (writePair t r (v.extractLsb' 0 64)) (r + 2) (v.extractLsb' 64 64)

/-- p[i]: p7 reads true (R28). -/
def readP (t : Thread) (i : Nat) : Bool := if i = 7 then true else t.p.getLsbD i

/-- p[i] := v: a write to p7 is dropped. -/
def writeP (t : Thread) (i : Nat) (v : Bool) : Thread :=
  if i ≥ 7 then t
  else { t with p := if v then t.p ||| ((1 : BitVec 8) <<< i) else t.p &&& ~~~((1 : BitVec 8) <<< i) }

/-- k[r] of the issuing core's copy (R147). A service lane has no uniform registers and the spec states no value for a k
operand there: it reads a free value (notes/assumptions 17). -/
def readK (s : State) (e : Env) (r : Nat) : Word :=
  if e.inGroup then SMap.get (nthD (e.group s).k e.rank []) r 0
  else (Config.freeValue (s.free + r)).extractLsb' 0 32

/-- A k pair (R174). -/
def readKPair (s : State) (e : Env) (r : Nat) : DWord := readK s e (r + 1) ++ readK s e r

/-! ## Operand limits (R22 step 4, R27 to R31) -/

/-- An operand a word names: a source or a destination x register, pair or quad, a uniform register or pair, or a number of
class p, t, b or s. -/
inductive Need where
  | sx (r : RegNo) | dx (r : RegNo) | sp (r : RegNo) | dp (r : RegNo) | sq (r : RegNo) | dq (r : RegNo)
  /-- A pair that is named, and read only where the instruction's other operands ask for it. -/
  | np (r : RegNo)
  | kx (r : RegNo) | kp (r : RegNo)
  | pr (r : RegNo) | tile (r : RegNo) | bar (r : RegNo) | sem (r : RegNo)
  deriving DecidableEq, Repr

/-- The x registers a need reaches, and whether as sources. -/
def Need.regs (n : Need) : List Nat × Bool :=
  match n with
  | .sx r => if r = 0 then ([], true) else ([r.toNat], true)
  | .dx r => if r = 0 then ([], false) else ([r.toNat], false)
  | .sp r => if r = 0 then ([], true) else ([r.toNat, r.toNat + 1], true)
  | .dp r => if r = 0 then ([], false) else ([r.toNat, r.toNat + 1], false)
  | .sq r => if r = 0 then ([], true) else (rangeFrom r.toNat 4, true)
  | .dq r => if r = 0 then ([], false) else (rangeFrom r.toNat 4, false)
  | _ => ([], false)

/-- Is the operand within the limits of R27 to R31? x0 is valid in every form; a k operand is not, on a sextant core. -/
def Need.ok (n : Need) (e : Env) : Bool :=
  let within := n.regs.1.all (fun r => r ≤ e.nregs)
  match n with
  | .sx _ | .dx _ => within
  | .sp r | .dp r => r.toNat % 2 == 0 && within
  | .np r => r.toNat % 2 == 0 && (r == 0 || r.toNat + 1 ≤ e.nregs)
  | .sq r | .dq r => r.toNat % 4 == 0 && within
  | .kx r => !e.onSextant && r.toNat ≤ 159
  | .kp r => !e.onSextant && r.toNat % 2 == 0 && r.toNat ≤ 158
  | .pr r => r.toNat ≤ 7
  | .tile r => r.toNat ≤ 15
  | .bar r => r.toNat ≤ 15
  | .sem r => r.toNat ≤ 31

/-- Is the operand a uniform register? -/
def Need.uniform (n : Need) : Bool := match n with | .kx _ => true | .kp _ => true | _ => false

/-- The free values that a lane's k operands took are passed (notes/assumptions 17). -/
def passFree (s : State) (e : Env) (l : List Need) : State :=
  if !e.inGroup && l.any (·.uniform) then { s with free := s.free + 160 } else s

/-- Does an operand await a result (R159)? -/
def needsAwait (l : List Need) (t : Thread) : Bool := l.any fun n => n.regs.1.any fun r => t.await.contains r

/-- Does a source register hold a poisoned value (R364)? -/
def needsBad (l : List Need) (t : Thread) : Bool := l.any fun n => n.regs.2 && n.regs.1.any fun r => t.bad.contains r

/-! ## Leaving an instruction -/

/-- The thread made READY, with its age stamp (R163). -/
def readyThread (s : State) (e : Env) (t : Thread) : Thread := { t with st := .ready, stamp := dieCycle s e.die }

/-- An instruction is over: what its waiting attempts kept is dropped. -/
def Thread.settled (t : Thread) : Thread :=
  { t with relBound := none, view := none, rows := none, tc := none, stores := [], bids := [], lau := none, capt := none }

/-- A record waits on a core for an IDLE lane (R347). -/
def postRec (s : State) (c : Nat) (r : TrapRec) : State := modCore s c fun k => { k with recs := k.recs ++ [r] }

/-- A step of the device follows at once, after those already due. -/
def soon (s : State) (i : Instr) (arg : EvArg) : State := { s with todo := s.todo ++ [(i, arg)] }

/-- A sextant core takes an exception (R380): SXEPC holds the resume PC, SXCAUSE the event, and the PC goes to SXVEC. A trap
inside the exception sets STATE to FAILED with FCODE 5 and stops the core. -/
def sextantEnter (s : State) (d : Nat) (kind code core : Nat) : State :=
  let v := getDie s d
  if v.sx.inExc then
    { setDie s d { v with sx := { v.sx with running := false } } with
      dev := { s.dev with state := .failed, fcode := 5 } }
  else
    setDie s d { v with sx := { v.sx with
      epc := v.sx.th.pc, causeKind := kind, causeCode := code, causeCore := core, inExc := true,
      th := { v.sx.th.settled with pc := v.sx.vec, st := .ready } } }

/-- Taking a trap at the thread's PC (R345, R349, R380), the one operation every trap goes through. A group thread stops
TRAPPED and its record waits on its core; a lane's trap comes next as the step that halts its core; a sextant core enters its
exception. -/
def trap (s : State) (a : Agent) (code : Nat) (arg : Word := 0) (va : Nat := 0) : State :=
  match a with
  | .thread gid tid =>
    let e := envOf s a
    let g := e.group s
    let s := modThread s a fun t =>
      { t.settled with st := .trapped, code := code, arg := arg, va := va, dispatched := false }
    let pc := ((getThread s a).getD {}).pc
    postRec s e.coreNo
      { kind := 0, code := code, epc := pc, arg := arg, slot := (sliceOf g e.rank).2, tid := tid, q := 0, va := va,
        gid := gid }
  | .lane c l =>
    let s := modThread s a fun t => { t.settled with st := .trapped, code := code, arg := arg, va := va }
    soon s .serviceLaneTrap { n1 := c, n2 := l }
  | .sextant d => sextantEnter s d 0 code 0
  | .engine _ _ => s

/-- Does DBGST of the thread's slot ask for a single step (R365)? -/
def steps (s : State) (e : Env) : Bool :=
  e.inGroup &&
    match SMap.find (getCore s e.coreNo).dbg (sliceOf (e.group s) e.rank).2 with
    | some v => v.2 && v.1 == e.tid
    | none => false

/-- An instruction retires: the thread takes its new registers and PC and becomes READY, and traps 0x12 where DBGST steps it
(R161, R365). -/
def retireTo (s : State) (e : Env) (t : Thread) (pc : DWord) : State :=
  let s' := setThread s e.who { readyThread s e t.settled with pc := pc }
  if steps s e then trap s' e.who 0x12 else s'

/-- An instruction that does not change the flow of control retires (R19). -/
def retire (s : State) (e : Env) (t : Thread) : State := retireTo s e t (t.pc + 8)

/-- The armed windows as they stand. -/
def windowsNow (s : State) : List WinView :=
  (s.wins.filter fun w => w.2.state != .free).map fun w => { tag := w.2.tag, base := w.2.base, n := w.2.n, g := w.2.g }

/-- Has an instruction that waits so issued its accesses, which then stay bound to the windows of the tick (R250, R384; notes/assumptions 63)? -/
def Wait.binds (w : Wait) : Bool :=
  match w with
  | .held _ _ _ | .token _ _ _ | .route | .drain _ | .ask _ _ _ | .isolation => true
  | _ => false

/-- The thread waits at its instruction (R160). -/
def waitAt (s : State) (a : Agent) (w : Wait) : State :=
  modThread s a fun t =>
    { t with st := .waiting w, view := if w.binds then some (t.view.getD (windowsNow s)) else t.view }

/-- Does a halt of its group hold an agent (R161)? -/
def heldByHalt (s : State) (a : Agent) : Bool := let e := envOf s a; e.inGroup && (e.group s).state == .halted

/-- Is a thread in the middle of its instruction's accesses: it waits for a token, a port, an isolated line, or room for its stores, or has waited so
and goes on? Such an instruction has issued, and retires though its group halts or a drop commits meanwhile (R151, R352). -/
def Thread.finishing (t : Thread) : Bool :=
  t.view.isSome &&
    match t.st with
    | .waiting (.token _ _ _) | .waiting (.ask _ _ _) | .waiting .isolation => true
    | .waiting (.drain _) => !t.stores.isEmpty
    | .ready | .fused => true
    | _ => false

/-- Has a thread's instruction issued its accesses, at whatever they wait now? At the commit of a drop it goes on to its end, held or without a route
too (R151, R303). -/
def Thread.issued (t : Thread) : Bool :=
  t.finishing || (t.view.isSome && match t.st with | .waiting (.held _ _ _) | .waiting .route => true | _ => false)

/-- Does a waiting thread of a group in this state go on where it can: in a HALTED group one whose instruction has issued, in a DROPPING group every
thread that the drop has left? -/
def Thread.goesOn (t : Thread) (g : GState) : Bool :=
  match g with
  | .halted => t.finishing
  | .dropping => t.view.isSome
  | _ => true

/-- A waiting thread becomes READY at its PC and issues the instruction again; one of a HALTED group stays as it is (R161), as one of a group
whose drop has committed does, but for those that go on to the end of their instruction, which are FUSED: no bundle takes them. -/
def wake (s : State) (a : Agent) : State :=
  let e := envOf s a
  match getThread s a with
  | some t => match t.st with
    | .waiting _ =>
      if e.inGroup && ((e.group s).state == .halted || (e.group s).state == .dropping) then
        (if t.goesOn (e.group s).state then { setThread s a { t with st := .fused } with bundle := s.bundle ++ [a] } else s)
      else setThread s a (readyThread s e t)
    | _ => s
  | none => s

/-- Does an instruction act in the order of the tids of its bundle (R164), because threads of one bundle may act on the same thing?
Uniform registers (R177), launch identities (R103), queues (R128), PHASE (R107), barriers (R193), semaphores (R207) and HINGE (R308). -/
def ordered (i : Instr) : Bool :=
  match i with
  | .kput _ | .launch _ | .enq _ | .tmma _ | .tcvt _ | .tadd _ | .trace _ | .qpush _ | .qpop _ | .phaseNext _ | .bari _ | .bara _ | .bars _
  | .semi _ | .sems _ | .semr _ | .semw _ | .hinge _ => true
  | _ => false

/-- Does a thread that waits so have still to act, so that a higher thread of its bundle waits behind it (R164)? One that waits on an object of
the instruction itself has acted. -/
def Wait.before (w : Wait) : Bool :=
  match w with
  | .drain _ | .regs | .held _ _ _ | .token _ _ _ | .route | .pending | .port _ | .ask _ _ _ | .isolation | .turn | .enq _ _ _ | .matrix _
  | .trace _ _ => true
  | .sleep _ | .semw _ _ _ | .barw _ _ _ _ | .tumbler | .qwait _ _ | .hinge _ _ _ | .shutter _ _ | .fprom _ | .halt _ _ => false

/-- Has a thread that was chosen into a bundle still to act there? -/
def Thread.yetToAct (t : Thread) : Bool :=
  match t.st with
  | .ready | .fused => true
  | .waiting w => w.before
  | _ => false

/-- Has every thread of a lower tid, of a bundle in which an agent was chosen for its instruction, acted (R164)? -/
def bundleTurn (s : State) (a : Agent) : Bool :=
  let clear (n : Nat) (mk : Nat → Agent) (t : Thread) : Bool := (upTo n).all fun k =>
    match getThread s (mk k) with
    | some u => !(u.yetToAct && u.bids.any fun b => t.bids.contains b)
    | none => true
  match a, getThread s a with
  | .thread g tid, some t => t.bids.isEmpty || clear tid (.thread g) t
  | .lane c l, some t => t.bids.isEmpty || clear l (.lane c) t
  | _, _ => true

/-- Every agent that executes instructions. -/
def allAgents (s : State) : List Agent :=
  (s.groups.flatMap fun g => (upTo g.2.threads.length).map fun t => .thread g.1 t) ++
  (s.cores.flatMap fun c => c.2.lanes.map fun l => .lane c.1 l.1) ++
  (s.dies.map fun d => .sextant d.1)

/-- Is every LAUNCH of its context that was issued in an earlier bundle done, so that a thread's own may take its ids (R103)? One of a HALTED group
whose instruction does not go on takes none before it is issued anew (R352). -/
def launchTurn (s : State) (a : Agent) : Bool :=
  match getThread s a with
  | none => true
  | some t =>
    match t.lau with
    | none => true
    | some n => (allAgents s).all fun b =>
      match getThread s b with
      | some u =>
        let e := envOf s b
        let on := u.finishing || !(e.inGroup && (e.group s).state == .halted)
        !(on && u.yetToAct && e.ctx == (envOf s a).ctx && (match u.lau with | some m => m < n | none => false))
      | none => true

/-- A waiting thread's instruction retires: with a destination written, it goes on at the next word. -/
def finishWait (s : State) (a : Agent) (f : Thread → Thread) : State :=
  match getThread s a with
  | some t => retire s (envOf s a) (f t)
  | none => s

/-- The threads of a group. -/
def agentsOfGroup (s : State) (gid : Nat) : List Agent :=
  match getGroup s gid with
  | some g => (upTo g.threads.length).map fun t => .thread gid t
  | none => []

/-- What a command of a control register comes to: not allowed, done, or, as far as it has gone, waiting. -/
inductive Cmd where
  | bad
  | wait (w : Wait) (s : State)
  | ok (s : State)

/-- A command given as a step of the device. -/
def Cmd.step (c : Cmd) (s : State) : Host.Outcome State Fault Refusal :=
  match c with
  | .bad => .next s
  | .wait _ s => .next s
  | .ok s => .next s

/-- A command that is done at once, where it is allowed. -/
def Cmd.of (o : Option State) : Cmd := match o with | some s => .ok s | none => .bad

/-! ## The checks of R22 -/

/-- On which agents an instruction executes: all; not on a sextant core (R43); only in a group (R43, R389). -/
inductive Where where
  | all | compute | group
  deriving DecidableEq, Repr

/-- What right it needs: none, supervisor mode, or the steward's (R42). -/
inductive Right where
  | none | sup | steward
  deriving DecidableEq, Repr

/-- What R22 checks of a word beyond its bits, before the guard. -/
structure Policy where
  place : Where := .all
  right : Right := .none
  /-- A further ground of trap 0x01. -/
  ill : Env → Bool := fun _ => false
  /-- A further ground of trap 0x02. -/
  lim : Env → Bool := fun _ => false

/-- R43 and R389: may the agent execute the instruction at all? -/
def Where.allows (w : Where) (e : Env) : Bool :=
  match w with
  | .all => true
  | .compute => !e.onSextant
  | .group => e.inGroup

/-- R42. -/
def Right.allows (r : Right) (e : Env) : Bool :=
  match r with
  | .none => true
  | .sup => e.sup
  | .steward => e.steward

/-- R21: the thread executes when p[PI] XOR PN = 1. -/
def guardHolds (g : GuardF) (t : Thread) : Bool := readP t g.pi.toNat != g.pn

/-- An instruction of the word issues for the thread named by `cur`: the checks of R22 in their order, then the guard, then
the instruction's own effect. A word whose guard is false retires with the PC advanced by 8 (R21). -/
def issue (s : State) (g : GuardF) (pol : Policy) (needs : List Need) (body : Env → Thread → State) :
    Host.Outcome State Fault Refusal :=
  match s.cur with
  | none => .fault .noIssuer
  | some a =>
    match getThread s a with
    | none => .fault .noIssuer
    | some t =>
      let e := envOf s a
      if !pol.place.allows e || pol.ill e then .next (trap s a 0x01)
      else if !pol.right.allows e then .next (trap s a 0x03)
      else if !(needs.all fun n => n.ok e) || pol.lim e then .next (trap s a 0x02)
      else if !guardHolds g t then .next (retire s e t)
      else if needsAwait needs t then .next (waitAt s a .regs)
      else if needsBad needs t then .next (trap s a 0x08)
      else .next (passFree (body e t) e needs)

/-- Operands that an instruction reads only in some cases are read here: one that awaits a result makes it wait (R159), a poisoned one traps 0x08
(R364). -/
def readAlso (s : State) (e : Env) (t : Thread) (l : List Need) (k : State) : State :=
  if needsAwait l t then waitAt s e.who .regs
  else if needsBad l t then trap s e.who 0x08
  else k

/-! ## Returning from a trap (R350) -/

/-- The check of a register target (R44): 0x05 for a bit of [63:56], else 0x04 for a bit of [2:0]. -/
def targetFault (c : DWord) : Option Nat :=
  if c.extractLsb' 56 8 ≠ 0 then some 0x05 else if c.extractLsb' 0 3 ≠ 0 then some 0x04 else none

/-- The lane returns to IDLE (R346). -/
def laneIdle (s : State) (c l : Nat) : State :=
  modLane s c l fun v => { v with busy := false, trec := none, th := {} }

/-- A trapped thread resumes at `pc`, where it still exists (R350). -/
def resumeTrapped (s : State) (gid tid : Nat) (pc : DWord) : State :=
  let a := Agent.thread gid tid
  match getThread s a with
  | some t =>
    match t.st with
    | .trapped => setThread s a { readyThread s (envOf s a) t with pc := pc, code := 0, arg := 0, va := 0 }
    | _ => s
  | none => s

end Sys2Proof.Machine
end

