-- ==== Sys2Proof/Machine/Phys.lean ====
section
/-!
DEFINITION. Physical memory (11_page R216): the cells of DRAM and bank memory in one canonical form, lines of 128 bytes, and
poison (18_faults R364). A byte nothing has written reads 0x00 (notes/assumptions 2 and 3).
-/

namespace Sys2Proof.Machine

/-- What an unlisted address reads as: in bank memory its reset value, in DRAM the model's choice. -/
def unlistedByte : Byte := 0

/-- The canonical form of a memory: addresses strictly rising, and no entry equal to what an unlisted address reads as. -/
def Memory.wf (m : List Host.Cell) : Bool :=
  match m with
  | [] => true
  | [c] => c.2 != unlistedByte
  | c :: d :: r => c.2 != unlistedByte && c.1 < d.1 && Memory.wf (d :: r)

/-- One byte of a memory. -/
def cellRead (m : List Host.Cell) (a : Nat) : Byte :=
  match m with
  | [] => unlistedByte
  | (b, v) :: r => if b = a then v else if a < b then unlistedByte else cellRead r a

/-- A memory with one byte written, in canonical form. -/
def cellWrite (m : List Host.Cell) (a : Nat) (v : Byte) : List Host.Cell :=
  match m with
  | [] => if v = unlistedByte then [] else [(a, v)]
  | (b, w) :: r =>
    if b = a then (if v = unlistedByte then r else (a, v) :: r)
    else if a < b then (if v = unlistedByte then (b, w) :: r else (a, v) :: (b, w) :: r)
    else (b, w) :: cellWrite r a v

/-- Consecutive bytes written, from `a` up. -/
def cellWriteList (m : List Host.Cell) (a : Nat) (l : List Byte) : List Host.Cell :=
  match l with
  | [] => m
  | v :: r => cellWriteList (cellWrite m a v) (a + 1) r

/-- One byte of physical memory. -/
def memByte (s : State) (pa : Nat) : Byte := cellRead s.mem pa

/-- `n` bytes of physical memory. -/
def memBytes (s : State) (pa n : Nat) : List Byte := (rangeFrom pa n).map fun a => cellRead s.mem a

/-- A little-endian value of `n` bytes (R3). -/
def memNat (s : State) (pa n : Nat) : Nat := ofBytes (memBytes s pa n)

/-- Physical memory with bytes written. -/
def memPut (s : State) (pa : Nat) (l : List Byte) : State := { s with mem := cellWriteList s.mem pa l }

/-! ## Lines -/

/-- Byte `i` of a line. -/
def lineByte (l : Line) (i : Nat) : Byte := l.extractLsb' (8 * i) 8

/-- `n` bytes of a line from byte `i`. -/
def lineBytes (l : Line) (i n : Nat) : List Byte := (rangeFrom i n).map (lineByte l)

/-- A line from its bytes. -/
def lineOf (bytes : List Byte) : Line := BitVec.ofNat 1024 (ofBytes bytes)

/-- A mask of `n` bytes from byte `i`. -/
def maskOf (i n : Nat) : LineMask := BitVec.ofNat 128 ((2 ^ n - 1) <<< i)

/-- The bits of the bytes a mask names. -/
def maskBits (m : LineMask) : Line :=
  BitVec.ofNat 1024 ((upTo 128).foldl (fun acc i => acc + (if m.getLsbD i then 255 <<< (8 * i) else 0)) 0)

/-- A line with the bytes a mask names taken from another. -/
def mergeLine (old new : Line) (m : LineMask) : Line :=
  let b := maskBits m
  (old &&& ~~~b) ||| (new &&& b)

/-- Bytes placed in an empty line from byte `i`. -/
def placeBytes (i : Nat) (bytes : List Byte) : Line := BitVec.ofNat 1024 (ofBytes bytes <<< (8 * i))

/-- The bytes of a line that a mask names, written to physical memory at the line's address. -/
def putMasked (s : State) (pa : Nat) (m : LineMask) (data : Line) : State :=
  { s with mem := (upTo 128).foldl (fun mem i =>
      if m.getLsbD i then cellWrite mem (pa + i) (lineByte data i) else mem) s.mem }

/-! ## Regions (R216) -/

/-- PA[47:46]. -/
def paRegion (pa : Nat) : Nat := field pa 46 2
/-- The stack of a DRAM address, PA[45:41]. -/
def paStack (pa : Nat) : Nat := field pa 41 5
/-- A DRAM address within its stack. -/
def dramOk (pa : Nat) : Bool := paRegion pa == 0 && field pa 36 5 == 0
/-- A bank-memory address whose zero fields are zero. -/
def bankOk (pa : Nat) : Bool := paRegion pa == 1 && field pa 44 2 == 0 && field pa 25 15 == 0
/-- The die of a bank-memory address, PA[43:40]. -/
def bankDie (pa : Nat) : Nat := field pa 40 4
/-- Is a host or peer frame admitted (R318)? -/
def portOk (pa : Nat) : Bool :=
  paRegion pa == 3 && (field pa 44 2 == 0 || (field pa 44 2 == 1 && field pa 40 4 ≤ 5))

/-! ## Poison (R364) -/

/-- Does a range of physical bytes touch a poisoned line? -/
def poisoned (s : State) (pa n : Nat) : Bool :=
  (rangeFrom (pa / 128) ((pa % 128 + n + 127) / 128)).any fun l => (SMap.find s.poison l).isSome

/-- A physical line becomes poisoned. -/
def poisonLine (s : State) (l : Nat) : State := { s with poison := SMap.set s.poison l 0 }

/-- Bytes written at the home since the poisoning; the line is clean once they cover it. -/
def poisonWritten (s : State) (l : Nat) (m : LineMask) : State :=
  match SMap.find s.poison l with
  | none => s
  | some old =>
    let now := old ||| m
    if now = BitVec.allOnes 128 then { s with poison := SMap.del s.poison l }
    else { s with poison := SMap.set s.poison l now }

/-! ## Links and routes (R310, R314, R316) -/

/-- Traffic crosses a link or port only in UP and DEGRADED (R316). -/
def linkUp (s : State) (l : Nat) : Bool :=
  let k := getLink s l
  k.state == .up || k.state == .degraded

/-- May a new route use a link: it is up, and no OFF is waiting for it (R316)? -/
def linkRoutes (s : State) (l : Nat) : Bool := linkUp s l && !(getLink s l).offPend

/-- The row and column of a die (R310). -/
def dieRow (d : Nat) : Nat := d / 8
def dieCol (d : Nat) : Nat := if d < 8 then d else 15 - d
def dieAt (row col : Nat) : Nat := if row = 0 then col else 15 - col

/-- The link that joins two neighbouring dies, and whether it is crossed from its lower end to its upper. -/
def hop (a b : Nat) : Nat × Bool :=
  let up := decide (a < b)
  if dieCol a = dieCol b then
    (if dieCol a = 0 then 15 else if dieCol a = 7 then 7 else 15 + dieCol a, up)
  else (min a b, up)

/-- The links crossed along a list of neighbouring dies. -/
def hops (l : List Nat) : List (Nat × Bool) :=
  match l with
  | a :: b :: r => hop a b :: hops (b :: r)
  | _ => []

/-- The dies of a row from one column to another. -/
def along (row c1 c2 : Nat) : List Nat :=
  (if c1 ≤ c2 then rangeFrom c1 (c2 + 1 - c1) else (rangeFrom c2 (c1 + 1 - c2)).reverse).map (dieAt row)

/-- The routes of R314 between two dies, in their order. -/
def routesOf (a b : Nat) : List (List (Nat × Bool)) :=
  let ca := dieCol a
  let cb := dieCol b
  if dieRow a = dieRow b then
    [hops (along (dieRow a) ca cb), hops (a :: (along (1 - dieRow a) ca cb ++ [b]))]
  else [hops (along (dieRow a) ca cb ++ [b]), hops (a :: along (dieRow b) ca cb)]

/-- The first route whose links are all up, and whether it is a detour; a message within one die crosses no link. -/
def routeOf (s : State) (a b : Nat) : Option (List (Nat × Bool) × Bool) :=
  if a = b then some ([], false)
  else
    let ok (l : List (Nat × Bool)) : Bool := l.all fun h => linkRoutes s h.1
    match routesOf a b with
    | [r, d] => if ok r then some (r, false) else if ok d then some (d, true) else none
    | _ => none

/-- Can a message go from one die to another now? -/
def reaches (s : State) (a b : Nat) : Bool := (routeOf s a b).isSome

/-- The die of a port: host ports 0 to 3, peer ports 4 to 9 (R14, R317). -/
def portDie (port : Nat) : Nat := nthD [0, 7, 8, 15, 2, 3, 4, 11, 12, 13] port 0

/-- The link index of a port (R317). -/
def portLink (port : Nat) : Nat := 22 + port

/-- One direction of a link. -/
def dirOf (k : Link) (up : Bool) : LinkDir := if up then k.fwd else k.bwd
def setDir (k : Link) (up : Bool) (v : LinkDir) : Link := if up then { k with fwd := v } else { k with bwd := v }

/-- May a transmitter send: fewer than 512 of its flits are not acknowledged (R315)? -/
def LinkDir.room (v : LinkDir) : Bool := v.replay.length < 512

/-- A direction with one more flit sent, which is kept until it is acknowledged. -/
def LinkDir.send (v : LinkDir) (id : Nat) : LinkDir :=
  let f : Flit := { seq := v.next, msg := id }
  { v with next := (v.next + 1) % 4096, replay := v.replay ++ [f], wire := v.wire ++ [f] }

/-- A flit of a message goes out on a link (R315). -/
def sendFlit (s : State) (l : Nat) (up : Bool) (id : Nat) : State :=
  modLink s l fun k => setDir k up ((dirOf k up).send id)

/-- What waits to go out at a peer port goes, in order, as far as the transmitter has room. -/
def LinkDir.flush (v : LinkDir) (l : List Nat) : LinkDir :=
  match l with
  | [] => { v with queue := [] }
  | id :: r => if v.room then (v.send id).flush r else { v with queue := id :: r }

/-- A request or an answer goes out at a port; peer ports carry Daoft flits (R324). -/
def sendPort (s : State) (port id : Nat) : State :=
  if port < 4 then s else modLink s (portLink port) fun k => { k with fwd := k.fwd.flush (k.fwd.queue ++ [id]) }

/-! ## Stacks as seen by a request (R298, R300) -/

/-- Does the stack's controller admit a request that comes from die `d` (R300, R303)? While the hand-over opens, only the dies
whose marker has arrived are admitted; and the request must have a route to the owner (R298, R314). -/
def admits (s : State) (stack d : Nat) : Bool :=
  let k := getStack s stack
  (match k.state with
    | .owned => true
    | .opening => k.markers.contains d
    | _ => false) && reaches s d k.owner

/-- The place of a request among those received for a stack: where it is held, or behind all. -/
def placeAt (s : State) (r : Req) (stack : Nat) : Nat :=
  (((getStack s stack).held.find? fun h => h.req == r).map (·.seq)).getD s.uid

/-- Is a request that has a place before every other that waits at its stack, held or posted, and comes from its die or goes to its line (R254,
R299, R303)? An admitted write that waits for its token only is before requests to its line. -/
def heldTurn (s : State) (place stack d line : Nat) : Bool :=
  let k := getStack s stack
  (k.held.all fun h => h.seq ≥ place || (h.die != d && h.line != line)) &&
    k.posted.all fun p => p.seq ≥ place || ((p.adm || p.die != d) && p.addr / 128 != line)

/-! ## Tokens (R87) -/

/-- The tokens of a context at a die, with those that time has added since they were last counted, up to DEPTH. A full bucket adds none:
its next microsecond begins when a token is taken. -/
def accrue (s : State) (d ctx : Nat) : State :=
  let c := getCtx s ctx
  let v := getDie s d
  let now := SMap.get v.buckets ctx c.depth
  let last := SMap.get v.lastToken ctx 0
  let us := (s.dev.tick - last) / 1000
  let n := min c.depth (now + us * c.rate)
  setDie s d { v with buckets := SMap.set v.buckets ctx n,
                      lastToken := SMap.set v.lastToken ctx (if n = c.depth then s.dev.tick else last + 1000 * us) }

/-- Has a context a token at a die, or no ceiling (R86, R87)? -/
def hasToken (s : State) (d ctx : Nat) : Bool :=
  (getCtx s ctx).rate == 0 || SMap.get (getDie s d).buckets ctx (getCtx s ctx).depth != 0

/-- The stack that a request goes to, at whose owner's controllers it waits. -/
def TokReq.stack (x : TokReq) : Nat := paStack (128 * x.line)

/-- Does an entry stand for a request of a context to a physical line? -/
def TokReq.isOf (x : TokReq) (r : Req) (ctx line : Nat) : Bool := x.req == r && x.ctx == ctx && x.line == line

/-- Does a request of a context to a line come before another in a die's list, which `mine` picks, or before all? -/
def tokenBehind (s : State) (d ctx line : Nat) (mine : TokReq → Bool) : Bool :=
  ((getDie s d).tokq.takeWhile fun x => !mine x).any fun x => x.ctx == ctx && x.line == line

/-- The requests of a die to a stack that wait and could be served now, in the order received: there is a token for them, and no earlier one of their
context to their line waits. -/
def tokenWaiters (s : State) (d k : Nat) : List TokReq :=
  (getDie s d).tokq.filter fun x => x.stack == k && hasToken s d x.ctx && !tokenBehind s d x.ctx x.line fun y => y == x

/-- May a request of a context be served next at a stack's controllers, where `others` wait there with tokens too: deadline-class requests come first,
but where seven have been served in a row while a bulk one waited, a bulk one comes (R87)? -/
def classTurn (s : State) (d k ctx : Nat) (others : List TokReq) : Bool :=
  let due := SMap.get (getDie s d).dlRun k 0 ≥ 7
  if (getCtx s ctx).lat then !due || !others.any fun x => !(getCtx s x.ctx).lat
  else due || !others.any fun x => (getCtx s x.ctx).lat

/-- The controllers of a die serve a request of a context to a stack, with a token where the context has a ceiling; it waits no more. -/
def serveToken (s : State) (d k ctx : Nat) (others : List TokReq) (mine : TokReq → Bool) : State :=
  let c := getCtx s ctx
  modDie s d fun v =>
    { v with
      tokq := v.tokq.filter fun y => !mine y
      buckets := if c.rate = 0 then v.buckets else SMap.set v.buckets ctx (SMap.get v.buckets ctx c.depth - 1)
      dlRun := SMap.set v.dlRun k (if c.lat && others.any fun x => !(getCtx s x.ctx).lat then SMap.get v.dlRun k 0 + 1 else 0) }

/-- A request of a context to a physical line is served at die `d`, whose controller it has reached: with one token where the context has a ceiling.
`none` where it has to wait: behind an earlier request of its context for the line, for a token, or for its class (R87). Where nothing waits, a
request without a ceiling changes nothing. -/
def takeToken (s : State) (r : Req) (ctx d line : Nat) : Option State :=
  let k := paStack (128 * line)
  if (getCtx s ctx).rate = 0 ∧ (getDie s d).tokq.isEmpty ∧ SMap.get (getDie s d).dlRun k 0 = 0 then some s
  else
    let mine (x : TokReq) : Bool := x.isOf r ctx line
    let s := if (getCtx s ctx).rate = 0 then s else accrue s d ctx
    let others := (tokenWaiters s d k).filter fun x => !mine x
    if tokenBehind s d ctx line mine || !hasToken s d ctx || !classTurn s d k ctx others then none
    else some (serveToken s d k ctx others mine)

/-- A request joins those that wait for a token at a die, once. -/
def wantToken (s : State) (d : Nat) (r : Req) (ctx line : Nat) : State :=
  if (getDie s d).tokq.any fun x => x.isOf r ctx line then s
  else
    let (seq, s) := fresh s
    modDie s d fun v => { v with tokq := v.tokq ++ [{ req := r, ctx := ctx, line := line, seq := seq }] }

/-- Has a request been admitted to its stack, so that it waits for its token only? While the stack is not FROZEN it is then served there, before a
hand-over goes on from step 2 (R302; DESIGN CHOICE, notes/assumptions 79). -/
def tokenAdmitted (s : State) (r : Req) (stack line : Nat) : Bool :=
  let k := getStack s stack
  (k.state == .owned || k.state == .closing || k.state == .opening) &&
    (getDie s k.owner).tokq.any fun x => x.req == r && x.line == line

/-- May request `r` of die `d` go on at a stack's controller for a physical line now: it is admitted already, or its stack admits it, and its turn has
come? -/
def passes (s : State) (r : Req) (stack d line : Nat) : Bool :=
  tokenAdmitted s r stack line || (admits s stack d && heldTurn s (placeAt s r stack) stack d line)

/-- The place in the order received of a request for a line that waits for a token somewhere. -/
def tokenPlace (s : State) (r : Req) (line : Nat) : Option Nat :=
  (s.dies.flatMap fun v => v.2.tokq).findSome? fun x => if x.req == r && x.line == line then some x.seq else none

/-- A request is held for a stack, once, behind those held before it (R303), or in the place it had among those that waited for tokens. -/
def holdReq (s : State) (k : Nat) (r : Req) (d line : Nat) : State :=
  if (getStack s k).held.any fun h => h.req == r then
    modStack s k fun v => { v with held := v.held.map fun h => if h.req == r then { h with die := d, line := line } else h }
  else
    let (seq, s) := match tokenPlace s r line with | some n => (n, s) | none => fresh s
    modStack s k fun v => { v with held := v.held ++ [{ req := r, seq := seq, die := d, line := line }] }

/-- A request waits for no token but one of context `ctx` at die `d` for `line`, where it waits for that. -/
def leaveTokens (s : State) (r : Req) (keep : Option (Nat × Nat × Nat)) : State :=
  let kept (d : Nat) (x : TokReq) : Bool := match keep with | some (e, ctx, line) => d == e && x.ctx == ctx && x.line == line | none => false
  if s.dies.any fun v => v.2.tokq.any fun x => x.req == r && !kept v.1 x then
    { s with dies := SMap.mapVal s.dies fun d v => { v with tokq := v.tokq.filter fun x => x.req != r || kept d x } }
  else s

/-- A request that is served, or withdrawn, waits at no controller and asks nothing of a port. -/
def leaveReq (s : State) (f : Req → Bool) : State :=
  { s with
    asks := s.asks.filter fun q => !f q.req
    stk := SMap.mapVal s.stk fun _ k => { k with held := k.held.filter fun h => !f h.req }
    dies := SMap.mapVal s.dies fun _ v => { v with tokq := v.tokq.filter fun x => !f x.req } }

/-- Does a request wait at a controller? -/
def waitsAt (s : State) (f : Req → Bool) : Bool :=
  (s.stk.any fun k => k.2.held.any fun h => f h.req) || s.dies.any fun v => v.2.tokq.any fun x => f x.req

/-- Does a request wait at a controller, or has it asked something of a port? -/
def placed (s : State) (f : Req → Bool) : Bool := waitsAt s f || s.asks.any fun q => f q.req

/-! ## Write-backs (R387) -/

/-- The request that stands for the writes the device posts on its own behalf. -/
def ownReq : Req := .host 0

/-- An admitted write to DRAM is performed with a token, or posted until it gets one (R87): a hand-over that closes its stack meanwhile performs it in
step 3 (R302; DESIGN CHOICE, notes/assumptions 79). -/
def writeWithToken (s : State) (p : Posted) : State :=
  let owner := (getStack s (paStack p.addr)).owner
  match takeToken s ownReq p.ctx owner (p.addr / 128) with
  | some s => putMasked s p.addr p.mask p.data
  | none =>
    wantToken (modStack s (paStack p.addr) fun v => { v with posted := v.posted ++ [{ p with adm := true }] })
      owner ownReq p.ctx (p.addr / 128)

/-- A write-back of a line's bytes to DRAM, charged to context `ctx`: performed, or posted while its stack admits none, an earlier one of its line is
posted, or no token is to be had. -/
def dramWrite (s : State) (d ctx tag line pa : Nat) (m : LineMask) (data : Line) : State :=
  if m = 0 then s
  else
    let k := paStack pa
    let (seq, s) := fresh s
    let p : Posted := { die := d, ctx := ctx, seq := seq, tag := tag, line := line, addr := pa, mask := m, data := data }
    if admits s k d && heldTurn s seq k d (pa / 128) then writeWithToken s p
    else modStack s k fun v => { v with posted := v.posted ++ [p] }

/-- May a posted write be performed now: it is admitted and its stack is not FROZEN, or its stack admits its die; and its turn has come
(R304)? -/
def postedReady (s : State) (k : Nat) (p : Posted) : Bool :=
  ((p.adm && (getStack s k).state != .frozen) || admits s k p.die) && heldTurn s p.seq k p.die (p.addr / 128)

/-- The posted writes of a stack in their order: each that may be is performed, the others stay. -/
def performList (s : State) (k : Nat) (l : List Posted) : State :=
  match l with
  | [] => s
  | p :: r =>
    if postedReady s k p then
      performList (writeWithToken (modStack s k fun v => { v with posted := v.posted.filter fun q => q.seq != p.seq }) p) k r
    else performList s k r

/-- The posted writes of a stack are performed as far as they can be (R302 step 3, R303, R304, R314). -/
def performStack (s : State) (k : Nat) : State := performList s k (getStack s k).posted

end Sys2Proof.Machine
end

