-- ==== Sys2Proof/Machine/Translate.lean ====
section
/-!
DEFINITION. Addresses, space tags, the table walk, shutter windows and the checks of every access (04_context R72, 11_page
R213 to R225 and R231, 13_access R271 to R273).
-/

namespace Sys2Proof.Machine

/-! ## The device address (R213, R214) -/

def vaPlc (va : Nat) : Nat := field va 50 6
def vaOfs (va : Nat) : Nat := field va 0 50

/-- R213: bits [63:56] zero and a placement that exists. -/
def vaOk (va : Nat) : Bool := va < 2 ^ 56 && vaPlc va ≤ 33

/-- The home die of an address, for an access that comes from die `d` (R214). -/
def homeDie (va d : Nat) : Nat :=
  let p := vaPlc va
  if p < 16 then p else if p < 32 then p - 16 else if p = 32 then field va 12 4 else d

/-! ## Space tags (R71, R72) -/

/-- Does aperture `n` contain an address? -/
def apContains (a : Ap) (va : Nat) : Bool := a.base * 65536 ≤ va && va < a.base * 65536 + 65536 * a.len

/-- What an access is translated under: the tag, the root, the scale pool, and the slot's W and X bits. -/
structure Space where
  tag : Nat
  root : Nat
  splBase : Nat
  splSize : Nat
  w : Bool := true
  x : Bool := true
  deriving DecidableEq, Repr

/-- The slot of a context that an address hits, if any: the lowest valid slot whose LIVE aperture contains it. -/
def hitSlot (s : State) (c : Ctx) (va : Nat) : Option (BitVec 15) :=
  ((upTo 8).filterMap fun i =>
    let v := SMap.get c.slots i 0
    let a := getAp s (field v.toNat 0 12)
    if v.getLsbD 12 && a.state == .live && apContains a va then some v else none).head?

/-- The space of an aperture. -/
def apSpace (s : State) (n : Nat) (w x : Bool) : Space :=
  let a := getAp s n
  { tag := 4096 + n, root := a.root, splBase := a.splBase, splSize := a.splSize, w := w, x := x }

/-- R72. -/
def spaceOf (s : State) (ctx va : Nat) : Space :=
  let c := getCtx s ctx
  match hitSlot s c va with
  | some v => apSpace s (field v.toNat 0 12) (v.getLsbD 13) (v.getLsbD 14)
  | none => { tag := ctx, root := c.root, splBase := c.splBase, splSize := c.splSize }

/-- The space a tag itself names: a context's tables or an aperture's. -/
def tagSpace (s : State) (tag : Nat) : Space :=
  if tag < 4096 then
    let c := getCtx s tag
    { tag := tag, root := c.root, splBase := c.splBase, splSize := c.splSize }
  else apSpace s (tag - 4096) true true

/-- The relevant tags of a context (R241): its own and those of its valid slots. -/
def relevantTags (s : State) (ctx : Nat) : List Nat :=
  let c := getCtx s ctx
  ctx :: (upTo 8).filterMap fun i =>
    let v := SMap.get c.slots i 0
    if v.getLsbD 12 then some (4096 + field v.toNat 0 12) else none

/-- The relevant tags of a thread; on a sextant core every tag (13_access, Fences). -/
def tagRelevant (s : State) (e : Env) (tag : Nat) : Bool := e.onSextant || (relevantTags s e.ctx).contains tag

/-! ## The walk (R217 to R222) -/

/-- The outcome of a walk: a translation, a fault with its cause and level, or a table read held for a stack, at a physical line. -/
inductive Walk where
  | ok (x : Xlat)
  | fault (cause level : Nat)
  | held (stack line : Nat)
  deriving DecidableEq, Repr

/-- The index of a level (R217). -/
def walkIndex (ofs level : Nat) : Nat :=
  match level with
  | 3 => field ofs 40 10
  | 2 => field ofs 32 8
  | 1 => field ofs 24 8
  | _ => field ofs 16 8

/-- Is a table entry (L = 0) malformed (R218, R221)? -/
def tableBad (e level : Nat) : Bool :=
  level == 0 || field e 2 9 != 0 || field e 48 16 != 0 || !dramOk (field e 11 37 <<< 11)

/-- Is a plain leaf malformed (R219, R221)? -/
def plainBad (e level : Nat) : Bool :=
  let f := field e 16 32 <<< 16
  level == 3 || field e 14 2 != 0 || field e 48 16 != 0 || field e 8 4 != 0 ||
    (level == 1 && field f 16 8 != 0) || (level == 2 && field f 16 16 != 0) ||
    (paRegion f == 0 && !dramOk f) || (paRegion f == 1 && !bankOk f)

/-- The bytes of a converting leaf's payload (R220): 512 blocks of 32 elements for FP32, 1024 for a 16-bit type. -/
def payloadBytes (e : Nat) : Nat :=
  match elemOfCode (field e 8 4) with
  | some t => (if field e 12 2 = 1 then 512 else 1024) * (4 * elemBits t)
  | none => 0

/-- Is a converting leaf malformed (R220, R221)? -/
def convBad (e level splSize : Nat) : Bool :=
  let sf := field e 8 4
  level != 0 || sf < 3 || sf > 8 || field e 36 23 * 2 ^ 13 + payloadBytes e > 2 ^ 36 ||
    1024 * (field e 14 22 + 1) > splSize * 65536

/-- The attributes of a leaf (R219, R220). -/
def leafAttr (e splBase : Nat) : Attr :=
  { w := bit e 2, x := bit e 3, u := bit e 4, p := bit e 5, sh := bit e 6, psn := bit e 7, sf := field e 8 4,
    df := field e 12 2, slot := if field e 12 2 = 0 then 0 else splBase + 1024 * field e 14 22 }

/-- The frame of the 64 KiB page that a leaf gives for an offset. -/
def leafFrame (e ofs level : Nat) : Nat :=
  if field e 12 2 = 0 then
    (field e 16 32 <<< 16) +
      (match level with | 2 => field ofs 16 16 <<< 16 | 1 => field ofs 16 8 <<< 16 | _ => 0)
  else field e 59 5 * 2 ^ 41 + field e 36 23 * 2 ^ 13

/-- The walk from a table at `t` on level `level`: each entry by one 64-bit read straight from DRAM (R222). -/
def walkFrom (s : State) (r : Req) (sp : Space) (d va t level : Nat) : Walk :=
  let ofs := vaOfs va
  let a := t + 8 * walkIndex ofs level
  if !passes s r (paStack a) d (a / 128) then .held (paStack a) (a / 128)
  else
    let e := memNat s a 8
    if !bit e 0 then .fault 1 level
    else if bit e 1 then
      if (if field e 12 2 = 0 then plainBad e level else convBad e level sp.splSize) then .fault 2 level
      else .ok { tag := sp.tag, page := va / 65536, frame := leafFrame e ofs level, attr := leafAttr e sp.splBase,
                 level := level }
    else if tableBad e level then .fault 2 level
    else match level with
      | 0 => .fault 2 0
      | l + 1 => walkFrom s r sp d va (field e 11 37 <<< 11) l

/-- The walk of R217 from the root, on behalf of a request. -/
def walk (s : State) (r : Req) (sp : Space) (d va : Nat) : Walk := walkFrom s r sp d va sp.root 3

/-- Is a leaf admitted under a placement (R215)? The frame tested is the one the accessed page maps to, so that a page which a level-2 leaf maps past
its die's 32 MiB of bank memory is not admitted (DESIGN CHOICE: R221 tests the leaf's FRAME field only, and the spec is silent on such a page;
notes/assumptions 83). -/
def admitted (plc : Nat) (frame : Nat) (a : Attr) : Bool :=
  if plc < 16 then paRegion frame == 0 || (portOk frame && a.df == 0 && !a.sh)
  else if plc < 32 then bankOk frame && bankDie frame == plc - 16 && a.df == 0 && !a.sh
  else if plc = 32 then paRegion frame == 0
  else paRegion frame == 0 && a.df == 0 && !a.sh

/-! ## Shutter windows (R271, R273) -/

/-- The armed window of a tag that contains an address. -/
def findWin (l : List WinView) (tag va : Nat) : Option WinView :=
  l.find? fun w => w.tag == tag && w.base ≤ va && va < w.base + 65536 * w.n

/-- Where an access to a window is served: the address on page j, the generation its lines carry (0 stands for lines of no
window, 1 + g mod 4 for a window's), and whether the page is in the front view. -/
structure View where
  va : Nat
  gen : Nat
  front : Bool
  deriving DecidableEq, Repr

/-- The view of an access (R273) that binds to the windows of a tick: the page of the other half when g is odd. -/
def viewIn (l : List WinView) (tag va : Nat) : View :=
  match findWin l tag va with
  | none => { va := va, gen := 0, front := false }
  | some w =>
    let half := 65536 * (w.n / 2)
    let front := decide (va < w.base + half)
    let va' := if w.g.getLsbD 0 then (if front then va + half else va - half) else va
    { va := va', gen := 1 + w.g.toNat % 4, front := front }

/-- The view of an access that issues now. -/
def viewOf (s : State) (tag va : Nat) : View := viewIn (windowsNow s) tag va

/-! ## Checks (R224, R225, R231) -/

/-- What an access is: who makes it, from which die and core, under which context, and what it does. -/
structure Acc where
  die : Nat
  core : Option Nat
  ctx : Nat
  sup : Bool
  /-- An engine's, tiler's, ray unit's or host's access (R225, R235). -/
  eng : Bool := false
  /-- KIND of R235: 0 read, 1 write, 2 fetch, 3 atomic or bank operation. -/
  kind : Nat := 0
  /-- Needs W (R225). -/
  write : Bool := false
  /-- Served by L1 where it holds the line (R242). -/
  l1 : Bool := true
  /-- The access needs a plain page: atomics, bank operations and images (R231, R339). -/
  plain : Bool := false
  /-- A row's address and length, by which R120, R231 and R293 check each of its pieces. -/
  row : Option (Nat × Nat) := none
  va : Nat
  n : Nat
  /-- The space, where it is not the context's by R72: a host window's (R322). -/
  space : Option Space := none
  /-- The request that waits where the access has to. -/
  req : Req := ownReq
  /-- The windows it binds to, where it issued first at an earlier tick (R250). -/
  view : Option (List WinView) := none
  deriving DecidableEq, Repr

/-- A fault an access takes: its code, the address for the trap record, and for 0x06 and 0x07 the fault record (R235), whose cause is `open_`
where R225 names none. -/
structure AFault where
  code : Nat
  va : Nat
  home : Nat := 0
  rec? : Option FltRec := none
  open_ : Bool := false
  deriving DecidableEq, Repr

/-- Where an access that passes its checks goes. -/
structure Target where
  tag : Nat
  va : Nat
  /-- The address on page j that is served (R273). -/
  pva : Nat
  gen : Nat
  home : Nat
  frame : Nat
  attr : Attr
  level : Nat
  /-- The access hits an L1 line of its core. -/
  hitL1 : Bool := false
  deriving DecidableEq, Repr

/-- Why an access does not go on: a fault, or something it waits for. -/
inductive Stop where
  | fault (f : AFault)
  | wait (w : Wait)
  deriving DecidableEq, Repr

/-- The physical address of a byte of a plain page. -/
def Target.pa (t : Target) : Nat := t.frame + t.pva % 65536

/-- A line of a cache with this tag, number and generation. -/
def findLine (l : List CLine) (tag line gen : Nat) : Option CLine :=
  l.find? fun c => c.tag == tag && c.line == line && c.gen == gen

/-- The L1 lines, or for a fetch the instruction lines, that serve a core. -/
def coreLines (s : State) (a : Acc) : List CLine :=
  match a.core with
  | some c => if a.kind == 2 then (getCore s c).ilines else if a.l1 then (getCore s c).l1 else []
  | none => []

/-- The delivered element size of a converting page in bytes (R230); 0 on a plain page. -/
def dsOf (a : Attr) : Nat := match a.df with | 0 => 0 | 1 => 4 | _ => 2

/-- The rights of R225: the lowest cause that applies. The W bit of a host window is no aperture slot's: it counts with the leaf's (R322). -/
def rightsCause (a : Acc) (sp : Space) (at_ : Attr) (front : Bool) : Option Nat :=
  if a.write && (!at_.w || front || (a.space.isSome && !sp.w)) then some 3
  else if a.kind == 2 && !at_.x then some 4
  else if (!a.sup || a.eng) && !at_.u then some 5
  else if (a.write && !sp.w) || (a.kind == 2 && !sp.x) then some 6
  else none

/-- Step 7 of R224: the width or operation on a converting page (R231). -/
def convFault (a : Acc) (at_ : Attr) : Bool :=
  at_.df != 0 && (a.plain ||
    (match a.row with
      | some r => r.1 % dsOf at_ != 0 || r.2 % dsOf at_ != 0
      | none => a.n < dsOf at_))

/-- The fault record of a 0x06 or 0x07 (R235). -/
def mkRec (a : Acc) (tag pva code cause level : Nat) : FltRec :=
  { va := pva / 65536 * 65536, code := code, tag := tag, kind := a.kind, eng := a.eng, cause := cause, level := level }

/-- Steps 5 to 7 of R224 on attributes found. -/
def checkAttr (a : Acc) (sp : Space) (v : View) (home level : Nat) (at_ : Attr) : Option AFault :=
  match rightsCause a sp at_ v.front with
  | some cause => some { code := 7, va := a.va, home := home, rec? := some (mkRec a sp.tag v.va 7 cause level) }
  | none =>
    if at_.psn then some { code := 8, va := a.va }
    else if convFault a at_ then some { code := 0x15, va := a.va }
    else none

/-- Does a range of a page lie in a counter store that a context names (R82)? -/
def counterHit (s : State) (frame va n : Nat) : Bool :=
  let pa := frame + va % 65536
  paRegion frame == 1 && s.ctxs.any fun c => c.2.cnt != 0 && c.2.cnt < pa + n && pa < c.2.cnt + 8192

/-- Steps 1 and 3 to 7 of R224 for one access that lies in one page (step 2, alignment, is the entry's). It is checked against
the bits of the line it hits, at L1 or at the home L2, otherwise against the home's translation cache, otherwise by a walk,
whose leaf the home's cache then holds (R223). A store to a counter store faults 0x07 (R82), with a cause that the spec leaves open
(notes/assumptions 64) and after every check of R224, so that 0x08 of a page with PSN = 1 comes first (DESIGN CHOICE: R224 gives R82's 0x07 no
place; notes/assumptions 84). -/
def check (s : State) (a : Acc) : Except Stop (Target × State) :=
  if !vaOk a.va then .error (.fault { code := 5, va := a.va })
  else
    let sp := a.space.getD (spaceOf s a.ctx a.va)
    let v := viewIn (a.view.getD (windowsNow s)) sp.tag a.va
    let home := homeDie a.va a.die
    let line := a.va / 128
    let mk (frame level : Nat) (at_ : Attr) (l1 : Bool) : Target :=
      { tag := sp.tag, va := a.va, pva := v.va, gen := v.gen, home := home, frame := frame, attr := at_, level := level,
        hitL1 := l1 }
    let fin (frame level : Nat) (at_ : Attr) (l1 : Bool) (s' : State) : Except Stop (Target × State) :=
      match checkAttr a sp v home level at_ with
      | some f => .error (.fault f)
      | none =>
        if a.write && counterHit s frame v.va a.n then
          .error (.fault { code := 7, va := a.va, home := home, rec? := some (mkRec a sp.tag v.va 7 0 level), open_ := true })
        else .ok (mk frame level at_ l1, s')
    match findLine (coreLines s a) sp.tag line v.gen with
    | some c => fin c.frame 0 c.attr true s
    | none =>
      if !reaches s a.die home then .error (.wait .route)
      else match findLine (getDie s home).l2 sp.tag line v.gen with
      | some c => fin c.frame 0 c.attr false s
      | none =>
        let go (x : Xlat) (s' : State) : Except Stop (Target × State) :=
          if !admitted (vaPlc a.va) x.frame x.attr then .error (.fault { code := 5, va := a.va })
          else fin x.frame x.level x.attr false s'
        match (getDie s home).tlb.find? fun x => x.tag == sp.tag && x.page == v.va / 65536 with
        | some x => go x s
        | none =>
          match walk s a.req sp home v.va with
          | .held k l => .error (.wait (.held k home l))
          | .fault cause level =>
            .error (.fault { code := 6, va := a.va, home := home, rec? := some (mkRec a sp.tag v.va 6 cause level) })
          | .ok x => go x (modDie s home fun d => { d with tlb := x :: d.tlb })

/-! ## Fault records (R235) -/

/-- A record joins the fault queue of a die: merged with one of the same tag, page, code and KIND, lost at 256. -/
def postFlt (s : State) (d : Nat) (r : FltRec) : State :=
  modDie s d fun v =>
    if v.faults.any fun q => q.tag == r.tag && q.va == r.va && q.code == r.code && q.kind == r.kind then
      { v with faults := v.faults.map fun q =>
          if q.tag == r.tag && q.va == r.va && q.code == r.code && q.kind == r.kind then { q with eng := q.eng || r.eng }
          else q }
    else if v.faults.length ≥ 256 then { v with ovf := true }
    else { v with faults := v.faults ++ [r] }

/-- The record of a fault, where it makes one (R235); a cause that the spec leaves open is a free value (notes/assumptions 64). -/
def postFault (s : State) (f : AFault) : State :=
  match f.rec? with
  | none => s
  | some r =>
    if f.open_ then postFlt (freeVal s).2 f.home { r with cause := (freeVal s).1.toNat % 16 } else postFlt s f.home r

/-- A thread takes the fault of an access (R234, R260, R373): 0x06 and 0x07 post a record and park the thread, on a sextant
core they enter its exception, and every other code traps. -/
def takeFault (s : State) (a : Agent) (f : AFault) : State :=
  match f.rec? with
  | some r =>
    let s := postFault s f
    match a with
    | .sextant _ => trap s a f.code
    | _ => modThread s a fun t =>
      { t.settled with st := .parked (.fault r.tag (r.va / 65536) f.code 0), code := f.code }
  | none => trap s a f.code 0 f.va

/-- A line at a port is asked for, or a write to it is sent, once (R318, R319); the request goes out. -/
def askPort (s : State) (r : Req) (port addr : Nat) (write : Bool) : State :=
  if s.asks.any fun q => q.req == r && q.port == port && q.addr == addr && q.write == write then s
  else
    let (id, s) := fresh s
    sendPort { s with asks := s.asks ++ [{ id := id, req := r, port := port, addr := addr, write := write }], defer := false } port id

/-- A request keeps no place at any stack but the one it waits for: one that needs two stacks goes to the first again once the second admits it, so
that no two requests wait for each other (R299, R387; notes/assumptions 65); the like holds of tokens (`leaveTokens`). -/
def leaveStacks (s : State) (r : Req) (w : Wait) : State :=
  let other (n : Nat) : Bool := match w with | .held k _ _ => n != k | _ => true
  if s.stk.any fun k => other k.1 && k.2.held.any fun h => h.req == r then
    { s with stk := SMap.mapVal s.stk fun n v => if other n then { v with held := v.held.filter fun h => !(h.req == r) } else v }
  else s

/-- A request takes its place where it waits: among those held for a stack (R303), those that wait for a token (R87), or those asked of a
port. -/
def joinWait (s : State) (r : Req) (w : Wait) : State :=
  let s := leaveStacks s r w
  match w with
  | .held k d l => leaveTokens (holdReq s k r d l) r none
  | .token d c l => leaveTokens (wantToken s d r c l) r (some (d, c, l))
  | .ask port addr write => askPort (leaveTokens s r none) r port addr write
  | _ => leaveTokens s r none

/-- A thread stops as an access says. -/
def takeStop (s : State) (a : Agent) (p : Stop) : State :=
  match p with
  | .fault f => takeFault s a f
  | .wait w => waitAt (joinWait s (.agent a) w) a w

end Sys2Proof.Machine
end

