-- ==== Sys2Proof/Machine/Memory.lean ====
section
/-!
DEFINITION. The memory system: the home L2 and its fills (04_context R87, R88, 11_page R223, R228 to R233), the store buffer,
the core's L1 (12_ordering R238, R239), and the operations at a home.
-/

namespace Sys2Proof.Machine

/-! ## Host and peer memory (R318, R319) -/

/-- The port number of a host or peer frame: host ports 0 to 3 by the context, peer ports 4 to 9. A host or peer access has no context (R322), and R318
names no port for one whose page lies on a host frame: it goes to host port 0 (DESIGN CHOICE, notes/assumptions 80). -/
def portOf (s : State) (ctx pa : Nat) : Nat :=
  if field pa 44 2 = 0 then (getCtx s ctx).hport else 4 + field pa 40 3

/-- The address sent to a port: a host bus address, or an offset into a peer's windows. -/
def portAddr (pa : Nat) : Nat := if field pa 44 2 = 0 then field pa 0 44 else field pa 0 40

/-- The key of a byte of host or peer memory. -/
def hostKey (port addr : Nat) : Nat := port * 2 ^ 64 + addr

/-- `n` bytes of host memory as the outside world holds it. -/
def hostBytes (s : State) (port addr n : Nat) : List Byte :=
  (rangeFrom addr n).map fun a => SMap.get s.host (hostKey port a) 0

/-- Host memory with bytes written. -/
def hostPut (s : State) (port addr : Nat) (l : List Byte) : State :=
  { s with host := (l.foldl (fun (acc : SMap Byte × Nat) v => (SMap.set acc.1 (hostKey port acc.2) v, acc.2 + 1))
      (s.host, addr)).1 }

/-- A saturating 16-bit count. -/
def sat16 (n : Nat) : Nat := min n 0xFFFF

/-- ERRS of a link or port rises (R317). -/
def raiseErrs (s : State) (l : Nat) : State := modLink s l fun k => { k with errs := sat16 (k.errs + 1) }

/-! ## Stranded lines (R362) -/

/-- Does a frozen entry of any core cover the line? Entries to host and peer frames mark nothing. -/
def stranded (s : State) (tag line : Nat) : Bool :=
  s.cores.any fun c => c.2.frozen.any fun e => e.tag == tag && e.line == line && paRegion e.frame != 3

/-! ## Fills (R223, R232) -/

/-- One block of a converting page delivered (R230, R232): `j` is its number in the page. -/
def deliverBlock (s : State) (payload : Nat) (a : Attr) (j : Nat) : List Nat :=
  match elemOfCode a.sf with
  | none => []
  | some t =>
    let bb := 4 * elemBits t
    let raw := memBytes s (payload + bb * j) bb
    let x := (memByte s (a.slot + j)).toNat
    let dt := match a.df with | 1 => Elem.fp32 | 2 => .bf16 | _ => .fp16
    (upTo 32).map fun i => deliver (dequant (packedElem raw t i) x t) dt

/-- The bytes of a delivered block. -/
def blockBytes (a : Attr) (v : List Nat) : List Byte := (v.map fun e => toBytes e (dsOf a)).flatten

/-- The blocks under a line of a converting page: one for FP32, two for 16-bit types (R232). -/
def lineBlocks (a : Attr) (lineInPage : Nat) : List Nat :=
  if a.df = 1 then [lineInPage] else [2 * lineInPage, 2 * lineInPage + 1]

/-- The physical byte ranges a line of a page reads: the line itself, or the stored blocks and their scales. -/
def lineSources (frame : Nat) (a : Attr) (lineInPage : Nat) : List (Nat × Nat) :=
  if a.df = 0 then [(frame + 128 * lineInPage, 128)]
  else match elemOfCode a.sf with
    | none => []
    | some t =>
      let bb := 4 * elemBits t
      (lineBlocks a lineInPage).flatMap fun j => [(frame + bb * j, bb), (a.slot + j, 1)]

/-- Is a source of the line poisoned (R364)? -/
def linePoisoned (s : State) (frame : Nat) (a : Attr) (lineInPage : Nat) : Bool :=
  (lineSources frame a lineInPage).any fun r => poisoned s r.1 r.2

/-- The bytes a line has below the caches: in DRAM, in bank memory, at a port, or delivered from stored blocks. -/
def belowLine (s : State) (ctx frame : Nat) (a : Attr) (lineInPage : Nat) : Line :=
  if a.df ≠ 0 then lineOf ((lineBlocks a lineInPage).flatMap fun j => blockBytes a (deliverBlock s frame a j))
  else if paRegion frame = 3 then
    lineOf (hostBytes s (portOf s ctx frame) (portAddr frame + 128 * lineInPage) 128)
  else lineOf (memBytes s (frame + 128 * lineInPage) 128)

/-- The set of a line in an L2 of 49,152 sets (R11): the spec gives no index, and the model takes the number of the line's virtual address modulo
the number of sets (notes/assumptions 9). -/
def l2Set (line : Nat) : Nat := line % 49152

/-- The quota of a way class (R88). -/
def quotaOf (v : Die) (cls : Nat) : Nat := nthD v.quota cls 16

/-- Remove the first line that a test picks. -/
def dropFirst (l : List CLine) (f : CLine → Bool) : List CLine :=
  match l with
  | [] => []
  | c :: r => if f c then r else c :: dropFirst r f

/-- The victim of a fill of class `cls` in a full set (R88 steps 2 and 3): a line of a class above its quota, else a line of
the same class; among these, one placed as next victim first (R258). -/
def victimOf (v : Die) (set : List CLine) (cls : Nat) : Option CLine :=
  let excess := set.filter fun c => (set.filter fun e => e.cls == c.cls).length > quotaOf v c.cls
  let cand := if excess.isEmpty then set.filter fun c => c.cls == cls else excess
  match cand.find? fun c => c.nt with
  | some c => some c
  | none => cand.getLast?

/-- The address of the physical line under a plain cached line. -/
def CLine.pa (c : CLine) : Nat := c.frame + c.line % 512 * 128

/-- A dirty line is written back to its recorded frame (R223). -/
def writeBack (s : State) (d : Nat) (c : CLine) : State := dramWrite s d c.ctx c.tag c.line c.pa c.dirty c.data

/-- A line enters a die's L2 where R88 gives it a way; the victim is written back. -/
def installL2 (s : State) (d : Nat) (c : CLine) : State :=
  let v := getDie s d
  let set := v.l2.filter fun e => l2Set e.line == l2Set c.line
  if set.length < 16 then setDie s d { v with l2 := c :: v.l2 }
  else match victimOf v set c.cls with
    | none => s
    | some q =>
      let s := writeBack s d q
      modDie s d fun v => { v with l2 := c :: dropFirst v.l2 (· == q) }

/-- A change to the L2 line of a die that a tag, number and generation name. -/
def modL2 (s : State) (d tag line gen : Nat) (f : CLine → CLine) : State :=
  modDie s d fun v => { v with l2 := v.l2.map fun c =>
    if c.tag == tag && c.line == line && c.gen == gen then f c else c }

/-- Why a line's sources cannot be read now: a stack that admits none, or not yet (R303), or no token (R87). Otherwise the state with its token
taken. One token serves a whole line, on a converting page with all its blocks and scales (notes/assumptions 53). -/
def admitSources (s : State) (r : Req) (d ctx : Nat) (charge : Bool) (l : List (Nat × Nat)) : Except Stop State :=
  match l with
  | [] => .ok s
  | (pa, _) :: rest =>
    let k := paStack pa
    if paRegion pa ≠ 0 then admitSources s r d ctx charge rest
    else if !passes s r k d (pa / 128) then .error (.wait (.held k d (pa / 128)))
    else
      let owner := (getStack s k).owner
      match if charge then takeToken s r ctx owner (pa / 128) else some s with
      | none => .error (.wait (.token owner ctx (pa / 128)))
      | some s => admitSources s r d ctx false rest

/-- Why a request from die `d` cannot go to a port: it has no route to the port's die (R14, R314), or the port is not up (R319). -/
def portStop (s : State) (d port va : Nat) : Option Stop :=
  if !reaches s d (portDie port) then some (.wait .route)
  else if !linkUp s (portLink port) then some (.fault { code := 8, va := va })
  else none

/-- A request to a port (R318, R319): done at once, or, where it goes out to a peer (R324) or the next access is to go out as messages, asked and
done with its completion. Answers whether the completion was good. -/
def portAsk (s : State) (r : Req) (d port addr va : Nat) (write : Bool) : Except Stop (Bool × State) :=
  let mine (q : PortAsk) : Bool := q.req == r && q.port == port && q.addr == addr && q.write == write
  match s.asks.find? mine with
  | some q =>
    if !q.done then .error (.wait (.ask port addr write))
    else .ok (q.ok, { s with asks := s.asks.filter fun x => !mine x })
  | none =>
    match portStop s d port va with
    | some x => .error x
    | none => if s.defer || port ≥ 4 then .error (.wait (.ask port addr write)) else .ok (true, s)

/-- A line at a port (R318, R319), as the outside world holds it when its completion is used. A completion that failed or timed out traps 0x08. -/
def portLine (s : State) (r : Req) (ctx : Nat) (t : Target) (write : Bool := false) : Except Stop (Line × State) :=
  let lp := t.pva / 128 % 512
  let port := portOf s ctx t.frame
  match portAsk s r t.home port (portAddr t.frame + 128 * lp) t.va write with
  | .error x => .error x
  | .ok (good, s) =>
    if good then .ok (belowLine s ctx t.frame t.attr lp, s) else .error (.fault { code := 8, va := t.va })

/-- A fill of a replicated line holds every write performed at its frame: the die has no update of them left to take (R251). -/
def caughtUp (s : State) (d tag line frame : Nat) : State :=
  { s with repls := (s.repls.map fun r =>
      if r.tag == tag && r.line == line && r.frame == frame then { r with dies := r.dies.filter (· != d) } else r).filter fun r => !r.dies.isEmpty }

/-- The line a target lies in, at its home: a hit of the home L2, or a fill of it. Bank memory and host frames are held by no
L2 (R229, R318). `charge` is false for host accesses, which are charged to no context (R322); `keep` is false for a request that a TINV or a
scrub has passed, which leaves no line behind and hits none of another frame (R74, R226). -/
def homeLine (s : State) (r : Req) (ctx : Nat) (charge nt : Bool) (t : Target) (keep : Bool := true) : Except Stop (Line × State) :=
  let line := t.va / 128
  match (findLine (getDie s t.home).l2 t.tag line t.gen).filter fun c => keep || c.frame == t.frame with
  | some c => .ok (c.data, s)
  | none =>
    if paRegion t.frame = 3 then portLine s r ctx t
    else
      let lp := t.pva / 128 % 512
      match admitSources s r t.home ctx charge (lineSources t.frame t.attr lp) with
      | .error e => .error e
      | .ok s =>
        let data := belowLine s ctx t.frame t.attr lp
        if paRegion t.frame = 0 ∧ keep then
          .ok (data, installL2 (if vaPlc t.va = 33 then caughtUp s t.home t.tag line t.frame else s) t.home
            { tag := t.tag, line := line, gen := t.gen, frame := t.frame, attr := t.attr,
              data := data, nt := nt, cls := (getCtx s ctx).wclass, level := t.level, ctx := ctx })
        else .ok (data, s)

/-! ## The store buffer (R239) -/

/-- Does a store-buffer entry hold bytes of the frame's line that a target lies in, of whatever generation it was bound to? -/
def SbEntry.sameFrame (e : SbEntry) (t : Target) : Bool :=
  e.tag == t.tag && e.frame == t.frame && e.line % 512 == t.pva / 128 % 512

/-- The entries of a core's store buffer that hold bytes of a line; where no window is armed any more, those bound to one that was are among
them (R239). -/
def sbLine (s : State) (core : Option Nat) (t : Target) : List SbEntry :=
  match core with
  | none => []
  | some c => (getCore s c).sb.filter fun e =>
    (e.tag == t.tag && e.line == t.va / 128 && e.gen == t.gen) || (t.gen == 0 && e.sameFrame t)

/-- A line with the store buffer's bytes over it, the newest entry last. -/
def overlay (l : Line) (es : List SbEntry) : Line := es.foldl (fun acc e => mergeLine acc e.data e.mask) l

/-- A line enters a core's L1 (R239); its capacity is the lent part of 512 KiB (R146). -/
def l1Capacity (s : State) (c : Nat) : Nat :=
  let held := ((getCore s c).slots.map fun v =>
    match getGroup s v.2.gid with | some g => (g.scratchSize + 16383) / 16384 | none => 0).sum
  (32 - held) * 128

/-- The lines left when one is replaced: the next victim, else the oldest. -/
def dropVictim (l : List CLine) : List CLine :=
  if l.any (·.nt) then dropFirst l (·.nt) else l.dropLast

/-- Is a line, by its number and the frame of its page, another's of the same tag, or of the same bytes of memory? -/
def sameLine (line frame line' frame' : Nat) : Bool := line == line' || (frame == frame' && line % 512 == line' % 512)

/-- Lines at ports that a core has asked for, and that `at_` picks by their address, enter no L1 when they come (R383). -/
def spoilAsks (s : State) (core : Nat) (at_ : Nat → Bool) : State :=
  if s.asks.isEmpty then s
  else { s with asks := s.asks.map fun q =>
      match q.req with
      | .agent a => if (envOf s a).core == some core && at_ q.addr then { q with install := false } else q
      | _ => q }

/-- A fill in flight to a core for a line, or for another of the same memory, installs nothing when it arrives (R383). -/
def spoilFills (s : State) (core tag line frame : Nat) : State :=
  spoilAsks { s with pends := s.pends.map fun p =>
      if p.core == core && p.tag == tag && sameLine (p.va / 128) p.frame line frame then { p with install := false } else p } core
    fun addr => paRegion frame == 3 && addr == portAddr frame + line % 512 * 128

/-- Does a store-buffer entry lie in a cached line? -/
def SbEntry.inLine (e : SbEntry) (l : CLine) : Bool := l.tag == e.tag && l.line == e.line && l.gen == e.gen

/-- L1 lines beyond the core's capacity go, but for those with an entry that is still in its store buffer (R146; notes/assumptions 18). -/
def trimL1 (s : State) (c : Nat) : State :=
  let cap := l1Capacity s c
  if (getCore s c).l1.length ≤ cap then s
  else modCore s c fun k => { k with l1 := k.l1.take cap ++ (k.l1.drop cap).filter fun l => k.sb.any fun e => e.inLine l }

/-- A line enters a core's L1, in the place of a victim where that is full; a fill of it that is still in flight installs nothing (R244). -/
def installL1 (s : State) (c : Nat) (n : CLine) : State :=
  let cap := l1Capacity s c
  modCore (spoilFills s c n.tag n.line n.frame) c fun k =>
    { k with l1 := n :: (if k.l1.length ≥ cap then dropVictim k.l1 else k.l1) }

/-- Poison and stranded data, checked after R224 on a read that reaches the home (R362, R364). -/
def dataFault (s : State) (t : Target) : Option AFault :=
  if stranded s t.tag (t.va / 128) then some { code := 9, va := t.va }
  else if linePoisoned s t.frame t.attr (t.pva / 128 % 512) then some { code := 8, va := t.va }
  else none

/-- How a load is served beyond its class. -/
structure LoadMode where
  /-- Allocates an L1 line on a miss (R258). -/
  install : Bool := true
  nt : Bool := false
  charge : Bool := true
  deriving DecidableEq, Repr

/-- Does a line that a read brings enter the L1 of its core: not where it was asked for at a port before an invalidation of the core's lines (R383)? -/
def mayInstall (s : State) (a : Acc) (t : Target) : Bool :=
  !(s.asks.any fun q => q.req == a.req && !q.install && paRegion t.frame == 3 && q.addr == portAddr t.frame + t.pva / 128 % 512 * 128)

/-- A read of a whole line's bytes under R239, for an access that lies in one line: the newest store-buffer bytes, then L1 for
an L1-served read, then the home. -/
def readLine (s : State) (a : Acc) (m : LoadMode) : Except Stop (Line × Target × State) :=
  match check s a with
  | .error e => .error e
  | .ok (t, s) =>
    let es := sbLine s a.core t
    if t.hitL1 then
      match findLine (coreLines s a) t.tag (t.va / 128) t.gen with
      | some c => .ok (overlay c.data es, t, s)
      | none => .error (.wait .regs)
    else
      match dataFault s t with
      | some f => .error (.fault f)
      | none =>
        let new := mayInstall s a t
        match homeLine s a.req a.ctx m.charge m.nt t with
        | .error e => .error e
        | .ok (l, s) =>
          let s := match a.core with
            | some c =>
              if new && a.l1 && m.install && a.kind != 2 then
                installL1 s c { tag := t.tag, line := t.va / 128, gen := t.gen, frame := t.frame, attr := t.attr,
                                data := overlay l es, nt := m.nt }
              else s
            | none => s
          .ok (overlay l es, t, s)

/-- The bytes of an access that lies in one line. -/
def readBytes (s : State) (a : Acc) (m : LoadMode) : Except Stop (List Byte × State) :=
  match readLine s a m with
  | .error e => .error e
  | .ok (l, _, s) => .ok (lineBytes l (a.va % 128) a.n, s)

/-- The pieces of a range that lie in one line each. -/
def pieces (va n : Nat) (fuel : Nat) : List (Nat × Nat) :=
  match fuel with
  | 0 => []
  | fuel + 1 =>
    if n = 0 then []
    else
      let k := min n (128 - va % 128)
      (va, k) :: pieces (va + k) (n - k) fuel

/-- The pieces of a range of any length. -/
def piecesOf (va n : Nat) : List (Nat × Nat) := pieces va n (n / 128 + 2)

/-- A read of a range, piece by piece in ascending order. -/
def readPieces (s : State) (a : Acc) (m : LoadMode) (l : List (Nat × Nat)) (out : List Byte) :
    Except Stop (List Byte × State) :=
  match l with
  | [] => .ok (out, s)
  | (va, n) :: r =>
    match readBytes s { a with va := va, n := n } m with
    | .error e => .error e
    | .ok (b, s) => readPieces s a m r (out ++ b)

/-- The checks of an access over a range, piece by piece: the first fault, or the targets (R293, R295). -/
def checkPieces (s : State) (a : Acc) (l : List (Nat × Nat)) (out : List (Target × Nat)) :
    Except Stop (List (Target × Nat) × State) :=
  match l with
  | [] => .ok (out, s)
  | (va, n) :: r =>
    match check s { a with va := va, n := n } with
    | .error e => .error e
    | .ok (t, s) => checkPieces s a r (out ++ [(t, n)])

/-- A read of `a.n` bytes from `a.va` on: every piece is checked before any is read, so that a later page's fault precedes an earlier line's
poison (R224, R293, R296). -/
def readRange (s : State) (a : Acc) (m : LoadMode) : Except Stop (List Byte × State) :=
  let l := piecesOf a.va a.n
  if l.length ≤ 1 then readPieces s a m l []
  else match checkPieces s a l [] with
    | .error e => .error e
    | .ok (_, s) => readPieces s a m l []

/-! ## Performing a write at its home (R228, R229, R233, R238) -/

/-- Bytes written at the home of a range of physical memory: what they cover is poisoned no more (R364). -/
def cleanRange (s : State) (pa n : Nat) : State :=
  (piecesOf pa n).foldl (fun s p => poisonWritten s (p.1 / 128) (maskOf (p.1 % 128) p.2)) s

/-- A block update of R233 on one block: the delivered values with the written bytes replaced, requantised, and the payload and
scale written. -/
def blockUpdate (s : State) (payload : Nat) (a : Attr) (j : Nat) (off : Nat) (bytes : List Byte) : State :=
  match elemOfCode a.sf with
  | none => s
  | some t =>
    let ds := dsOf a
    let bb := 4 * elemBits t
    let whole := off = 0 ∧ bytes.length = 32 * ds
    -- a poisoned block that must be read leaves the update undone (R364)
    if ¬ whole ∧ (poisoned s (payload + bb * j) bb || poisoned s (a.slot + j) 1) then s
    else
      let old := blockBytes a (deliverBlock s payload a j)
      let now := old.take off ++ bytes ++ old.drop (off + bytes.length)
      let dt := match a.df with | 1 => Elem.fp32 | 2 => .bf16 | _ => .fp16
      let v := (upTo 32).map fun i => decodeElem (ofBytes (sliceBytes now (ds * i) ds)) dt
      let x := deriveScale v t
      let s := cleanRange (memPut s (payload + bb * j) (packElems t (quantise v t x))) (payload + bb * j) bb
      cleanRange (memPut s (a.slot + j) [BitVec.ofNat 8 x]) (a.slot + j) 1

/-- The physical lines a plain write touches are no longer poisoned where it covers them (R364). -/
def notePoison (s : State) (pa : Nat) (m : LineMask) (bad : Bool) : State :=
  if bad then poisonLine s (pa / 128) else poisonWritten s (pa / 128) m

/-- The contiguous bytes of a mask: the first byte and their number. -/
def maskRange (m : LineMask) : Nat × Nat :=
  let bits := (upTo 128).filter fun i => m.getLsbD i
  match bits with
  | [] => (0, 0)
  | b :: _ => (b, bits.getLastD b + 1 - b)

/-- The L2 line of a converting page is refreshed from the stored blocks, where it is present (R233 step 6); a .nt store makes it the next
victim (R258). -/
def refreshLine (s : State) (d ctx tag line gen frame : Nat) (a : Attr) (lineInPage : Nat) (nt : Bool) : State :=
  modL2 s d tag line gen fun c => { c with data := belowLine s ctx frame a lineInPage, nt := c.nt || nt }

/-- What a performed write needs to know: where it goes and its bytes. -/
structure HomeWrite where
  req : Req
  who : Agent
  ctx : Nat
  tag : Nat
  line : Nat
  gen : Nat
  home : Nat
  frame : Nat
  attr : Attr
  mask : LineMask
  data : Line
  bad : Bool := false
  nt : Bool := false
  launch : Nat := 0
  /-- It may leave a line at its home, and goes to the line there whatever the frame: a TINV or a scrub has not passed its request (R74, R226). -/
  keep : Bool := true

/-- A write to a line of a converting page: one block update for each block it touches (R233). -/
def writeConv (s : State) (w : HomeWrite) : State :=
  let ds := dsOf w.attr
  let lp := w.line % 512
  let s := (lineBlocks w.attr lp).foldl (fun s j =>
    let base := (j * 32 * ds) % 128
    let m := (w.mask >>> base) &&& maskOf 0 (32 * ds)
    let (o, n) := maskRange m
    if n = 0 then s else blockUpdate s w.frame w.attr j o (lineBytes w.data (base + o) n)) s
  refreshLine s w.home w.ctx w.tag w.line w.gen w.frame w.attr lp w.nt

/-- A write under placement 33 (R228): to the frame and to the writer's own die's copy of it, which so takes every older update too and never
moves backwards (R251); then, with P = 0, every other die's copy is invalidated, and with P = 1 each is still to be updated. -/
def writeRepl (s : State) (w : HomeWrite) : State :=
  let pa := w.frame + w.line % 512 * 128
  let s := caughtUp (putMasked s pa w.mask w.data) w.home w.tag w.line w.frame
  let s := modL2 s w.home w.tag w.line w.gen fun c => if c.frame = w.frame then { c with data := lineOf (memBytes s pa 128), nt := c.nt || w.nt } else c
  let others := (upTo 16).filter (· != w.home)
  if w.attr.p then
    let (id, s) := fresh s
    { s with repls := s.repls ++ [{ id := id, who := w.who, launch := w.launch, frame := w.frame, tag := w.tag, line := w.line, mask := w.mask,
                                    data := w.data, dies := others }] }
  else others.foldl (fun s d => modDie s d fun v =>
    { v with l2 := v.l2.filter fun c => !(c.tag == w.tag && c.line == w.line) }) s

/-- Is the generation a write bound to still current for its line (R250)? -/
def genCurrent (s : State) (w : HomeWrite) : Bool :=
  w.gen == (viewOf s w.tag (w.line * 128)).gen

/-- Does a write land in a line of its home's L2: the line is there, and is the write's where a TINV has passed it (R226)? -/
def homeHit (s : State) (w : HomeWrite) : Bool :=
  ((findLine (getDie s w.home).l2 w.tag w.line w.gen).filter fun c => w.keep || c.frame == w.frame).isSome

/-- A write, admitted to DRAM where it hits no line, to a plain DRAM line of placement 0 to 15 or 32: it lands in the home L2 line, or, with no way
for it, bound to an older generation, or with a line there that is not its own, in its frame and in any line that holds it. -/
def writeL2 (s : State) (w : HomeWrite) : State :=
  let pa := w.frame + w.line % 512 * 128
  let put (c : CLine) : CLine :=
    { c with data := mergeLine c.data w.data w.mask, dirty := c.dirty ||| w.mask, nt := c.nt || w.nt, ctx := w.ctx }
  if !genCurrent s w || (!w.keep && !homeHit s w) then
    let s := putMasked s pa w.mask w.data
    modDie s w.home fun v => { v with l2 := v.l2.map fun c =>
      if c.pa == pa && c.attr.df == 0 && paRegion c.frame == 0 then { c with data := mergeLine c.data w.data w.mask } else c }
  else match findLine (getDie s w.home).l2 w.tag w.line w.gen with
    | some _ => modL2 s w.home w.tag w.line w.gen put
    | none =>
      let c : CLine := { tag := w.tag, line := w.line, gen := w.gen, frame := w.frame, attr := w.attr,
                         data := lineOf (memBytes s pa 128), cls := (getCtx s w.ctx).wclass }
      let s := installL2 s w.home c
      match findLine (getDie s w.home).l2 w.tag w.line w.gen with
      | some _ => modL2 s w.home w.tag w.line w.gen put
      | none => putMasked s pa w.mask w.data

/-- Does a request that waits with the windows of an earlier tick, under a context, read the window that a write goes to in another
generation (R250)? -/
def boundElse (s : State) (v : Option (List WinView)) (tags : List Nat) (w : HomeWrite) : Bool :=
  match v with
  | none => false
  | some l => tags.contains w.tag && (viewIn l w.tag (w.line * 128)).gen != w.gen && (viewOf s w.tag (w.line * 128)).gen != (viewIn l w.tag (w.line * 128)).gen

/-- Does a thread that waits so still read? Those that wait for stores, or before their accesses, do not. -/
def Wait.reads (w : Wait) : Bool :=
  match w with
  | .held _ _ _ | .token _ _ _ | .route | .ask _ _ _ => true
  | _ => false

/-- Is a thread in the middle of its instruction's reads, which are bound to the windows of an earlier tick: it waits so, or has waited and is to go
on? -/
def Thread.readsBound (t : Thread) : Bool :=
  t.view.isSome && match t.st with | .waiting x => x.reads | .ready | .fused => true | _ => false

/-- Is an agent other than the writer in the middle of its reads, with another generation of the window a write goes to? -/
def agentElse (s : State) (w : HomeWrite) (a : Agent) : Bool :=
  a != w.who &&
    match getThread s a with
    | some t => t.readsBound &&
        boundElse s t.view (if (envOf s a).onSextant then [w.tag] else relevantTags s (envOf s a).ctx) w
    | none => false

/-- Is a read under way that is bound to another generation of what a write goes to (R250): a request on its way, or one of a thread, of an engine,
or of a host or peer that waits? -/
def isolated (s : State) (w : HomeWrite) : Bool :=
  (s.pends.any fun p => p.frame == w.frame && p.tag == w.tag && p.gen != w.gen && !p.drop) ||
  (allAgents s).any (agentElse s w) ||
  (s.cores.any fun c => c.2.queues.any fun q =>
    w.who != .engine c.1 q.1 && boundElse s q.2.view (relevantTags s (envOf s (.engine c.1 q.1)).ctx) w) ||
  s.hostq.any fun q => w.req != .host q.id &&
    (match q.req with
      | .window (.write _ _ _) => false
      | .window _ => boundElse s (some q.view) [w.tag] w
      | _ => false)

/-- The bytes of a write land in host or peer memory. -/
def hostMasked (s : State) (w : HomeWrite) : State :=
  let base := portAddr w.frame + w.line % 512 * 128
  { s with host := (upTo 128).foldl (fun h i =>
      if w.mask.getLsbD i then SMap.set h (hostKey (portOf s w.ctx w.frame) (base + i)) (lineByte w.data i) else h) s.host }

/-- A write at a port (R318, R319): a store-buffer entry's is performed with the completion that ends it, any other's as `portAsk` has it. One to a
port that is not up, or whose completion fails, is discarded and ERRS rises. -/
def portWrite (s : State) (w : HomeWrite) : Except Stop State :=
  let port := portOf s w.ctx w.frame
  let va := w.line * 128
  let r := match w.req with
    | .entry _ _ => (match portStop s w.home port va with | some x => Except.error x | none => .ok (true, s))
    | r => portAsk s r w.home port (portAddr w.frame + w.line % 512 * 128) va true
  match r with
  | .error (.wait x) => .error (.wait x)
  | .error (.fault _) => .ok (raiseErrs s (portLink port))
  | .ok (good, s) => .ok (if good then hostMasked s w else s)

/-- A write is performed at its home. Why it cannot be: a read of another generation under way (R250), no route, a stack that admits none, or no
token. -/
def performWrite (s : State) (w : HomeWrite) (charge : Bool := true) : Except Stop State :=
  let lp := w.line % 512
  let pa := w.frame + lp * 128
  if isolated s w then .error (.wait .isolation)
  else if paRegion w.frame = 3 then portWrite s w
  else if paRegion w.frame = 1 then .ok (notePoison (putMasked s pa w.mask w.data) pa w.mask w.bad)
  else
    let hit := homeHit s w
    let src := if w.attr.df = 0 then [(pa, 128)] else lineSources w.frame w.attr lp
    let adm := if hit && w.attr.df == 0 && vaPlc (w.line * 128) != 33 && genCurrent s w then .ok s
      else admitSources s w.req w.home w.ctx charge src
    match adm with
    | .error x => .error x
    | .ok s =>
      if w.attr.df ≠ 0 then
        .ok ((lineSources w.frame w.attr lp).foldl (fun s r => if w.bad then poisonLine s (r.1 / 128) else s) (writeConv s w))
      else if vaPlc (w.line * 128) = 33 then .ok (notePoison (writeRepl s w) pa w.mask w.bad)
      else .ok (notePoison (writeL2 s w) pa w.mask w.bad)

/-- The write of a store-buffer entry. -/
def SbEntry.write (e : SbEntry) (core : Nat) : HomeWrite :=
  { req := .entry core e.id, who := e.who, ctx := e.ctx, tag := e.tag, line := e.line, gen := e.gen, home := e.home, frame := e.frame,
    attr := e.attr, mask := e.mask, data := e.data, bad := e.bad, nt := e.nt, launch := e.launch, keep := !e.stale }

/-! ## Stores (R239) -/

/-- The threads of a core that wait for its store buffer and may now go on. -/
def drainMet (s : State) (core bound : Nat) : Bool :=
  (getCore s core).sb.all (fun e => e.id ≥ bound)

/-- Do two store-buffer entries lie in one line? -/
def SbEntry.onLine (x e : SbEntry) : Bool := x.tag == e.tag && sameLine x.line x.frame e.line e.frame

/-- May a store-buffer entry be performed now (R233, R239, R314)? Its write is not under way already, there is a route, and no older
entry of the core for the line (R244), or of its thread on converting pages for any, and no earlier load of its thread is left. -/
def entryReady (s : State) (core : Nat) (e : SbEntry) : Bool :=
  !e.sent && reaches s (dieOf core) e.home &&
    !((getCore s core).sb.any fun x => x.id < e.id && (x.onLine e || (x.who == e.who && x.attr.df != 0 && e.attr.df != 0))) &&
    !(s.pends.any fun p => p.who == e.who && p.id < e.id && !p.drop &&
        (!(p.atomic && p.d == 0) || (p.tag == e.tag && sameLine (p.va / 128) p.frame e.line e.frame)))

/-- An entry leaves the store buffer: it is performed. A fill of its line in flight to the core installs nothing (R244), and an L1 line that it kept
beyond the core's capacity goes (R146). -/
def dropEntry (s : State) (core : Nat) (e : SbEntry) : State :=
  trimL1 (spoilFills (modCore s core fun k => { k with sb := k.sb.filter fun x => x.id != e.id }) core e.tag e.line e.frame) core

/-- Has a store-buffer entry to go out at a peer port, whose answer performs it (R318, R324)? -/
def entryLeaves (s : State) (e : SbEntry) : Bool :=
  paRegion e.frame == 3 && portOf s e.ctx e.frame ≥ 4 && (portStop s e.home (portOf s e.ctx e.frame) 0).isNone

/-- A store-buffer entry goes out at its port; it leaves the buffer when the answer comes. -/
def sendEntryPort (s : State) (core : Nat) (e : SbEntry) : State :=
  sendPort (modCore s core fun k => { k with sb := k.sb.map fun y => if y.id = e.id then { y with sent := true } else y })
    (portOf s e.ctx e.frame) e.id

/-- A store-buffer entry is performed at its home and leaves, or why it cannot be; none of the reasons is a fault. -/
def performEntry (s : State) (core : Nat) (e : SbEntry) : Except Stop State :=
  if !entryReady s core e || entryLeaves s e then .error (.wait .regs)
  else match performWrite s (e.write core) with
    | .error x => .error x
    | .ok s => .ok (leaveReq (dropEntry s core e) fun r => r == .entry core e.id)

/-- The state after an attempt that may have to wait. -/
def orElse (r : Except Stop State) (s : State) : State := match r with | .ok s' => s' | .error _ => s

/-- An entry is performed, or takes its place where it has to wait; one that is not ready waits at no controller. -/
def drainEntry (s : State) (core : Nat) (e : SbEntry) : State :=
  let r : Req := .entry core e.id
  if entryReady s core e && entryLeaves s e then sendEntryPort s core e
  else match performEntry s core e with
  | .ok s => s
  | .error (.wait w) =>
    match w with
    | .held _ _ _ | .token _ _ _ => joinWait s r w
    | _ => if waitsAt s fun q => q == r then leaveReq s fun q => q == r else s
  | .error (.fault _) => s

/-- A full store buffer makes room: the oldest entry that can be is performed; `none` while none can. -/
def makeRoom (s : State) (core : Nat) (l : List SbEntry) : Option State :=
  match l with
  | [] => none
  | e :: r => match performEntry s core e with
    | .ok s => some s
    | .error _ => makeRoom s core r

/-- The store-buffer entry of a store. -/
def sbEntryOf (s : State) (e : Env) (t : Target) (bytes : List Byte) (nt : Bool) (id : Nat) : SbEntry :=
  let o := t.va % 128
  { id := id, who := e.who, ctx := e.ctx, launch := (e.group s).launch,
    slotTid := (if e.inGroup then (sliceOf (e.group s) e.rank).2 * 16384 + e.tid else e.tid), tag := t.tag,
    line := t.va / 128, gen := t.gen, home := t.home, frame := t.frame, attr := t.attr, mask := maskOf o bytes.length,
    data := placeBytes o bytes, nt := nt }

/-- An entry joins a store buffer and updates a present L1 line at once. -/
def bufferEntry (s : State) (c : Nat) (ent : SbEntry) : State :=
  modCore s c fun k =>
    { k with
      sb := k.sb ++ [ent],
      l1 := k.l1.map fun l =>
        if l.tag == ent.tag && l.line == ent.line && l.gen == ent.gen then { l with data := mergeLine l.data ent.data ent.mask }
        else l }

/-- A store retires into the core's store buffer and updates a present L1 line at once (R239, R385). A buffer of 64 entries makes
room first. A sextant core has no store buffer in R238's table; its stores are performed at once. -/
def pushEntry (s : State) (e : Env) (ent : SbEntry) : Except Stop State :=
  match e.core with
  | none => performWrite s { ent.write 640 with req := .agent e.who }
  | some c =>
    if (getCore s c).sb.length < 64 then .ok (bufferEntry s c ent)
    else match makeRoom s c (getCore s c).sb with
      | some s => .ok (bufferEntry s c ent)
      | none => .error (.wait (.drain (((getCore s c).sb.head?.map (·.id)).getD 0 + 1)))

/-- A store of bytes to a checked target. -/
def pushStore (s : State) (e : Env) (t : Target) (bytes : List Byte) (nt : Bool) : Except Stop State :=
  let (id, s) := fresh s
  pushEntry s e (sbEntryOf s e t bytes nt id)

/-- Stores to checked targets, in ascending order. -/
def pushPieces (s : State) (e : Env) (l : List (Target × Nat)) (bytes : List Byte) (nt : Bool) : Except Stop State :=
  match l with
  | [] => .ok s
  | (t, n) :: r =>
    match pushStore s e t (bytes.take n) nt with
    | .error x => .error x
    | .ok s => pushPieces s e r (bytes.drop n) nt

/-- The entries of stores to checked targets, in ascending order; they get their identities when they enter the buffer. -/
def entriesOf (s : State) (e : Env) (l : List (Target × Nat)) (bytes : List Byte) (nt : Bool) : List SbEntry :=
  match l with
  | [] => []
  | (t, n) :: r => sbEntryOf s e t (bytes.take n) nt 0 :: entriesOf s e r (bytes.drop n) nt

/-- Entries enter the store buffer in their order, as far as there is room: the state, those left, and why the first of them has to wait. -/
def pushEntries (s : State) (e : Env) (l : List SbEntry) : State × List SbEntry × Stop :=
  match l with
  | [] => (s, [], .wait .regs)
  | x :: r =>
    let (id, s') := fresh s
    match pushEntry s' e { x with id := id } with
    | .ok s' => pushEntries s' e r
    | .error p => (s, x :: r, p)

/-- The bytes of an entry. -/
def SbEntry.count (x : SbEntry) : Nat := (maskRange x.mask).2

/-- Entries with their bytes taken anew, in order. -/
def refill (l : List SbEntry) (b : List Byte) : List SbEntry :=
  match l with
  | [] => []
  | x :: r => { x with data := placeBytes (maskRange x.mask).1 (b.take x.count) } :: refill r (b.drop x.count)

/-- An instruction puts its checked stores into the store buffer; what there is no room for yet stays with the thread, which waits. -/
def storeAll (s : State) (e : Env) (l : List SbEntry) (k : State → State) : State :=
  match pushEntries s e l with
  | (s, [], _) => k s
  | (s, left, p) => takeStop (modThread s e.who fun u => { u with stores := left }) e.who p

/-! ## Operations at a home in one step (R252, R263) -/

/-- Entries are performed in order; `none` while one cannot be. -/
def flushOwn (s : State) (core : Nat) (l : List SbEntry) : Option State :=
  match l with
  | [] => some s
  | e :: r =>
    match performEntry s core e with
    | .error _ => none
    | .ok s => flushOwn s core r

/-- Own entries on the target's line, of whatever generation, performed first, and with them the older ones of other threads there (R244). -/
def flushTarget (s : State) (e : Env) (t : Target) : Option State :=
  match e.core with
  | none => some s
  | some c =>
    let l := (getCore s c).sb.filter fun x => (x.tag == t.tag && x.line == t.va / 128 && x.gen == t.gen) || x.sameFrame t
    flushOwn s c (l.filter fun x => l.any fun y => y.who == e.who && x.id ≤ y.id)

/-- The core drops its L1 line of an address, by whatever page of its frame, and a fill in flight for it installs nothing (R263, R383). -/
def dropL1Line (s : State) (core : Option Nat) (tag line frame : Nat) : State :=
  match core with
  | none => s
  | some c =>
    spoilFills (modCore s c fun k => { k with l1 := k.l1.filter fun l => !(l.tag == tag && sameLine l.line l.frame line frame) }) c tag line
      frame

/-- The die's copy of a replicated line takes every update it still lacks: it is what its frame holds (R251). A copy of another frame is none of it. -/
def freshCopy (s : State) (t : Target) (l : Line) : State :=
  modL2 (caughtUp s t.home t.tag (t.va / 128) t.frame) t.home t.tag (t.va / 128) t.gen fun c => if c.frame = t.frame then { c with data := l } else c

/-- The line an update at the home reads: under placement 33 the frame, which is the home (R238), and whose bytes the die's copy then holds, so that
no later read there is older (R244); at a port what the request brings back (R320); else as a fill does. -/
def updateLine (s : State) (r : Req) (ctx : Nat) (charge : Bool) (t : Target) (keep : Bool) : Except Stop (Line × State) :=
  if paRegion t.frame = 3 then portLine s r ctx t true
  else if vaPlc t.va = 33 then
    match admitSources s r t.home ctx charge (lineSources t.frame t.attr (t.pva / 128 % 512)) with
    | .error e => .error e
    | .ok s =>
      let l := belowLine s ctx t.frame t.attr (t.pva / 128 % 512)
      .ok (l, freshCopy s t l)
  else homeLine s r ctx charge false t keep

/-- What an update at the home writes: at a port with the read, else as any write. -/
def updateWrite (s : State) (w : HomeWrite) : Except Stop State :=
  if paRegion w.frame = 3 then .ok (hostMasked s w) else performWrite s w false

/-- A read and a write at the home as one step: `f` gives the new bytes, or none to write nothing. Answers the old bytes. The step takes one
token (notes/assumptions 53). -/
def homeUpdate (s : State) (r : Req) (who : Agent) (ctx : Nat) (charge : Bool) (t : Target) (n : Nat)
    (f : List Byte → Option (List Byte)) (keep : Bool := true) (launch : Nat := 0) : Except Stop (List Byte × State) :=
  match updateLine s r ctx charge t keep with
  | .error e => .error e
  | .ok (l, s) =>
    let o := t.va % 128
    let old := lineBytes l o n
    match f old with
    | none => .ok (old, s)
    | some new =>
      let w : HomeWrite :=
        { req := r, who := who, ctx := ctx, tag := t.tag, line := t.va / 128, gen := t.gen, home := t.home, frame := t.frame,
          attr := t.attr, mask := maskOf o n, data := placeBytes o new, keep := keep, launch := launch }
      match updateWrite s w with
      | .ok s => .ok (old, s)
      | .error e => .error e

/-- The new value of an atomic (R262) on `w` bits; none where CAS writes nothing. -/
def atomicNew (op : AtomOp) (w : Nat) (old b c : Nat) : Option Nat :=
  let sgn (v : Nat) : Int := signExt v w
  match op with
  | .add => some ((old + b) % 2 ^ w)
  | .min => some (if sgn b < sgn old then b else old)
  | .max => some (if sgn old < sgn b then b else old)
  | .umin => some (min old b)
  | .umax => some (max old b)
  | .and => some (old &&& b)
  | .or => some (old ||| b)
  | .xor => some (old ^^^ b)
  | .exch => some b
  | .cas => if old = b then some c else none
  | .fadd => some (roundF ((decodeElem old .fp32).add (decodeElem b .fp32) .rne) .fp32 .rne)
  | .fmax => some (maxNum old b .fp32)
  | .incw => some (if old ≥ b then 0 else old + 1)

/-- Does a host port carry the operation (R320)? Peers carry every one. -/
def portCarries (red : Bool) (op : AtomOp) : Bool :=
  match op with
  | .add => true
  | .exch | .cas => !red
  | _ => false

/-- The bytes-level function of an atomic. -/
def atomicBytes (op : AtomOp) (n b c : Nat) (old : List Byte) : Option (List Byte) :=
  (atomicNew op (8 * n) (ofBytes old) b c).map fun v => toBytes v n

/-! ## Invalidation (R241, R383) -/

/-- A core's L1 lines that a test picks are dropped, and fills in flight for such lines install nothing (R383). -/
def dropL1 (s : State) (c : Nat) (f : Nat → Nat → Bool) : State :=
  let s := spoilAsks (modCore s c fun k => { k with l1 := k.l1.filter fun l => !f l.tag l.line }) c fun _ => true
  { s with pends := s.pends.map fun p => if p.core == c && f p.tag (p.va / 128) then { p with install := false } else p }

/-- The acquire of R241 at die scope or wider: the core's L1 lines of the thread's relevant tags go. At narrower scopes nothing
is done to L1. Group scope acts as die where the group spans cores. -/
def wideScope (s : State) (e : Env) (scope : Nat) : Bool :=
  scope ≥ 3 || (scope = 1 && (e.group s).slices.length > 1)

def acquire (s : State) (e : Env) (scope : Nat) : State :=
  if wideScope s e scope then
    match e.core with
    | some c => dropL1 s c fun tag _ => tagRelevant s e tag
    | none => s
  else s

/-- Has a release at a scope nothing left to wait for (R241)? The thread's loads and atomics have returned; at die scope and
wider every entry of the core's store buffer older than the bound is performed; at device scope and wider every P = 1
replicated write of the thread has reached every copy. -/
def releaseDone (s : State) (e : Env) (scope bound : Nat) : Bool :=
  !(s.pends.any fun p => p.who == e.who && !p.drop) &&
    (!wideScope s e scope ||
      ((match e.core with | some c => drainMet s c bound | none => true) &&
       (scope < 4 || !(s.repls.any fun r => r.who == e.who))))

/-- A release at a scope, then the rest of the instruction: where its wait is not over the thread waits, keeping the bound of
its first attempt. Where the instruction acts in the order of the tids of its bundle, the higher threads wait behind it (R164; notes/assumptions
58). -/
def releaseThen (s : State) (e : Env) (t : Thread) (scope : Nat) (k : State → State) : State :=
  let bound := t.relBound.getD s.uid
  if scope = 0 || releaseDone s e scope bound then k s
  else waitAt (setThread s e.who { t with relBound := some bound }) e.who (.drain bound)

end Sys2Proof.Machine
end

