-- ==== Sys2Proof/Machine/Operands.lean ====
section
/-!
DEFINITION. The operand forms the families share: operands that a MOD bit takes from a uniform register (R32, R34, R179), the
shapes of a result computed from them, and the accesses a thread makes.
-/

namespace Sys2Proof.Machine

/-! ## Uniform selects -/

/-- The need of an operand that a select bit takes from k. -/
def needSel (k : Bool) (r : RegNo) : Need := if k then .kx r else .sx r
def needSelPair (k : Bool) (r : RegNo) : Need := if k then .kp r else .sp r

/-- The value of an operand that a select bit takes from k. -/
def selX (s : State) (e : Env) (t : Thread) (k : Bool) (r : RegNo) : Word :=
  if k then readK s e r.toNat else readX t r.toNat
def selPair (s : State) (e : Env) (t : Thread) (k : Bool) (r : RegNo) : DWord :=
  if k then readKPair s e r.toNat else readPair t r.toNat

/-- MOD[7] selects k for A, MOD[6] for B (R32). -/
def kA (o : OpR) : Bool := o.mod.getLsbD 7
def kB (o : OpR) : Bool := o.mod.getLsbD 6

/-! ## Register-to-register shapes -/

/-- An instruction that writes x[D] from operands it names. -/
def regOp (s : State) (g : GuardF) (d : RegNo) (needs : List Need) (f : Env → Thread → Word) :
    Host.Outcome State Fault Refusal :=
  issue s g {} (.dx d :: needs) fun e t => retire s e (writeX t d.toNat (f e t))

/-- An instruction that writes the pair x[D]. -/
def pairOp (s : State) (g : GuardF) (d : RegNo) (needs : List Need) (f : Env → Thread → DWord) :
    Host.Outcome State Fault Refusal :=
  issue s g {} (.dp d :: needs) fun e t => retire s e (writePair t d.toNat (f e t))

/-- An instruction that writes p[D]. -/
def predOp (s : State) (g : GuardF) (d : RegNo) (needs : List Need) (f : Env → Thread → Bool) :
    Host.Outcome State Fault Refusal :=
  issue s g {} (.pr d :: needs) fun e t => retire s e (writeP t d.toNat (f e t))

/-- x[D] from A alone, with the k select of MOD[7]. -/
def intOp1 (s : State) (o : OpR) (f : Word → Word) : Host.Outcome State Fault Refusal :=
  regOp s o.g o.d [needSel (kA o) o.a] fun e t => f (selX s e t (kA o) o.a)

/-- x[D] from A and B, with the k selects of R32. -/
def intOp2 (s : State) (o : OpR) (f : Word → Word → Word) : Host.Outcome State Fault Refusal :=
  regOp s o.g o.d [needSel (kA o) o.a, needSel (kB o) o.b] fun e t => f (selX s e t (kA o) o.a) (selX s e t (kB o) o.b)

/-- x[D] from A, B and C, C an x register. -/
def intOp3 (s : State) (o : OpR) (f : Word → Word → Word → Word) : Host.Outcome State Fault Refusal :=
  regOp s o.g o.d [needSel (kA o) o.a, needSel (kB o) o.b, .sx o.c] fun e t =>
    f (selX s e t (kA o) o.a) (selX s e t (kB o) o.b) (readX t o.c.toNat)

/-- x[D] from x registers A, B and C, with no k selects (BLUT). -/
def plainOp3 (s : State) (o : OpR) (f : Word → Word → Word → Word) : Host.Outcome State Fault Refusal :=
  regOp s o.g o.d [.sx o.a, .sx o.b, .sx o.c] fun _ t => f (readX t o.a.toNat) (readX t o.b.toNat) (readX t o.c.toNat)

/-- x[D] from x registers A and B, with no k selects. -/
def plainOp2 (s : State) (o : OpR) (f : Word → Word → Word) : Host.Outcome State Fault Refusal :=
  regOp s o.g o.d [.sx o.a, .sx o.b] fun _ t => f (readX t o.a.toNat) (readX t o.b.toNat)

/-- x[D] from x[A] and the immediate (R169). -/
def immOp (s : State) (o : OpI) (f : Word → Word → Word) : Host.Outcome State Fault Refusal :=
  regOp s o.g o.d [.sx o.a] fun _ t => f (readX t o.a.toNat) o.imm

/-- The pair x[D] from two pairs, with the k selects of R32 (R174). -/
def addrOp2 (s : State) (o : OpR) (f : DWord → DWord → DWord) : Host.Outcome State Fault Refusal :=
  pairOp s o.g o.d [needSelPair (kA o) o.a, needSelPair (kB o) o.b] fun e t =>
    f (selPair s e t (kA o) o.a) (selPair s e t (kB o) o.b)

/-- The pair x[D] from the pair A and the single register B (R174). -/
def addrOp1 (s : State) (o : OpR) (f : DWord → Word → DWord) : Host.Outcome State Fault Refusal :=
  pairOp s o.g o.d [needSelPair (kA o) o.a, needSel (kB o) o.b] fun e t => f (selPair s e t (kA o) o.a) (selX s e t (kB o) o.b)

/-! ## Float shapes (R179) -/

/-- The prepared encodings of A, B and C. -/
def fltA (s : State) (e : Env) (t : Thread) (o : OpR) : Word := prepA o.mod (selX s e t (kA o) o.a)
def fltB (t : Thread) (o : OpR) : Word := prepNeg o.mod 5 (readX t o.b.toNat)
def fltC (t : Thread) (o : OpR) : Word := prepNeg o.mod 6 (readX t o.c.toNat)

/-- x[D] from the prepared A. -/
def fltOp1 (s : State) (o : OpR) (f : Word → Word) : Host.Outcome State Fault Refusal :=
  regOp s o.g o.d [needSel (kA o) o.a] fun e t => f (fltA s e t o)

/-- x[D] from the prepared A and B. -/
def fltOp2 (s : State) (o : OpR) (f : Word → Word → Word) : Host.Outcome State Fault Refusal :=
  regOp s o.g o.d [needSel (kA o) o.a, .sx o.b] fun e t => f (fltA s e t o) (fltB t o)

/-- x[D] from the prepared A, B and C. -/
def fltOp3 (s : State) (o : OpR) (f : Word → Word → Word → Word) : Host.Outcome State Fault Refusal :=
  regOp s o.g o.d [needSel (kA o) o.a, .sx o.b, .sx o.c] fun e t => f (fltA s e t o) (fltB t o) (fltC t o)

end Sys2Proof.Machine
end

