-- ==== Sys2Proof/WellFormed.lean ====
section
/-!
DEFINITION. Well-formed instructions: the checks of 02_encoding R22 step 2 that a word's own bits decide. A guard of PI 7
with PN 1 (R21), a nonzero reserved field or MOD bit (R24) and a reserved code (R33 to R39 and the entries) make a word
illegal. The steps of the device have no encoding and are well formed as they stand.
-/

namespace Sys2Proof

/-- R21: PI = 7 with PN = 1 is reserved. -/
def GuardF.ok (g : GuardF) : Bool := !(g.pn && g.pi == 7)

/-- A field that the entry does not name holds zero (R24). -/
def unusedOk (used : Bool) (f : RegNo) : Bool := used || f == 0

/-- The MOD bits outside the entry's mask are zero (R24). -/
def modOk (mod mask : BitVec 8) : Bool := mod &&& ~~~mask == 0

/-- The reserved fields of an R-format word: which of D, A, B, C the entry names, and its MOD bits. -/
def OpR.resOk (o : OpR) (d a b c : Bool) (mask : BitVec 8) : Bool :=
  unusedOk d o.d && unusedOk a o.a && unusedOk b o.b && unusedOk c o.c && modOk o.mod mask

/-- The same for a word with a scope in FN[11:8]. -/
def OpS.resOk (o : OpS) (d a b : Bool) (mask : BitVec 8) : Bool :=
  unusedOk d o.d && unusedOk a o.a && unusedOk b o.b && modOk o.mod mask

/-- The same for an E-format word. -/
def OpE.resOk (o : OpE) (d a b : Bool) (mask : BitVec 8) : Bool :=
  unusedOk d o.d && unusedOk a o.a && unusedOk b o.b && modOk o.mod mask

/-- An element type code (R38): 11 and above are reserved. -/
def typeCodeOk (n : Nat) : Bool := n ≤ 10

/-- A pair of order and scope codes: relaxed with scope 0, any other order with scope 1 to 5 (R36, R190, R268, R293). -/
def orderScopeOk (order scope : Nat) : Bool :=
  if order = 0 then scope == 0 else 1 ≤ scope && scope ≤ 5

/-- Bits [hi:lo] of MOD as a number. -/
def modField (mod : BitVec 8) (lo n : Nat) : Nat := (mod.toNat >>> lo) % 2 ^ n

/-- The codes of an M-format word (R36, R256). -/
def OpM.codesOk (o : OpM) (store scratch : Bool) : Bool :=
  let width := modField o.mod 0 3
  let cache := modField o.mod 3 2
  let order := modField o.mod 5 2
  width != 7 && cache != 3 && order != 3 && (order == 0 || order == (if store then 2 else 1)) &&
    (!store || width ≤ 4) && orderScopeOk order o.scope.toNat && (!scratch || cache == 0)

/-- The codes of ATOM and RED (R37, R261, R263). -/
def OpA.codesOk (o : OpA) (red : Bool) : Bool :=
  let width := modField o.mod 0 3
  let order := modField o.mod 5 2
  let narrow := o.op == .fadd || o.op == .fmax || o.op == .incw
  1 ≤ o.scope.toNat && o.scope.toNat ≤ 5 && (width == 2 || (width == 3 && !narrow)) && modField o.mod 3 2 ≤ 1 &&
    (!red || ((order == 0 || order == 2) && o.op != .exch && o.op != .cas))

/-- The type codes of a T-format word (R38). -/
def OpT.codesOk (o : OpT) : Bool := typeCodeOk o.ea.toNat && typeCodeOk o.eb.toNat && typeCodeOk o.acc.toNat

/-- The guard of an instruction; a step of the device has none. -/
def Instr.guard? (i : Instr) : Option GuardF :=
  match i with
  | .nop o => some o.g
  | .bra o => some o.g
  | .call o => some o.g
  | .brx o => some o.g
  | .callx o => some o.g
  | .ret o => some o.g
  | .exit_ o => some o.g
  | .yield o => some o.g
  | .trap o => some o.g
  | .brk o => some o.g
  | .sleep o => some o.g
  | .movi o => some o.g
  | .movih o => some o.g
  | .iaddi o => some o.g
  | .imuli o => some o.g
  | .andi o => some o.g
  | .ori o => some o.g
  | .xori o => some o.g
  | .shli o => some o.g
  | .shri o => some o.g
  | .sari o => some o.g
  | .aaddi o => some o.g
  | .iadd o => some o.g
  | .isub o => some o.g
  | .imul o => some o.g
  | .imulh o => some o.g
  | .imulhu o => some o.g
  | .imad o => some o.g
  | .imin o => some o.g
  | .imax o => some o.g
  | .umin o => some o.g
  | .umax o => some o.g
  | .iabs o => some o.g
  | .iadds o => some o.g
  | .isubs o => some o.g
  | .idiv o => some o.g
  | .udiv o => some o.g
  | .irem o => some o.g
  | .urem o => some o.g
  | .dp4a o => some o.g
  | .dp4au o => some o.g
  | .and_ o => some o.g
  | .or_ o => some o.g
  | .xor_ o => some o.g
  | .andn o => some o.g
  | .blut o => some o.g
  | .shl o => some o.g
  | .shr_ o => some o.g
  | .sar o => some o.g
  | .rol o => some o.g
  | .bfe o => some o.g
  | .bfeu o => some o.g
  | .bfi o => some o.g
  | .popc o => some o.g
  | .clz o => some o.g
  | .brev o => some o.g
  | .bshuf o => some o.g
  | .icmp o => some o.g
  | .icmpm o => some o.g
  | .sel o => some o.g
  | .plut o => some o.g
  | .pgat o => some o.g
  | .pscat o => some o.g
  | .aadd o => some o.g
  | .asub o => some o.g
  | .acmp o => some o.g
  | .shl64 o => some o.g
  | .shr64 o => some o.g
  | .iadd64 o => some o.g
  | .imul64 o => some o.g
  | .amov o => some o.g
  | .fadd o => some o.g
  | .fsub o => some o.g
  | .fmul o => some o.g
  | .ffma o => some o.g
  | .fmin o => some o.g
  | .fmax o => some o.g
  | .fsetp o => some o.g
  | .fset o => some o.g
  | .fdiv o => some o.g
  | .fsqrt o => some o.g
  | .frnd o => some o.g
  | .hadd2 o => some o.g
  | .hmul2 o => some o.g
  | .hfma2 o => some o.g
  | .hmin2 o => some o.g
  | .hmax2 o => some o.g
  | .hsetp2 o => some o.g
  | .hdot2 o => some o.g
  | .frcp o => some o.g
  | .frsq o => some o.g
  | .fexp2 o => some o.g
  | .flog2 o => some o.g
  | .fsin o => some o.g
  | .fcos o => some o.g
  | .ftanh o => some o.g
  | .f2i o => some o.g
  | .f2u o => some o.g
  | .i2f o => some o.g
  | .u2f o => some o.g
  | .f2h o => some o.g
  | .h2f o => some o.g
  | .cvtq o => some o.g
  | .cvtd o => some o.g
  | .xscale o => some o.g
  | .mov o => some o.g
  | .sread o => some o.g
  | .kput o => some o.g
  | .kget o => some o.g
  | .tumb o => some o.g
  | .xshf o => some o.g
  | .xred o => some o.g
  | .xscn o => some o.g
  | .xbal o => some o.g
  | .xvote o => some o.g
  | .bari o => some o.g
  | .bara o => some o.g
  | .barw o => some o.g
  | .bars o => some o.g
  | .semi o => some o.g
  | .sems o => some o.g
  | .semw o => some o.g
  | .semr o => some o.g
  | .ld o => some o.g
  | .st o => some o.g
  | .ldsc o => some o.g
  | .stsc o => some o.g
  | .atom o => some o.g
  | .red_ o => some o.g
  | .fence o => some o.g
  | .fprom o => some o.g
  | .cinv o => some o.g
  | .cwb o => some o.g
  | .bkvaddf o => some o.g
  | .bkvaddi o => some o.g
  | .bkvmaxf o => some o.g
  | .bkvmaxa o => some o.g
  | .bkvaddh o => some o.g
  | .bkred o => some o.g
  | .sharm o => some o.g
  | .shpub o => some o.g
  | .shdrop o => some o.g
  | .shstat o => some o.g
  | .enq o => some o.g
  | .tplw o => some o.g
  | .qstat o => some o.g
  | .qwait o => some o.g
  | .qpop o => some o.g
  | .qpush o => some o.g
  | .tcfg o => some o.g
  | .tcfgr o => some o.g
  | .tzero o => some o.g
  | .tget o => some o.g
  | .tset o => some o.g
  | .tmma o => some o.g
  | .tcvt o => some o.g
  | .tadd o => some o.g
  | .tld o => some o.g
  | .tst o => some o.g
  | .tdrain o => some o.g
  | .tfill o => some o.g
  | .sample o => some o.g
  | .imld o => some o.g
  | .imst o => some o.g
  | .trace o => some o.g
  | .tlist o => some o.g
  | .launch o => some o.g
  | .cancel o => some o.g
  | .cntrRd o => some o.g
  | .cntrAdd o => some o.g
  | .phaseRd o => some o.g
  | .phaseNext o => some o.g
  | .idemOff o => some o.g
  | .idemOn o => some o.g
  | .csrr o => some o.g
  | .csrw o => some o.g
  | .eret o => some o.g
  | .eretExit o => some o.g
  | .halt o => some o.g
  | .haltRel o => some o.g
  | .beat o => some o.g
  | .hinge o => some o.g
  | .captGroup o => some o.g
  | .captCore o => some o.g
  | .captResume o => some o.g
  | .tinvInv o => some o.g
  | .tinvRetry o => some o.g
  | .tinvFail o => some o.g
  | _ => none

/-- No reserved field and no reserved MOD bit is nonzero (R24, R32 to R39 and the entries). AMOV, whose B is reserved, reserves MOD[6] with it
(R174; notes/assumptions 61). -/
def Instr.reservedOk (i : Instr) : Bool :=
  match i with
  | .nop o => o.resOk false false false false 0x00
  | .bra o => o.d == 0
  | .brx o => o.resOk false true false false 0x00
  | .callx o => o.resOk true true false false 0x00
  | .ret o => o.resOk false true false false 0x00
  | .exit_ o => o.resOk false false false false 0x00
  | .yield o => o.resOk true true true true 0x1F
  | .trap o => o.resOk false false true false 0x00
  | .brk o => o.resOk false false false false 0x00
  | .sleep o => o.resOk false true false false 0x00
  | .movi o => o.a == 0
  | .movih o => o.a == 0
  | .iadd o => o.resOk true true true false 0xC0
  | .isub o => o.resOk true true true false 0xC0
  | .imul o => o.resOk true true true false 0xC0
  | .imulh o => o.resOk true true true false 0xC0
  | .imulhu o => o.resOk true true true false 0xC0
  | .imad o => o.resOk true true true true 0xC0
  | .imin o => o.resOk true true true false 0xC0
  | .imax o => o.resOk true true true false 0xC0
  | .umin o => o.resOk true true true false 0xC0
  | .umax o => o.resOk true true true false 0xC0
  | .iabs o => o.resOk true true false false 0x80
  | .iadds o => o.resOk true true true false 0xC0
  | .isubs o => o.resOk true true true false 0xC0
  | .idiv o => o.resOk true true true false 0xC0
  | .udiv o => o.resOk true true true false 0xC0
  | .irem o => o.resOk true true true false 0xC0
  | .urem o => o.resOk true true true false 0xC0
  | .dp4a o => o.resOk true true true true 0xC0
  | .dp4au o => o.resOk true true true true 0xC0
  | .and_ o => o.resOk true true true false 0xC0
  | .or_ o => o.resOk true true true false 0xC0
  | .xor_ o => o.resOk true true true false 0xC0
  | .andn o => o.resOk true true true false 0xC0
  | .blut o => o.resOk true true true true 0xFF
  | .shl o => o.resOk true true true false 0xC0
  | .shr_ o => o.resOk true true true false 0xC0
  | .sar o => o.resOk true true true false 0xC0
  | .rol o => o.resOk true true true false 0xC0
  | .bfe o => o.resOk true true true false 0xC0
  | .bfeu o => o.resOk true true true false 0xC0
  | .bfi o => o.resOk true true true true 0xC0
  | .popc o => o.resOk true true false false 0x80
  | .clz o => o.resOk true true false false 0x80
  | .brev o => o.resOk true true false false 0x80
  | .bshuf o => o.resOk true true true true 0xC0
  | .icmp o => o.resOk true true true true 0xFF
  | .icmpm o => o.resOk true true true true 0xFF
  | .sel o => o.resOk true true true true 0xC0
  | .plut o => o.resOk true true true true 0xFF
  | .pgat o => o.resOk true false false false 0x00
  | .pscat o => o.resOk false true true false 0x00
  | .aadd o => o.resOk true true true false 0xC0
  | .asub o => o.resOk true true true false 0xC0
  | .acmp o => o.resOk true true true false 0xCF
  | .shl64 o => o.resOk true true true false 0xC0
  | .shr64 o => o.resOk true true true false 0xC0
  | .iadd64 o => o.resOk true true true false 0xC0
  | .imul64 o => o.resOk true true true false 0xC0
  | .amov o => o.resOk true true false false 0x80
  | .fadd o => o.resOk true true true false 0xBF
  | .fsub o => o.resOk true true true false 0xBF
  | .fmul o => o.resOk true true true false 0xBF
  | .ffma o => o.resOk true true true true 0xFF
  | .fmin o => o.resOk true true true false 0xB8
  | .fmax o => o.resOk true true true false 0xB8
  | .fsetp o => o.resOk true true true true 0xB8
  | .fset o => o.resOk true true true true 0xB8
  | .fdiv o => o.resOk true true true false 0xBF
  | .fsqrt o => o.resOk true true false false 0x9F
  | .frnd o => o.resOk true true false false 0x9F
  | .hadd2 o => o.resOk true true true false 0x01
  | .hmul2 o => o.resOk true true true false 0x01
  | .hfma2 o => o.resOk true true true true 0x01
  | .hmin2 o => o.resOk true true true false 0x01
  | .hmax2 o => o.resOk true true true false 0x01
  | .hsetp2 o => o.resOk true true true true 0x01
  | .hdot2 o => o.resOk true true true true 0x01
  | .frcp o => o.resOk true true false false 0x9C
  | .frsq o => o.resOk true true false false 0x9C
  | .fexp2 o => o.resOk true true false false 0x9C
  | .flog2 o => o.resOk true true false false 0x9C
  | .fsin o => o.resOk true true false false 0x9C
  | .fcos o => o.resOk true true false false 0x9C
  | .ftanh o => o.resOk true true false false 0x9C
  | .f2i o => o.resOk true true false false 0x9B
  | .f2u o => o.resOk true true false false 0x9B
  | .i2f o => o.resOk true true false false 0x87
  | .u2f o => o.resOk true true false false 0x87
  | .f2h o => o.resOk true true true true 0xBF
  | .h2f o => o.resOk true true false true 0x98
  | .cvtq o => o.resOk true true true true 0x98
  | .cvtd o => o.resOk true true true true 0x80
  | .xscale o => o.resOk true true false true 0x98
  | .mov o => o.resOk true true false false 0x00
  | .sread o => o.resOk true false true false 0x00
  | .kput o => o.resOk true true false false 0x00
  | .kget o => o.resOk true true false false 0x00
  | .tumb o => o.resOk false false false true 0x07
  | .xshf o => o.resOk true true true true 0x03
  | .xred o => o.resOk true true false true 0x0F
  | .xscn o => o.resOk true true false true 0x1F
  | .xbal o => o.resOk true true false true 0x00
  | .xvote o => o.resOk true true false true 0x03
  | .bari o => o.resOk false true true false 0x00
  | .bara o => o.resOk true false true false 0x07
  | .barw o => o.resOk false true true false 0x07
  | .bars o => o.resOk false false true false 0x07
  | .semi o => o.resOk true true true true 0x00
  | .sems o => o.resOk false true true false 0x67
  | .semw o => o.resOk false true true false 0x67
  | .semr o => o.resOk true false true false 0x00
  | .atom o => (o.op == .cas || o.c == 0) && modOk o.mod 0x7F
  | .red_ o => o.d == 0 && o.c == 0 && modOk o.mod 0x7F
  | .fence o => o.resOk false false false 0x60
  | .fprom o => o.resOk true true false 0x00
  | .cinv o => o.resOk false true true 0x00
  | .cwb o => o.resOk false true true 0x00
  | .bkvaddf o => o.resOk false true true 0x60
  | .bkvaddi o => o.resOk false true true 0x60
  | .bkvmaxf o => o.resOk false true true 0x60
  | .bkvmaxa o => o.resOk false true true 0x60
  | .bkvaddh o => o.resOk false true true 0x61
  | .bkred o => o.resOk true true false 0x6F
  | .sharm o => o.resOk true true true false 0x00
  | .shpub o => o.resOk true true false false 0x00
  | .shdrop o => o.resOk true true false false 0x00
  | .shstat o => o.resOk true true false false 0x01
  | .enq o => o.resOk true false true 0x01
  | .tplw o => o.resOk false true true 0x00
  | .qstat o => o.resOk true false false 0x03
  | .qwait o => o.resOk true false true 0x00
  | .qpop o => o.resOk true false false 0x00
  | .qpush o => o.resOk true false true 0x00
  | .tcfg o => o.resOk true true true false 0x00
  | .tcfgr o => o.resOk true true false false 0x00
  | .tzero o => o.resOk true false false false 0x00
  | .tget o => o.resOk true true true false 0x01
  | .tset o => o.resOk true true true false 0x01
  | .tmma o => (o.gran != 0 || o.ts == 0) && modOk o.mod 0x3F
  | .tcvt o => (o.gran != 0 || o.ts == 0) && o.tb == 0 && o.eb == 0 && modOk o.mod 0x3F
  | .tadd o => o.ts == 0 && o.gran == 0 && modOk o.mod 0x3F
  | .tld o => o.resOk true true true true 0x78
  | .tst o => o.resOk true true true true 0x78
  | .tdrain o => o.resOk true true true false 0x00
  | .tfill o => o.resOk true true true false 0x00
  | .sample o => o.resOk true true true false 0x19
  | .imld o => o.resOk true true true false 0x18
  | .imst o => o.resOk true true true false 0x18
  | .trace o => o.resOk true true true true 0x3F
  | .tlist o => o.resOk true true true true 0x00
  | .launch o => o.resOk true true false false 0x00
  | .cancel o => o.resOk true true false false 0x03
  | .cntrRd o => o.resOk true true false false 0x00
  | .cntrAdd o => o.resOk true true true false 0x01
  | .phaseRd o => o.resOk true false false false 0x00
  | .phaseNext o => o.resOk false true false false 0x01
  | .idemOff o => o.resOk false false false false 0x00
  | .idemOn o => o.resOk false false false false 0x01
  | .csrr o => o.resOk true true true true 0x00
  | .csrw o => o.resOk true true true true 0x00
  | .eret o => o.resOk false true false false 0x00
  | .eretExit o => o.resOk false false false false 0x01
  | .halt o => o.resOk true true false false 0x00
  | .haltRel o => o.resOk true true false false 0x01
  | .beat o => o.resOk true false false false 0x00
  | .hinge o => o.resOk true true true false 0x01
  | .captGroup o => o.resOk true true true false 0x00
  | .captCore o => o.resOk true true true false 0x01
  | .captResume o => o.resOk true true false false 0x02
  | .tinvInv o => o.resOk true true true true 0x04
  | .tinvRetry o => o.resOk true true true true 0x05
  | .tinvFail o => o.resOk true true true true 0x06
  | _ => true

/-- No field holds a reserved code. -/
def Instr.codesOk (i : Instr) : Bool :=
  match i with
  | .yield o =>
    -- R167: kind 3 is reserved; the scope belongs to kind sem, and kind tick reserves B
    match modField o.mod 0 2 with
    | 0 => 1 ≤ modField o.mod 2 3 && modField o.mod 2 3 ≤ 5
    | 1 => modField o.mod 2 3 == 0
    | 2 => modField o.mod 2 3 == 0 && o.b == 0
    | _ => false
  | .shli o => o.imm.toNat < 32
  | .shri o => o.imm.toNat < 32
  | .sari o => o.imm.toNat < 32
  | .icmp o => modField o.mod 0 4 ≤ 9 && (modField o.mod 4 2 != 0 || o.c == 0)
  | .icmpm o => modField o.mod 0 4 ≤ 9 && (modField o.mod 4 2 != 0 || o.c == 0)
  | .acmp o => modField o.mod 0 4 ≤ 9
  | .fsetp o => o.c.toNat < 14
  | .fset o => o.c.toNat < 14
  | .hsetp2 o => o.c.toNat < 14
  | .f2h o => typeCodeOk o.c.toNat
  | .h2f o => typeCodeOk o.c.toNat
  | .cvtq o => typeCodeOk o.c.toNat
  | .cvtd o => typeCodeOk o.c.toNat
  | .xscale o => typeCodeOk o.c.toNat
  | .tumb o => modField o.mod 0 3 ≤ 5
  | .xred o => modField o.mod 0 4 ≤ 10
  | .xscn o => modField o.mod 0 4 ≤ 10
  | .xvote o => modField o.mod 0 2 ≤ 2
  | .bara o => modField o.mod 0 3 ≤ 5
  | .barw o => modField o.mod 0 3 ≤ 5
  | .bars o => modField o.mod 0 3 ≤ 5
  | .sems o => (modField o.mod 5 2 == 0 || modField o.mod 5 2 == 2) && orderScopeOk (modField o.mod 5 2) (modField o.mod 0 3)
  | .semw o => (modField o.mod 5 2 == 0 || modField o.mod 5 2 == 1) && orderScopeOk (modField o.mod 5 2) (modField o.mod 0 3)
  | .ld o => o.codesOk false false
  | .st o => o.codesOk true false
  | .ldsc o => o.codesOk false true
  | .stsc o => o.codesOk true true
  | .atom o => o.codesOk false
  | .red_ o => o.codesOk true
  | .fence o => 1 ≤ o.scope.toNat && o.scope.toNat ≤ 5 && modField o.mod 5 2 != 0
  | .fprom o => o.scope == 4
  | .cinv o => o.scope == 0
  | .cwb o => o.scope == 3 || o.scope == 5
  | .bkvaddf o => (modField o.mod 5 2 == 0 || modField o.mod 5 2 == 2) && orderScopeOk (modField o.mod 5 2) o.scope.toNat
  | .bkvaddi o => (modField o.mod 5 2 == 0 || modField o.mod 5 2 == 2) && orderScopeOk (modField o.mod 5 2) o.scope.toNat
  | .bkvmaxf o => (modField o.mod 5 2 == 0 || modField o.mod 5 2 == 2) && orderScopeOk (modField o.mod 5 2) o.scope.toNat
  | .bkvmaxa o => (modField o.mod 5 2 == 0 || modField o.mod 5 2 == 2) && orderScopeOk (modField o.mod 5 2) o.scope.toNat
  | .bkvaddh o => (modField o.mod 5 2 == 0 || modField o.mod 5 2 == 2) && orderScopeOk (modField o.mod 5 2) o.scope.toNat
  | .bkred o => (modField o.mod 5 2 == 0 || modField o.mod 5 2 == 1) && orderScopeOk (modField o.mod 5 2) o.scope.toNat && modField o.mod 0 4 ≤ 11
  | .qstat o => modField o.mod 0 2 ≤ 2
  | .tmma o => o.codesOk
  | .tcvt o => o.codesOk
  | .tadd o => o.codesOk
  | .tld o =>
    let order := modField o.mod 5 2
    modField o.mod 3 2 != 3 && (order == 0 || order == 1) && orderScopeOk order o.c.toNat
  | .tst o =>
    let order := modField o.mod 5 2
    modField o.mod 3 2 != 3 && (order == 0 || order == 2) && orderScopeOk order o.c.toNat
  | .sample o => modField o.mod 3 2 != 3
  | .imld o => modField o.mod 3 2 != 3
  | .imst o => modField o.mod 3 2 != 3
  | .cancel o => modField o.mod 0 2 == 0 || o.a == 0
  | .cntrAdd o => o.mod == 1
  | .phaseNext o => o.mod == 1
  | .idemOn o => o.mod == 1
  | .eretExit o => o.mod == 1
  | .haltRel o => o.mod == 1
  | .captCore o => o.mod == 1
  | .captResume o => o.mod == 2
  | .tinvRetry o => modField o.mod 0 2 == 1
  | .tinvFail o => modField o.mod 0 2 == 2
  | _ => true

/-- The guard is no reserved one (R21). -/
def Instr.guardOk (i : Instr) : Bool :=
  match i.guard? with
  | some g => g.ok
  | none => true

/-- A well-formed instruction: one whose word R22 step 2 lets pass by its bits alone. -/
def Instr.WellFormed (i : Instr) : Prop := (i.guardOk && i.reservedOk && i.codesOk) = true

/-- Is the constructor an instruction of the Shavon word? The others are steps of the device. -/
def Instr.isWord (i : Instr) : Bool := i.guard?.isSome

end Sys2Proof
end

