-- ==== Sys2Proof/Machine/Address.lean ====
section
/-!
DEFINITION. The address and 64-bit family 0x13 (08_thread R174).
-/

namespace Sys2Proof.Machine

/-- AADD (R174): the pair plus a sign-extended register. -/
def execAadd (o : OpR) (s : State) : Host.Outcome State Fault Refusal := addrOp1 s o fun a b => a + b.signExtend 64

/-- ASUB (R174). -/
def execAsub (o : OpR) (s : State) : Host.Outcome State Fault Refusal := addrOp2 s o fun a b => a - b

/-- ACMP (R174): a condition of R33 on 64-bit values. -/
def execAcmp (o : OpR) (s : State) : Host.Outcome State Fault Refusal :=
  predOp s o.g o.d [needSelPair (kA o) o.a, needSelPair (kB o) o.b] fun e t =>
    condCode (modField o.mod 0 4) (selPair s e t (kA o) o.a) (selPair s e t (kB o) o.b)

/-- SHL64 (R174). -/
def execShl64 (o : OpR) (s : State) : Host.Outcome State Fault Refusal := addrOp1 s o fun a b => shl64 a b.toNat

/-- SHR64 (R174). -/
def execShr64 (o : OpR) (s : State) : Host.Outcome State Fault Refusal := addrOp1 s o fun a b => shr64 a b.toNat

/-- IADD64 (R174). -/
def execIadd64 (o : OpR) (s : State) : Host.Outcome State Fault Refusal := addrOp2 s o fun a b => a + b

/-- IMUL64 (R174). -/
def execImul64 (o : OpR) (s : State) : Host.Outcome State Fault Refusal := addrOp2 s o fun a b => a * b

/-- AMOV (R174). -/
def execAmov (o : OpR) (s : State) : Host.Outcome State Fault Refusal :=
  pairOp s o.g o.d [needSelPair (kA o) o.a] fun e t => selPair s e t (kA o) o.a

end Sys2Proof.Machine
end

