-- ==== Sys2Proof/Machine/ApproxInsn.lean ====
section
/-!
DEFINITION. The approximated family 0x1A (09_thread_float R185, R186).
-/

namespace Sys2Proof.Machine

/-- FRCP (R185, R186). -/
def execFrcp (o : OpR) (s : State) : Host.Outcome State Fault Refusal := fltOp1 s o fun a => approxFinal o.mod (approxResult .rcp a)

/-- FRSQ (R185, R186). -/
def execFrsq (o : OpR) (s : State) : Host.Outcome State Fault Refusal := fltOp1 s o fun a => approxFinal o.mod (approxResult .rsq a)

/-- FEXP2 (R185, R186). -/
def execFexp2 (o : OpR) (s : State) : Host.Outcome State Fault Refusal := fltOp1 s o fun a => approxFinal o.mod (approxResult .exp2 a)

/-- FLOG2 (R185, R186). -/
def execFlog2 (o : OpR) (s : State) : Host.Outcome State Fault Refusal := fltOp1 s o fun a => approxFinal o.mod (approxResult .log2 a)

/-- FSIN (R185, R186). -/
def execFsin (o : OpR) (s : State) : Host.Outcome State Fault Refusal := fltOp1 s o fun a => approxFinal o.mod (approxResult .sin a)

/-- FCOS (R185, R186). -/
def execFcos (o : OpR) (s : State) : Host.Outcome State Fault Refusal := fltOp1 s o fun a => approxFinal o.mod (approxResult .cos a)

/-- FTANH (R185, R186). -/
def execFtanh (o : OpR) (s : State) : Host.Outcome State Fault Refusal := fltOp1 s o fun a => approxFinal o.mod (approxResult .tanh a)

end Sys2Proof.Machine
end

