-- ==== Sys2Proof/Machine/Sync.lean ====
section
/-!
DEFINITION. Barriers, tumblers and semaphores as objects (10_barrier R191 to R212): phases, turns, misuse and service.
-/

namespace Sys2Proof.Machine

/-! ## Barriers (R191 to R195) -/

/-- A barrier of a group; one not listed stands at its PLACING values. -/
def getBar (g : Group) (n : Nat) : Barrier := SMap.get g.bars n {}

/-- Live threads: those not EXITED. -/
def isLive (t : Thread) : Bool := match t.st with | .exited => false | _ => true
def liveCount (g : Group) : Nat := (g.threads.filter isLive).length

/-- EXP: the live threads in ALL mode, the BARI value in COUNT mode. -/
def barExp (g : Group) (b : Barrier) : Nat := if b.all then liveCount g else b.exp

/-- The scope of a thread that waits on barrier `n`, if it does. -/
def waitsBar (t : Thread) (n : Nat) : Option Nat :=
  match t.st with
  | .waiting (.barw m _ scope _) => if m = n then some scope else none
  | _ => none

/-- The waiters of a barrier retire, each with the acquire of its own scope (R195); those that a halt holds do when their group resumes (R161). -/
def releaseWaiters (s : State) (n : Nat) (l : List Agent) : State :=
  l.foldl (fun s a =>
    match getThread s a with
    | some t =>
      match waitsBar t n with
      | some scope => if heldByHalt s a then s else retire (acquire s (envOf s a) scope) (envOf s a) t
      | none => s
    | none => s) s

/-- Completing a phase (R192): PHASE rises, ARR and the flags clear, every waiter is released. -/
def completePhase (s : State) (gid n : Nat) : State :=
  let s := modGroup s gid fun g =>
    let b := getBar g n
    { g with bars := SMap.set g.bars n { b with phase := b.phase + 1, arr := 0, arrived := [] } }
  releaseWaiters s n (agentsOfGroup s gid)

/-- Would an arrival misuse the barrier: ALL mode and the thread's flag set? -/
def arriveBad (g : Group) (n tid : Nat) : Bool := (getBar g n).all && (getBar g n).arrived.contains tid

/-- Arrive of R194, for a thread whose flag is clear. -/
def arrive (s : State) (gid n tid : Nat) : State :=
  let s := modGroup s gid fun g =>
    let b := getBar g n
    let b := { b with arr := b.arr + 1, arrived := if b.all then tid :: b.arrived else b.arrived }
    { g with bars := SMap.set g.bars n b }
  match getGroup s gid with
  | some g => if (getBar g n).arr = barExp g (getBar g n) then completePhase s gid n else s
  | none => s

/-- The effect of an EXIT on one barrier (R192); the thread is already EXITED. -/
def barExit (s : State) (gid tid n : Nat) : State :=
  let s := modGroup s gid fun g =>
    let b := getBar g n
    if b.all && b.arrived.contains tid then
      { g with bars := SMap.set g.bars n { b with arr := b.arr - 1, arrived := b.arrived.filter (· != tid) } }
    else g
  match getGroup s gid with
  | some g =>
    let b := getBar g n
    if b.all && b.arr > 0 && b.arr == barExp g b then completePhase s gid n else s
  | none => s

/-! ## Tumblers (R197 to R204) -/

/-- What a member brings and where its result goes. -/
def resultOf (fn : Nat) (mod : BitVec 8) (l : List Arrival) (m : Arrival) (t : Thread) : Thread :=
  let sorted := sortBy (fun a => a.lane) l
  let from_ (lane : Nat) : Word := ((l.find? fun a => a.lane == lane).map (·.va)).getD m.va
  match fn with
  | 1 =>
    let b := m.vb.toNat
    let src : Option Nat := match mod.toNat % 4 with
      | 0 => some (b % 32)
      | 1 => if b > m.lane then none else some (m.lane - b)
      | 2 => if m.lane + b > 31 then none else some (m.lane + b)
      | _ => some (Nat.xor m.lane (b % 32))
    writeX t m.d.toNat (match src with | some x => from_ x | none => m.va)
  | 2 => writeX t m.d.toNat ((foldScan (mod.toNat % 16) (sorted.map (·.va))).getLastD 0)
  | 3 =>
    let inc := foldScan (mod.toNat % 16) (sorted.map (·.va))
    let i := (indexOf sorted fun a => a.lane == m.lane).getD 0
    writeX t m.d.toNat
      (if mod.getLsbD 4 then (if i = 0 then foldIdentity (mod.toNat % 16) else nthD inc (i - 1) 0) else nthD inc i 0)
  | 4 => writeX t m.d.toNat (BitVec.ofNat 32 (l.foldl (fun acc a => acc + (if a.vp then 2 ^ a.lane else 0)) 0))
  | 5 => writeP t m.d.toNat (match mod.toNat % 4 with
      | 0 => l.all (·.vp)
      | 1 => l.any (·.vp)
      | _ => l.all (·.vp) || l.all (fun a => !a.vp))
  | _ => t

/-- A turn (R199): every member's destination is written and every member retires; TUMB's is an acquire at its scope (R201). -/
def turn (s : State) (gid : Nat) (rz : Rendezvous) : State :=
  rz.got.foldl (fun s m =>
    let a := Agent.thread gid m.tid
    match getThread s a with
    | some t =>
      let e := envOf s a
      let s := if rz.fn = 0 then acquire s e (rz.mod.toNat % 8) else s
      retire s e (resultOf rz.fn rz.mod rz.got m t)
    | none => s) s

/-- The pending rendezvous of a span. -/
def tumblerOf (g : Group) (span : Nat) : List Rendezvous := SMap.get g.tumblers span []

/-- The rendezvous of a span changed. -/
def setTumbler (s : State) (gid span : Nat) (l : List Rendezvous) : State :=
  modGroup s gid fun g => { g with tumblers := SMap.set g.tumblers span l }

/-- Rendezvous that a test picks are removed and their waiters trap 0x0C (R198, R200). -/
def breakRendezvous (s : State) (gid span : Nat) (f : Rendezvous → Bool) : State :=
  match getGroup s gid with
  | none => s
  | some g =>
    let l := tumblerOf g span
    let s := setTumbler s gid span (l.filter fun r => !f r)
    ((l.filter f).flatMap (·.got)).foldl (fun s m => trap s (.thread gid m.tid) 0x0C) s

/-- Does every lane of a mask hold a thread that has not exited? -/
def lanesLive (g : Group) (span : Nat) (m : Word) : Bool :=
  (upTo 32).all fun l => !m.getLsbD l || (match g.threads[32 * span + l]? with | some t => isLive t | none => false)

/-- Misuse of R198: the arriving thread traps, and so does every waiter of an overlapping rendezvous. -/
def misuse (s : State) (gid tid : Nat) (m : Word) : State :=
  let s := trap s (.thread gid tid) 0x0C
  breakRendezvous s gid (tid / 32) fun r => r.mask &&& m != 0

/-- An arrival at the span's tumbler (R198). -/
def tumble (s : State) (gid : Nat) (fn : Nat) (mod : BitVec 8) (m : Word) (arr : Arrival) : State :=
  match getGroup s gid with
  | none => s
  | some g =>
    let span := arr.tid / 32
    let l := tumblerOf g span
    if !m.getLsbD arr.lane || !lanesLive g span m then misuse s gid arr.tid m
    else
      let put (rz : Rendezvous) (rest : List Rendezvous) : State :=
        let rz := { rz with got := rz.got ++ [arr] }
        if (upTo 32).all fun k => !m.getLsbD k || rz.got.any fun a => a.lane == k then
          turn (setTumbler s gid span rest) gid rz
        else waitAt (setTumbler s gid span (rest ++ [rz])) (.thread gid arr.tid) .tumbler
      match l.find? fun r => r.mask == m with
      | some rz =>
        if rz.fn = fn ∧ rz.mod = mod then put rz (l.filter fun r => r.mask != m)
        else misuse s gid arr.tid m
      | none =>
        if l.any fun r => r.mask &&& m != 0 then misuse s gid arr.tid m
        else put { mask := m, fn := fn, mod := mod, got := [] } l

/-- Every rendezvous of a group is removed by a capture; its waiters keep their PCs (R200). -/
def clearTumblers (s : State) (gid : Nat) : State := modGroup s gid fun g => { g with tumblers := [] }

/-! ## Semaphores (R205 to R211) -/

/-- A semaphore as a context sees it (R205). -/
def semSeen (c : Core) (n ctx : Nat) : Sem :=
  let m := getSem c n
  if m.owner = some ctx then m else {}

/-- The first waiter that VALUE meets. -/
def firstMet (m : Sem) : Option SemWaiter :=
  m.waiters.find? fun w => m.owner == some w.ctx && m.value ≥ w.count

/-- A step that serves the first met waiter follows at once (R207). -/
def pokeSem (s : State) (core n : Nat) : State :=
  match firstMet (getSem (getCore s core) n) with
  | some w => match w.who with
    | .thread _ => soon s .semwService { n1 := core, n2 := n }
    | .engine q => soon s .engineWaitMet { n1 := core, n2 := q }
  | none => s

/-- A waiter leaves a semaphore. -/
def dropWaiter (m : Sem) (who : SemWho) : Sem := { m with waiters := m.waiters.filter fun w => w.who != who }

/-- The count of a waiter is subtracted and it leaves. -/
def takeCount (m : Sem) (w : SemWaiter) : Sem := { dropWaiter m w.who with value := m.value - w.count }

/-- A SEMW thread is served (R207, R210): the count is taken, the thread retires with the acquire of its scope, and the rest
are tested again. -/
def serveThread (s : State) (core n : Nat) (w : SemWaiter) (a : Agent) : State :=
  let s := modSem s core n fun m => takeCount m w
  let s := match getThread s a with
    | some t =>
      match t.st with
      | .waiting (.semw _ _ scope) => retire (acquire s (envOf s a) scope) (envOf s a) t
      | _ => s
    | none => s
  pokeSem s core n

/-- A semaphore returns to FREE (R206). -/
def semFree (m : Sem) : Sem := { m with owner := none, value := 0, ceil := 0 }

end Sys2Proof.Machine
end

