-- ==== Sys2Proof/Machine/TileOps.lean ====
section
/-!
DEFINITION. Tiles (14_tile R278 to R282), the fields of engine templates (06_queue R125 to R127), and the combination and fit
rules of the matrix operations (14_tile R286 to R290).
-/

namespace Sys2Proof.Machine

/-! ## Tiles -/

/-- `n` bytes of a tile from byte `i`. -/
def tileBytes (t : Tile) (i n : Nat) : List Byte := (rangeFrom i n).map fun j => t.data.extractLsb' (8 * j) 8

/-- A tile with bytes written from byte `i` on. -/
def tilePut (t : Tile) (i : Nat) (l : List Byte) : Tile :=
  let m : BitVec 32768 := BitVec.ofNat 32768 ((2 ^ (8 * l.length) - 1) <<< (8 * i))
  let v : BitVec 32768 := BitVec.ofNat 32768 (ofBytes l <<< (8 * i))
  { t with data := (t.data &&& ~~~m) ||| v,
           bad := t.bad.filter fun w => 4 * w + 4 ≤ i || i + l.length ≤ 4 * w }

/-- LMASK cleared, as every write but TLD's does (R278). -/
def clearLmask (t : Tile) : Tile := { t with lmask := 0 }

/-- A tile returns to FREE: bytes and TC zero (R280). -/
def tileFree : Tile := {}

/-- The fields of TC (R279): the type code, the rows and the row bytes. -/
def tcType (tc : Nat) : Nat := field tc 0 4
def tcRows (tc : Nat) : Nat := field tc 4 6 + 1
def tcRb (tc : Nat) : Nat := field tc 10 7 + 1

/-- Is a control word a valid shape (R279)? -/
def tcOk (tc : Nat) : Bool := tcType tc ≤ 10 && tcRows tc * tcRb tc ≤ 4096

/-- The width in bits of an element type code. -/
def codeBits (c : Nat) : Nat := elemBits ((elemOfCode c).getD .fp32)

/-- The elements of a row, where they are integral in number. -/
def tcElems (tc : Nat) : Option Nat :=
  let w := codeBits (tcType tc)
  if tcRb tc * 8 % w = 0 then some (tcRb tc * 8 / w) else none

/-- Is a tile usable by a context (R281)? -/
def tileUsable (c : Core) (n ctx : Nat) : Bool := (getTile c n).owner == some ctx

/-- Does a tile hold a poisoned word among `n` bytes from byte `i` (R364)? -/
def tileBad (t : Tile) (i n : Nat) : Bool := t.bad.any fun w => i < 4 * w + 4 && 4 * w < i + n

/-! ## Template fields -/

/-- Word `i` of a template (R124). -/
def tplWord (t : BitVec 256) (i : Nat) : Nat := field t.toNat (32 * i) 32

/-- The fields of w0 (R125). -/
def tplWsem (t : BitVec 256) : Nat := field t.toNat 0 5
def tplWen (t : BitVec 256) : Bool := bit t.toNat 5
def tplWcnt (t : BitVec 256) : Nat := field t.toNat 6 6
def tplGsem (t : BitVec 256) : Nat := field t.toNat 12 5
def tplGen (t : BitVec 256) : Bool := bit t.toNat 17
def tplGcnt (t : BitVec 256) : Nat := field t.toNat 18 6
def tplFslot (t : BitVec 256) : Nat := field t.toNat 24 6
def tplFen (t : BitVec 256) : Bool := bit t.toNat 30

/-- A template with half-word `h` replaced (R124, R129). -/
def tplPatch (t : BitVec 256) (h : Nat) (v : Nat) : BitVec 256 :=
  let m : BitVec 256 := BitVec.ofNat 256 (0xFFFF <<< (16 * h))
  (t &&& ~~~m) ||| BitVec.ofNat 256 ((v % 65536) <<< (16 * h))

/-! ## Matrix operations -/

/-- A matrix operation (R127, R287): 0 TMMA, 1 TADD, 2 TCVT as in the template, with its tiles, types and granularity. -/
structure MatOp where
  op : Nat
  td : Nat
  ta : Nat
  tb : Nat
  ts : Nat
  ea : Nat
  eb : Nat
  acc : Nat
  gran : Nat
  deriving DecidableEq, Repr

/-- The operation of a matrix template's w1 (R127). -/
def matOf (t : BitVec 256) : MatOp :=
  let w := tplWord t 1
  { op := field w 30 2, td := field w 0 4, ta := field w 4 4, tb := field w 8 4, ts := field w 12 4, ea := field w 16 4,
    eb := field w 20 4, acc := field w 24 4, gran := field w 28 2 }

/-- The template of a matrix instruction (R287): GCNT 1, and the signal of MOD. -/
def matTemplate (m : MatOp) (gen : Bool) (gsem : Nat) : BitVec 256 :=
  let w0 := (gsem <<< 12) + (ofBool gen <<< 17) + (1 <<< 18)
  let w1 := m.td + (m.ta <<< 4) + (m.tb <<< 8) + (m.ts <<< 12) + (m.ea <<< 16) + (m.eb <<< 20) + (m.acc <<< 24) +
    (m.gran <<< 28) + (m.op <<< 30)
  BitVec.ofNat 256 (w0 + (w1 <<< 32))

/-- The float types FP32, BF16, FP16, and the narrow ones (R290). -/
def isFloatCode (c : Nat) : Bool := c ≤ 2
def isNarrowCode (c : Nat) : Bool := 3 ≤ c && c ≤ 8

/-- The type combinations of R286, R289 and R290. -/
def comboOk (m : MatOp) : Bool :=
  match m.op with
  | 0 =>
    let eight (c : Nat) : Bool := c == 3 || c == 4 || c == 5 || c == 6 || c == 8
    ((m.ea == 1 || m.ea == 2) && m.eb == m.ea && m.gran == 0 && m.acc == 0) ||
    (eight m.ea && eight m.eb && m.acc == 0 && !((m.ea == 8 || m.eb == 8) && m.gran == 0)) ||
    (m.ea == 8 && m.eb == 8 && m.gran == 0 && m.acc == 9) ||
    (m.ea == 7 && m.eb == 7 && m.acc == 0)
  | 1 =>
    (isFloatCode m.ea && isFloatCode m.eb && isFloatCode m.acc) || (m.ea == 9 && m.eb == 9 && m.acc == 9)
  | _ =>
    (isFloatCode m.ea && isFloatCode m.acc && m.gran == 0) || (isFloatCode m.ea && isNarrowCode m.acc) ||
    (isNarrowCode m.ea && isFloatCode m.acc)

/-- The tiles an operation names. -/
def matTiles (m : MatOp) : List Nat :=
  let ts := if m.gran = 0 || m.op = 1 then [] else [m.ts]
  (if m.op = 2 then [m.td, m.ta] else [m.td, m.ta, m.tb]) ++ ts

/-- The depth K of a TMMA operand type (R286). -/
def tmmaDepth (c : Nat) : Nat := match codeBits c with | 16 => 64 | 4 => 256 | _ => 128

/-- The number of elements a scale byte serves, in a row of `e` (R286, R290). -/
def granSize (gran e : Nat) : Nat := match gran with | 1 => 32 | 2 => 16 | _ => e

/-- Do the control words fit the operation (R286, R289, R290)? -/
def matFits (m : MatOp) (tc : Nat → Nat) : Bool :=
  let shape (t ty rows rb : Nat) : Bool := tcType (tc t) == ty && tcRows (tc t) == rows && tcRb (tc t) == rb
  match m.op with
  | 0 =>
    let k := tmmaDepth m.ea
    shape m.ta m.ea 32 (k * codeBits m.ea / 8) && shape m.tb m.eb 32 (k * codeBits m.eb / 8) &&
    shape m.td m.acc 32 128 && m.td != m.ta && m.td != m.tb &&
    (m.gran == 0 ||
      (shape m.ts 10 64 (k / granSize m.gran k) && m.td != m.ts && m.ts != m.ta && m.ts != m.tb))
  | 1 =>
    tcRows (tc m.ta) == tcRows (tc m.td) && tcRows (tc m.tb) == tcRows (tc m.td) &&
    (tcElems (tc m.ta)).isSome && tcElems (tc m.ta) == tcElems (tc m.td) && tcElems (tc m.tb) == tcElems (tc m.td) &&
    tcType (tc m.ta) == m.ea && tcType (tc m.tb) == m.eb && tcType (tc m.td) == m.acc &&
    (m.td != m.ta || m.acc == m.ea) && (m.td != m.tb || m.acc == m.eb)
  | _ =>
    match tcElems (tc m.ta), tcElems (tc m.td) with
    | some e, some e' =>
      let n := granSize m.gran e
      e == e' && tcRows (tc m.ta) == tcRows (tc m.td) && tcType (tc m.ta) == m.ea && tcType (tc m.td) == m.acc &&
      (m.td != m.ta || codeBits m.ea == codeBits m.acc) &&
      (m.gran == 0 ||
        (e % n == 0 && shape m.ts 10 (tcRows (tc m.ta)) (e / n) && m.ts != m.ta && m.ts != m.td))
    | _, _ => false

/-- Are the tiles of an operation usable by a context and their shapes fitting (R281)? -/
def matReady (c : Core) (m : MatOp) (ctx : Nat) : Bool :=
  (matTiles m).all (fun n => tileUsable c n ctx) && matFits m fun n => (getTile c n).tc

/-- The control words of an operation's tiles, as captured at acceptance. -/
def captureTcs (c : Core) (m : MatOp) : SMap Nat := (matTiles m).map fun n => (n, (getTile c n).tc)

end Sys2Proof.Machine
end

