-- ==== Sys2Proof/Machine/Engines.lean ====
section
/-!
DEFINITION. The engine queues (06_queue R113 to R121): acceptance, the passage of a head through its steps, faults, commands, and
what a drop or a kill does to the entries of a group; with them the automatic freeing of semaphores and tiles (10_barrier R206,
14_tile R280).
-/

namespace Sys2Proof.Machine

/-! ## Owners -/

/-- Has a context, on a core, a resident group slice or an entry accepted and not retired? -/
def ctxOnCore (s : State) (core ctx : Nat) : Bool :=
  let k := getCore s core
  (k.slots.any fun v => match getGroup s v.2.gid with | some g => g.ctx == ctx | none => false) ||
  (k.queues.any fun q => q.2.entries.any fun e => e.ctx == ctx)

/-- The semaphores and tiles of a context that has nothing left on a core become FREE (R206, R280). The spec does not say when one that a context
claims with nothing of its own on the core, as a service lane or TFILL may, becomes FREE: the model leaves it OWNED until a slice or an entry of that
context next leaves (DESIGN CHOICE, notes/assumptions 74). -/
def autoFree (s : State) (core ctx : Nat) : State :=
  if ctxOnCore s core ctx then s
  else modCore s core fun k =>
    { k with sems := SMap.mapVal k.sems fun _ m => if m.owner = some ctx then semFree m else m,
             tiles := SMap.mapVal k.tiles fun _ t => if t.owner = some ctx then tileFree else t }

/-- A context that comes to a core finds its tiles and semaphores freed if it had left; the slot of a group on a core. -/
def slotOn (s : State) (core gid : Nat) : Nat :=
  (((getCore s core).slots.find? fun v => v.2.gid == gid).map (·.1)).getD 0

/-! ## Heads -/

/-- Threads of a core that wait in QWAIT on a queue look again. -/
def coreAgents (s : State) (core : Nat) : List Agent :=
  (getCore s core).slots.flatMap fun v =>
    match getGroup s v.2.gid with
    | some g => (upTo g.threads.length).filterMap fun t =>
        if rankOf g t = v.2.rank then some (.thread v.2.gid t) else none
    | none => []

def wakeQwait (s : State) (core q : Nat) : State :=
  (coreAgents s core).foldl (fun s a =>
    match getThread s a with
    | some t => match t.st with
      | .waiting (.qwait q' _) => if q' = q then wake s a else s
      | _ => s
    | none => s) s

/-- The head of a queue. -/
def headOf (k : EngQ) : Option Entry := k.entries.head?

/-- A head that goes leaves its places at stacks, controllers and ports (R299). -/
def leaveHead (s : State) (core q : Nat) : State :=
  let mine (r : Req) : Bool := r == .agent (.engine core q)
  if placed s mine then leaveReq s mine else s

/-- RET advances by one and the head goes (R113, R115 step 5); a head that waited leaves its semaphore. -/
def popHead (s : State) (core q : Nat) : State :=
  match headOf (getQueue (getCore s core) q) with
  | none => s
  | some h =>
    let s := modSem s core (tplWsem h.tpl) fun m => dropWaiter m (.engine q)
    let s := leaveHead s core q
    let s := modQueue s core q fun k =>
      { k with ret := k.ret + 1, entries := k.entries.tail, hst := if k.entries.tail.isEmpty then 0 else 1, prog := 0,
               code := 0, va := 0, view := none, stores := [] }
    autoFree (wakeQwait s core q) core h.ctx

/-- A queue becomes FAULTED, and an engine record is posted (R120, R347). The table of R118 gives an engine fault from RUNNING only; a head that
faults while its queue is STOPPING makes it FAULTED too, which counts as stopped (DESIGN CHOICE, notes/assumptions 70). The head leaves its places at
controllers and ports, and the windows its row was bound to: RESUME repeats the row (R120, R384). -/
def faultQueue (s : State) (core q code va hst : Nat) : State :=
  match headOf (getQueue (getCore s core) q) with
  | none => s
  | some h =>
    let s := modQueue (leaveHead s core q) core q fun k => { k with st := .faulted, code := code, va := va, hst := hst, view := none, stores := [] }
    let seq := (getQueue (getCore s core) q).ret + 1
    let s := postRec s core
      { kind := 1, code := code, epc := 0, arg := seq, slot := slotOn s core h.gid, tid := 0, q := q, va := va, gid := h.gid }
    wakeQwait s core q

/-- A head that has not started meets its first step (R115, R118): a cancelled entry retires with nothing done, a wait enables
WAITING, any other head starts. `fuel` bounds the cancelled entries passed. -/
def settle (fuel : Nat) (s : State) (core q : Nat) : State :=
  match fuel with
  | 0 => s
  | fuel + 1 =>
    match headOf (getQueue (getCore s core) q) with
    | none => modQueue s core q fun k => { k with st := .idle, hst := 0, prog := 0, code := 0, va := 0, capt := false }
    | some h =>
      if h.cancelled then settle fuel (popHead s core q) core q
      else if h.bad then faultQueue s core q 0x08 0 1
      else if tplWen h.tpl && tplWcnt h.tpl != 0 then
        let s := modQueue s core q fun k => { k with st := .waiting, hst := 1, prog := 0, code := 0, va := 0, capt := false }
        let n := tplWsem h.tpl
        let s := modSem s core n fun m =>
          { m with waiters := m.waiters ++ [{ who := .engine q, ctx := h.ctx, count := tplWcnt h.tpl }] }
        match firstMet (getSem (getCore s core) n) with
        | some w => if w.who = .engine q then soon s .engineWaitMet { n1 := core, n2 := q } else s
        | none => s
      else modQueue s core q fun k => { k with st := .running, hst := 2, prog := 0, code := 0, va := 0, capt := false }

/-- The next head after a retirement, by the queue's length. -/
def settleQueue (s : State) (core q : Nat) : State :=
  settle ((getQueue (getCore s core) q).entries.length + 1) s core q

/-- A head that a soft error hit faults its queue (R364). -/
def faultIfBad (s : State) (core q : Nat) : State :=
  let k := getQueue (getCore s core) q
  match headOf k with
  | some h =>
    if h.bad && (k.st == .running || k.st == .stopping || k.st == .waiting) then
      faultQueue (modSem s core (tplWsem h.tpl) fun m => dropWaiter m (.engine q)) core q 0x08 0 k.hst
    else s
  | none => s

/-- RESUME of a FAULTED or STOPPED queue: RUNNING where the head had started, else as a fresh head. -/
def resumeQueue (s : State) (core q : Nat) : State :=
  let k := getQueue (getCore s core) q
  if (k.hst = 2 || k.hst = 3) && !k.entries.isEmpty then
    faultIfBad (modQueue s core q fun k => { k with st := .running, code := 0, va := 0, capt := false }) core q
  else settleQueue s core q

/-- Does a core hold a HALTED group? -/
def holdsHalted (s : State) (core : Nat) : Bool :=
  (getCore s core).slots.any fun v => match getGroup s v.2.gid with | some g => g.state == .halted | none => false

/-- Queues that a capture stopped resume once their core is not halted and holds no HALTED group (R357). -/
def resumeCaptured (s : State) (core : Nat) : State :=
  if (getCore s core).halted || holdsHalted s core then s
  else (upTo 4).foldl (fun s q =>
    let k := getQueue (getCore s core) q
    if k.capt && k.st == .stopped then resumeQueue s core q else s) s

/-- A queue is STOPPED; one that a capture stopped resumes at once where the capture is over (R118, R357). -/
def stopNow (s : State) (core q : Nat) : State :=
  resumeCaptured (wakeQwait (modQueue s core q fun k => { k with st := .stopped }) core q) core

/-- A head retires: a STOPPING queue reaches its stop point, any other goes on to its next head (R118). -/
def retireHead (s : State) (core q : Nat) : State :=
  let stopping := (getQueue (getCore s core) q).st == .stopping
  let s := popHead s core q
  if stopping then stopNow s core q else settleQueue s core q

/-- An entry joins a queue (R113); into an empty queue it becomes the head. Answers its sequence number. -/
def acceptEntry (s : State) (core q : Nat) (e : Entry) : Word × State :=
  let k := getQueue (getCore s core) q
  let s := modQueue s core q fun k => { k with acc := k.acc + 1, entries := k.entries ++ [e] }
  (k.acc + 1,
    if k.st == .idle then settleQueue s core q
    else modQueue s core q fun k => { k with hst := if k.hst = 0 then 1 else k.hst })

/-- The most entries a queue holds (R13). -/
def queueFull (s : State) (core q : Nat) : Bool := (getQueue (getCore s core) q).entries.length ≥ 256

/-- The outcome of step 3 of R115. -/
inductive Follow where
  /-- Nothing to submit, or submitted. -/
  | done (s : State)
  /-- q1 is full. -/
  | full
  /-- The captured shapes do not fit: 0x0E with HST 3. -/
  | misfit

/-- Step 3 of R115 for the head of q0: its follow-on enters q1 as an entry of the same group (R125), as a cancelled one when the
group was dropped (R119). -/
def submitFollow (s : State) (core : Nat) (h : Entry) : Follow :=
  match h.follow with
  | none => .done s
  | some t =>
    let m := matOf t
    if queueFull s core 1 then .full
    else if !h.dropped && !matReady (getCore s core) m h.ctx then .misfit
    else
      let e : Entry :=
        { gid := h.gid, ctx := h.ctx, launch := h.launch, slot := tplFslot h.tpl, tpl := t, bad := h.followBad,
          tcs := if h.dropped then [] else captureTcs (getCore s core) m, cancelled := h.dropped }
      let s := (acceptEntry s core 1 e).2
      .done (modQueue s core 0 fun k =>
        { k with entries := match k.entries with | x :: r => { x with follow := none } :: r | [] => [] })

/-- Steps 4 and 5 of R115: the signal, which faults 0x0A past the ceiling, and the retirement. -/
def signalAndRetire (s : State) (core q : Nat) (h : Entry) : State :=
  if tplGen h.tpl then
    let n := tplGsem h.tpl
    let m := semSeen (getCore s core) n h.ctx
    if m.value + tplGcnt h.tpl > m.ceil then faultQueue s core q 0x0A 0 3
    else if tplGcnt h.tpl = 0 then retireHead s core q
    else
      let s := modSem s core n fun m => { m with value := m.value + tplGcnt h.tpl }
      retireHead (pokeSem s core n) core q
  else retireHead s core q

/-- The rest of a head whose work is done (R115 steps 3 to 5): HST is 3 until it retires. -/
def finishHead (s : State) (core q : Nat) : State :=
  let s := modQueue s core q fun k => { k with hst := 3 }
  match headOf (getQueue (getCore s core) q) with
  | none => s
  | some h =>
    match if q = 0 then submitFollow s core h else .done s with
    | .full => s
    | .misfit => faultQueue s core q 0x0E 0 3
    | .done s => signalAndRetire s core q h

/-! ## Commands and capture (R118, R121, R357) -/

/-- STOP, by command or by a capture. -/
def stopQueue (s : State) (core q : Nat) (capt : Bool) : State :=
  let k := getQueue (getCore s core) q
  match k.st with
  | .running => modQueue s core q fun k => { k with st := .stopping, capt := capt }
  | .idle | .waiting =>
    let s := match headOf k with
      | some h => modSem s core (tplWsem h.tpl) fun m => dropWaiter m (.engine q)
      | none => s
    wakeQwait (modQueue s core q fun k => { k with st := .stopped, capt := capt }) core q
  | _ => s

/-- Does a core give a queue's head its units of work: it runs, or is halted and has still to freeze while the queue comes to its stop (R119, R360)? -/
def engineOn (s : State) (c : Nat) (k : EngQ) : Bool :=
  coreOn s c || ((getCore s c).running && (getCore s c).freezing && k.st == .stopping)

/-- Every held entry is cancelled and retires (FLUSH). -/
def flushQueue (s : State) (core q : Nat) : State :=
  let ctxs := (getQueue (getCore s core) q).entries.map (·.ctx)
  let s := match headOf (getQueue (getCore s core) q) with
    | some h => leaveHead (modSem s core (tplWsem h.tpl) fun m => dropWaiter m (.engine q)) core q
    | none => s
  let s := modQueue s core q fun k =>
    { k with ret := k.acc, entries := [], st := .idle, hst := 0, prog := 0, code := 0, va := 0, capt := false,
             view := none, stores := [] }
  ctxs.foldl (fun s c => autoFree s core c) (wakeQwait s core q)

/-! ## Drops and kills (R119, R154) -/

/-- Every entry of a group in a queue but a head that runs is cancelled; what becomes of the head is the caller's. -/
def cancelEntries (s : State) (core q gid : Nat) (keepHead : Bool) : State :=
  modQueue s core q fun k =>
    { k with entries := match k.entries with
        | [] => []
        | h :: r =>
          let mark (e : Entry) : Entry := if e.gid = gid then { e with cancelled := true } else e
          (if keepHead then (if h.gid = gid then { h with dropped := true } else h) else mark h) :: r.map mark }

/-- What a drop does to the entries of a group in one queue (R119). -/
def dropInQueue (s : State) (core q gid : Nat) : State :=
  let k := getQueue (getCore s core) q
  match headOf k with
  | none => s
  | some h =>
    if h.gid ≠ gid then cancelEntries s core q gid true
    else match k.st with
      | .running | .stopping => cancelEntries s core q gid true
      | .faulted => settleQueue (popHead (cancelEntries s core q gid true) core q) core q
      | .stopped => popHead (cancelEntries s core q gid true) core q
      | _ =>
        let s := modSem s core (tplWsem h.tpl) fun m => dropWaiter m (.engine q)
        settleQueue (cancelEntries s core q gid false) core q

/-- What a KILL does to them (R154): every entry is cancelled, a stopped head included, which retires. -/
def killInQueue (s : State) (core q gid : Nat) : State :=
  let k := getQueue (getCore s core) q
  match headOf k with
  | none => s
  | some h =>
    if h.gid ≠ gid then cancelEntries s core q gid true
    else match k.st with
      | .faulted => settleQueue (popHead (cancelEntries s core q gid false) core q) core q
      | .stopped | .stopping =>
        let s := popHead (cancelEntries s core q gid false) core q
        modQueue s core q fun k => { k with st := .stopped }
      | _ =>
        let s := modSem s core (tplWsem h.tpl) fun m => dropWaiter m (.engine q)
        settleQueue (cancelEntries s core q gid false) core q

/-- Has a group an entry accepted and not retired on any of its cores? -/
def hasEntries (s : State) (gid : Nat) : Bool :=
  s.cores.any fun c => c.2.queues.any fun q => q.2.entries.any fun e => e.gid == gid

end Sys2Proof.Machine
end

