-- ==== Sys2Proof/Machine/Levels.lean ====
section
/-!
DEFINITION. The counters of the levels of work and what counting a unit does (05_kernel R93 to R95, R102).
-/

namespace Sys2Proof.Machine

/-! ## Counters (R82, R94) -/

/-- The address of counter `i` of a context, in bank memory. -/
def counterAddr (s : State) (ctx i : Nat) : Nat := (getCtx s ctx).cnt + 8 * i

/-- A counter word read and written. -/
def counterGet (s : State) (ctx i : Nat) : Nat := memNat s (counterAddr s ctx i) 8
def counterPut (s : State) (ctx i v : Nat) : State := memPut s (counterAddr s ctx i) (toBytes v 8)

/-- One more unit in DONE, modulo 2^32. -/
def countDone (w n : Nat) : Nat := w - w % 2 ^ 32 + (w + n) % 2 ^ 32

/-- A flag bit of a counter word set. -/
def withFlag (w b : Nat) : Nat := if bit w b then w else w + 2 ^ b

/-- COMPLETE, FAULTED and CANCELLED (R94). -/
def flagComplete : Nat := 60
def flagFaulted : Nat := 61
def flagCancelled : Nat := 62

def counterAdd (s : State) (ctx i n : Nat) : State := counterPut s ctx i (countDone (counterGet s ctx i) n)
def counterFlag (s : State) (ctx i b : Nat) : State := counterPut s ctx i (withFlag (counterGet s ctx i) b)

/-- Is a counter held (R95)? -/
def counterHeld (s : State) (ctx i : Nat) : Bool := (getCtx s ctx).held.contains i

/-- A level starts: its counter is zeroed and held (R94, R95). -/
def counterStart (s : State) (ctx i : Nat) : State :=
  modCtx (counterPut s ctx i 0) ctx fun c => { c with held := i :: c.held }

/-- A level completes: COMPLETE is set and the counter is no longer held. -/
def counterComplete (s : State) (ctx i : Nat) : State :=
  modCtx (counterFlag s ctx i flagComplete) ctx fun c => { c with held := c.held.filter (· != i) }

/-- An operation on an optional counter. -/
def onCounter (s : State) (c : Option Nat) (f : State → Nat → State) : State :=
  match c with
  | some i => f s i
  | none => s

/-! ## Jobs -/

/-- The job of a context changed. -/
def modJob (s : State) (ctx : Nat) (f : Job → Job) : State := modCtx s ctx fun c => { c with job := c.job.map f }

/-- The phase run of a context's job changed. -/
def modPhase (s : State) (ctx : Nat) (f : PhaseRun → PhaseRun) : State :=
  modJob s ctx fun j => { j with phase := j.phase.map f }

/-- A malformed record of a job: FAULTED is set in the job counter and MREC rises (R99, R111). -/
def jobMalformed (s : State) (ctx : Nat) : State :=
  match (getCtx s ctx).job with
  | none => s
  | some j =>
    modJob (counterFlag s ctx j.jcnt flagFaulted) ctx fun j => { j with faulted := true, mrec := min (j.mrec + 1) 255 }

/-- FAULTED set in the job counter (R95). -/
def jobFaulted (s : State) (ctx : Nat) : State :=
  match (getCtx s ctx).job with
  | none => s
  | some j => modJob (counterFlag s ctx j.jcnt flagFaulted) ctx fun j => { j with faulted := true }

/-- FAULTED set in the counter of the phase that runs, below which a level met a counter held (R94), and in the job's. -/
def phaseFaulted (s : State) (ctx : Nat) : State :=
  jobFaulted (match (getCtx s ctx).job.bind (·.phase) with | some p => counterFlag s ctx p.cnt flagFaulted | none => s) ctx

/-! ## Launches and graphs -/

/-- The groups of a launch's grid. -/
def Launch.total (l : Launch) : Nat := l.lx * l.ly * l.lz

def getGraph (s : State) (n : Nat) : Option GraphRun := SMap.find s.graphs n
def setGraph (s : State) (n : Nat) (v : GraphRun) : State := { s with graphs := SMap.set s.graphs n v }
def modGraph (s : State) (n : Nat) (f : GraphRun → GraphRun) : State :=
  match getGraph s n with
  | some v => setGraph s n (f v)
  | none => s

/-- FAULTED set in the counter of a graph run one of whose nodes met a counter held, and in those above it (R94, R95). -/
def graphFaulted (s : State) (g : Nat) : State :=
  match getGraph s g with
  | some r => phaseFaulted (counterFlag s r.ctx r.cnt flagFaulted) r.ctx
  | none => s

/-- FAULTED set in the counters of a launch one of whose children met a counter held, and of the levels above it (R94, R95). -/
def launchFaulted (s : State) (fuel uid : Nat) : State :=
  match fuel with
  | 0 => s
  | fuel + 1 =>
    match getLaunch s uid with
    | none => s
    | some l =>
      let s := onCounter s l.cnt fun s i => counterFlag s l.ctx i flagFaulted
      match l.parent with
      | .launch p => launchFaulted s fuel p
      | .graph g => graphFaulted s g
      | _ => phaseFaulted s l.ctx

/-- Units of a launch end: DONE rises in its record and in its counter (R93). -/
def endUnits (s : State) (uid n : Nat) : State :=
  match getLaunch s uid with
  | none => s
  | some l =>
    let s := setLaunch s uid { l with ended := l.ended + n }
    onCounter s l.cnt fun s i => counterAdd s l.ctx i n

/-- One unit of a graph run ends: the node that became a launch, or one that ended without it (R95, R99). -/
def endNode (s : State) (g node : Nat) : State :=
  match getGraph s g with
  | none => s
  | some r =>
    let s := setGraph s g { r with nodes := modNth r.nodes node fun n => { n with ended := true } }
    counterAdd s r.ctx r.cnt 1

/-- One graph of the phase of a context ends. -/
def endGraph (s : State) (ctx : Nat) : State :=
  match ((getCtx s ctx).job.bind (·.phase)) with
  | none => s
  | some p => counterAdd (modPhase s ctx fun p => { p with ended := p.ended + 1 }) ctx p.cnt 1

/-! ## Cancelling (R102) -/

/-- Has a cancel reached a launch or a level above it? -/
def launchCancelled (s : State) (fuel uid : Nat) : Bool :=
  match fuel with
  | 0 => false
  | fuel + 1 =>
    match getLaunch s uid with
    | none => false
    | some l =>
      l.cancelled ||
      (match l.parent with
        | .launch p => launchCancelled s fuel p
        | .graph g => match getGraph s g with | some r => r.cancelled | none => false
        | _ => false) ||
      (match (getCtx s l.ctx).job with
        | some j => j.cancelled || (match j.phase with | some p => p.cancelled | none => false)
        | none => false)

/-- Has a cancel reached a launch? No chain of parents is longer than the launches there are. -/
def cancelReached (s : State) (uid : Nat) : Bool := launchCancelled s (s.launches.length + 1) uid

/-- Is a group masked (R150)? -/
def isMasked (g : Group) : Bool := !g.idem || g.threads.any fun t => isLive t && t.idemOff

/-- Is a drop that a group holds due: RUNNING and not masked (R150, R151)? -/
def dropHeld (s : State) (gid : Nat) : Bool :=
  match SMap.find s.groups gid with
  | some g => g.state == .running && g.drop.isSome && !isMasked g
  | none => false

/-- A thread has left its region, from `s0` to `s`: where it was the last and the group holds a drop, the drop commits at the first
bundle boundary (R151), before anything else the agenda names. -/
def commitSoon (s0 s : State) (gid : Nat) : State :=
  if dropHeld s gid && !dropHeld s0 gid then { s with agenda := .ev .dropCommit { n1 := gid } :: s.agenda } else s

/-- A drop request reaches a group (R149): ignored in DRAINING and DROPPING, recorded otherwise; a second request while one is
held changes nothing. A CANCEL asks for no drop of a masked group (R102). -/
def requestDrop (s : State) (gid : Nat) (k : DropKind) : State :=
  modGroup s gid fun g =>
    match g.state with
    | .draining | .dropping => g
    | _ =>
      if g.drop.isSome then g
      else match k with
        | .preempt => { g with drop := some .preempt }
        | .cancel => if isMasked g then g else { g with drop := some .cancel }

/-- The resident groups of a launch. -/
def groupsOf (s : State) (uid : Nat) : List Nat := (s.groups.filter fun g => g.2.launch == uid).map (·.1)

/-- A launch is cancelled: its groups not yet started count as ended, CANCELLED is set in its counter, and its resident groups
that may be dropped are asked to, but `own`, the group of the thread that cancels (R102). A group that pre-emption has queued again counts
as not started; one it is still dropping is queued again (notes/assumptions 54). -/
def cancelLaunch (s : State) (own uid : Nat) : State :=
  match getLaunch s uid with
  | none => s
  | some l =>
    if l.cancelled || l.complete then s
    else
      let waiting := l.total - l.next + l.requeue.length
      let s := setLaunch s uid { l with cancelled := true, started := true, next := l.total, requeue := [] }
      let s := endUnits s uid waiting
      let s := onCounter s l.cnt fun s i => counterFlag s l.ctx i flagCancelled
      (groupsOf s uid).foldl (fun s g => if g = own then s else requestDrop s g .cancel) s

/-- Is a launch below another, at any depth? -/
def isBelow (s : State) (fuel top uid : Nat) : Bool :=
  match fuel with
  | 0 => false
  | fuel + 1 =>
    uid == top ||
      match getLaunch s uid with
      | some l => match l.parent with | .launch p => isBelow s fuel top p | _ => false
      | none => false

/-- The uids of the launches that a test picks. -/
def launchesWhere (s : State) (f : Nat → Launch → Bool) : List Nat :=
  (s.launches.filter fun e => f e.1 e.2).map (·.1)

/-- Every launch of a list is cancelled. -/
def cancelAll (s : State) (own : Nat) (l : List Nat) : State := l.foldl (fun s u => cancelLaunch s own u) s

/-- A launch and all its descendants are cancelled. -/
def cancelTree (s : State) (own uid : Nat) : State := 
  cancelAll s own (launchesWhere s fun u _ => isBelow s (s.launches.length + 1) uid u)

/-- A graph run is cancelled, with the nodes not yet started ending, and its launches and their descendants. -/
def cancelGraph (s : State) (own g : Nat) : State :=
  match getGraph s g with
  | none => s
  | some r =>
    if r.cancelled || r.complete then s
    else
      let fresh := r.nodes.filter fun n => n.launch.isNone && !n.ended
      let nodes := r.nodes.map fun n => if n.launch.isNone then { n with ended := true } else n
      let s := setGraph s g { r with cancelled := true, nodes := nodes }
      let s := counterFlag (counterAdd s r.ctx r.cnt fresh.length) r.ctx r.cnt flagCancelled
      (r.nodes.filterMap (·.launch)).foldl (fun s u => cancelTree s own u) s

/-- The phase of a context is cancelled: graphs not yet started end, the others are cancelled, and so is every launch of the
phase. -/
def cancelPhase (s : State) (own ctx : Nat) : State :=
  match (getCtx s ctx).job.bind (·.phase) with
  | none => s
  | some p =>
    if p.cancelled then s
    else
      let left := p.ng - p.started.length
      let s := modPhase s ctx fun p => { p with cancelled := true, started := upTo p.ng, ended := p.ended + left }
      let s := counterFlag (counterAdd s ctx p.cnt left) ctx p.cnt flagCancelled
      let s := ((s.graphs.filter fun e => e.2.ctx == ctx && !e.2.complete).map (·.1)).foldl (fun s g => cancelGraph s own g) s
      cancelAll s own (launchesWhere s fun _ l => l.ctx == ctx && !l.complete)

/-- The job of a context is cancelled: its phase with it, and no further phase starts. -/
def cancelJob (s : State) (own ctx : Nat) : State :=
  match (getCtx s ctx).job with
  | none => s
  | some j =>
    if j.cancelled then s
    else
      let s := modJob (counterFlag s ctx j.jcnt flagCancelled) ctx fun j => { j with cancelled := true }
      cancelPhase s own ctx

end Sys2Proof.Machine
end

