-- ==== Sys2Proof/Machine/GroupLife.lean ====
section
/-!
DEFINITION. The life of a group (07_group R134 to R154): placement, the end of a thread, retirement, drops, halting (18_faults R352)
and kills.
-/

namespace Sys2Proof.Machine

/-! ## Wake-ups -/

/-- The waiting threads that a test picks look at their instruction again. -/
def wakeWhere (s : State) (f : Agent → Wait → Bool) : State :=
  (allAgents s).foldl (fun s a =>
    match getThread s a with
    | some t => match t.st with
      | .waiting w => if f a w then wake s a else s
      | _ => s
    | none => s) s

/-- Does a write-back wait in its stack's posted writes for a thread of this kind: a release, a CWB, a TINV or a SHARM? -/
def Wait.forPosted (w : Wait) : Bool := match w with | .drain _ => true | .shutter n _ => n ≥ 1024 | _ => false

/-- Does a thread wait at a memory controller, or for a route? -/
def Wait.atStack (w : Wait) : Bool := match w with | .held _ _ _ | .token _ _ _ | .route => true | _ => false

/-- What waits at memory controllers and for routes looks again: the posted writes of every stack, and the threads (R87, R303, R314). -/
def moveOn (s : State) : State :=
  let l := s.stk.filter fun k => !k.2.posted.isEmpty
  let s := l.foldl (fun s k => performStack s k.1) s
  wakeWhere s fun _ w => w.atStack || (!l.isEmpty && w.forPosted)

/-- Threads of a core whose release may now be complete (R241), and those that wait in SHARM for a drain (R274). -/
def wakeDrains (s : State) (core : Nat) : State :=
  wakeWhere s fun a w => match w with
    | .drain b => (envOf s a).core == some core && drainMet s core b
    | .shutter w _ => w ≥ 1024
    | _ => false

/-- Threads that wait for the whole device, in a capture, a SHARM or a TINV, look again. -/
def wakeCaptures (s : State) : State := wakeWhere s fun _ w => match w with | .shutter n _ => n ≥ 1024 | _ => false

/-! ## Placement (R136 to R148) -/

/-- The spans of a slice of a group by rank (R137). -/
def spansOf (g : Group) (rank : Nat) : Nat :=
  min g.spans ((g.threads.length + 31) / 32 - g.spans * rank)

/-- Registers per thread, rounded (R29). -/
def roundRegs (n : Nat) : Nat := (n + 7) / 8 * 8

/-- The spans of one kernel that an empty core holds (R136). -/
def maxSpans (nr : Nat) : Nat := min 256 (16384 / nr)

/-- What a core's slices hold: spans, registers and scratch granules. -/
structure CoreUse where
  spans : Nat := 0
  regs : Nat := 0
  granules : Nat := 0

/-- The granules of a slice (R145). -/
def granulesOf (scratch : Nat) : Nat := (scratch + 16383) / 16384

/-- What the resident slices of a core use. A group in PLACING has its threads counted by its extents. -/
def coreUse (s : State) (core : Nat) : CoreUse :=
  (getCore s core).slots.foldl (fun u v =>
    match getGroup s v.2.gid with
    | none => u
    | some g =>
      let p := (g.gx * g.gy * g.gz + 31) / 32
      let n := min g.spans (p - g.spans * v.2.rank)
      { spans := u.spans + n, regs := u.regs + 32 * roundRegs g.regs * n, granules := u.granules + granulesOf g.scratchSize }) {}

/-- The FREE slot of a core that a slice takes: R138 says only that it is one of the 64, and the model takes the lowest (DESIGN CHOICE,
notes/assumptions 72). -/
def freeSlot (s : State) (core : Nat) : Option Nat :=
  findFrom (fun i => (SMap.find (getCore s core).slots i).isNone) 0 64

/-- Can a core take a slice of `n` spans, `nr` registers a thread and a scratch size (R136, R138)? R137 and R138 do not say whether a halted core can: in
the model it takes none (DESIGN CHOICE, notes/assumptions 72). -/
def canTake (s : State) (core n nr scratch : Nat) : Bool :=
  let u := coreUse s core
  let k := getCore s core
  k.running && !k.halted && (freeSlot s core).isSome && 32 * (u.spans + n) ≤ 8192 && u.regs + 32 * nr * n ≤ 524288 &&
    u.granules + granulesOf scratch ≤ 28

/-- Reclaiming granules for a slice (R146): store-buffer entries of the L1 lines beyond what the slice leaves are drained, and then those lines
are dropped; a line with an entry that cannot be performed yet stays until it is (notes/assumptions 18). -/
def reclaim (s : State) (core : Nat) : State :=
  let cap := l1Capacity s core
  let past := (getCore s core).l1.drop cap
  let s := ((getCore s core).sb.filter fun e => past.any e.inLine).foldl (fun s e => drainEntry s core e) s
  wakeDrains (trimL1 s core) core

/-- Has the core given the granules that its slices hold? -/
def reclaimed (s : State) (core : Nat) : Bool := (getCore s core).l1.length ≤ l1Capacity s core

/-- A thread at its start values (R158). -/
def freshThread (pc : DWord) (stamp : Nat) : Thread := { pc := pc, stamp := stamp }

/-- The uniform registers at PLACING: PARAM in k0 and k1, zero elsewhere (R158). -/
def startUniform (param : Nat) : SMap Word :=
  [(0, BitVec.ofNat 32 param), (1, BitVec.ofNat 32 ((param % 2 ^ 56) / 2 ^ 32))]

/-- A group of a launch, by its flat index, as PLACING leaves it (R141, R148). -/
def placedGroup (l : Launch) (uid flat spans : Nat) (slices : List (Nat × Nat)) : Group :=
  { ctx := l.ctx, launch := uid, lid := l.lid, flat := flat, gx := l.kd.gx, gy := l.kd.gy, gz := l.kd.gz, lx := l.lx, ly := l.ly,
    depth := l.depth, depthMax := l.kd.depth, variant := l.variant,
    entry := BitVec.ofNat 64 (l.kd.entry + nthD l.kd.offs l.variant 0),
    regs := l.kd.regs, idem := l.kd.idem, scratchSize := l.kd.scratch, spans := spans, slices := slices,
    k := slices.map fun _ => startUniform l.param }

/-- Placement completes: the threads start at the variant's entry, each with an acquire at device scope (R96, R104, R141); the
words they fetch are those visible when the launch starts (R45). -/
def completePlacement (s : State) (gid : Nat) : State :=
  match getGroup s gid with
  | none => s
  | some g =>
    if g.state != .placing then s
    else
      let die := dieOf (sliceOf g 0).1
      let ts := (upTo (g.gx * g.gy * g.gz)).map fun _ => freshThread g.entry (dieCycle s die)
      let s := setGroup s gid { g with state := .running, threads := ts }
      let e := envOf s (.thread gid 0)
      g.slices.foldl (fun s c =>
        modCore (dropL1 s c.1 fun tag _ => tagRelevant s e tag) c.1 fun k =>
          { k with ilines := k.ilines.filter fun l => !tagRelevant s e l.tag }) s

/-! ## Leaving -/

/-- The slots of a group are freed and the group is gone; what it leaves free on its cores is freed, a context with no group left
goes from ACTIVE to READY, and queues a capture stopped may resume (R76, R141, R206, R280, R357). -/
def freeGroup (s : State) (gid : Nat) : State :=
  match getGroup s gid with
  | none => s
  | some g =>
    let s := g.slices.foldl (fun s p => modCore s p.1 fun k => { k with slots := SMap.del k.slots p.2, dbg := SMap.del k.dbg p.2 }) s
    let s := { s with groups := SMap.del s.groups gid }
    let s := g.slices.foldl (fun s p => resumeCaptured (autoFree s p.1 g.ctx) p.1) s
    if s.groups.any fun h => h.2.ctx == g.ctx then s
    else modCtx s g.ctx fun c => if c.state = .active then { c with state := .ready } else c

/-- A group retires: it is freed and counts as ended (R93, R141). -/
def retireGroup (s : State) (gid : Nat) : State :=
  match getGroup s gid with
  | none => s
  | some g => endUnits (freeGroup s gid) g.launch 1

/-- A DROPPING group whose entries have retired is freed and queued again, or has ended (R152). One that pre-emption dropped is queued again
even where a cancel of its launch has committed since (notes/assumptions 54). -/
def freeDropped (s : State) (gid : Nat) : State :=
  match getGroup s gid with
  | none => s
  | some g =>
    let s := freeGroup s gid
    match g.dropping with
    | .cancel => endUnits s g.launch 1
    | .preempt => modLaunch s g.launch fun l => { l with requeue := g.flat :: l.requeue }

/-- The last thread of a group has exited: DRAINING, or FREE where no entry is outstanding (R141, R166). A drop request held is
ignored (R151). A HALTED group goes on as DRAINING once it resumes. -/
def lastExit (s : State) (gid : Nat) : State :=
  match getGroup s gid with
  | none => s
  | some g =>
    if g.threads.any isLive then s
    else if g.state = .halted then setGroup s gid { g with before := .draining, drop := none }
    else if hasEntries s gid then setGroup s gid { g with state := .draining, drop := none }
    else retireGroup s gid

/-- EXIT takes effect (R108, R166, R192, R200): the thread is EXITED, its rendezvous break, its barriers count it no more. -/
def exitThread (s0 : State) (gid tid : Nat) : State :=
  let s := modThread s0 (.thread gid tid) fun t => { t with st := .exited, idemOff := false, relBound := none }
  let s := breakRendezvous s gid (tid / 32) fun r => r.mask.getLsbD (tid % 32)
  let s := (upTo 16).foldl (fun s n => barExit s gid tid n) s
  lastExit (commitSoon s0 s gid) gid

/-! ## Drops (R151, R152) -/

/-- What agents leave when they are discarded, halted or restarted: their places among the waiters of a semaphore, a stack or a window (R210,
R308), and at controllers and ports. A hand-over or publish under way goes on without its thread. -/
def leaveAll (s : State) (mine : Agent → Bool) : State :=
  let s := leaveReq s fun r => match r with | .agent a => mine a | _ => false
  { s with
    cores := SMap.mapVal s.cores fun _ k =>
      let left (m : Sem) : Sem :=
        { m with waiters := m.waiters.filter fun w => match w.who with | .thread a => !mine a | _ => true }
      { k with sems := SMap.mapVal k.sems fun _ m => left m }
    stk := SMap.mapVal s.stk fun _ k =>
      { k with queue := k.queue.filter fun a => !mine a, issuer := k.issuer.filter fun a => !mine a }
    wins := SMap.mapVal s.wins fun _ w =>
      { w with queue := w.queue.filter fun a => !mine a, issuer := w.issuer.filter fun a => !mine a } }

/-- Is an agent a thread of a group? -/
def ofGroup (gid : Nat) (a : Agent) : Bool := match a with | .thread g _ => g == gid | _ => false

/-- The threads of a group whose instruction has issued and goes on to its end, as `f` has it. -/
def finishers (s : State) (gid : Nat) (f : Thread → Bool) : List Agent :=
  (agentsOfGroup s gid).filter fun a => ((getThread s a).map f).getD false

/-- What the threads of a group leave when they are discarded or halted, but for those that go on to the end of their instruction. -/
def leaveWaits (s : State) (gid : Nat) (f : Thread → Bool) : State :=
  let l := finishers s gid f
  leaveAll s fun a => ofGroup gid a && !l.contains a

/-- The threads of a group that had waited in the middle of their instruction, and go on to its end, are FUSED: the others leave the bundle. -/
def fuseFinishers (s : State) (gid : Nat) : State :=
  let l := (finishers s gid (·.finishing)).filter fun a => match getThread s a with | some t => t.st == .ready || t.st == .fused | none => false
  let s := l.foldl (fun s a => modThread s a fun t => { t with st := .fused }) s
  { s with bundle := (s.bundle.filter fun a => !ofGroup gid a) ++ l }

/-- Records of the group's threads that still wait for dispatch are withdrawn (R347). -/
def withdrawRecs (s : State) (gid : Nat) : State :=
  { s with cores := SMap.mapVal s.cores fun _ k => { k with recs := k.recs.filter fun r => !(r.kind == 0 && r.gid == gid) } }

/-- Requests of threads that are no more give no result and install no line (R74, R152, R154). A load is dropped; an atomic, a RED or a bank operation
that has retired is performed all the same (R151, R152). -/
def dropPends (s : State) (f : Pend → Bool) : State :=
  { s with pends := s.pends.map fun p => if f p then { p with drop := true, install := false } else p }

/-- Is a request a load of a group's threads? -/
def Pend.loadOf (p : Pend) (gid : Nat) : Bool := !p.atomic && ofGroup gid p.who

/-- What a drop does to a group's engine entries, on all its cores. -/
def dropEntries (s : State) (gid : Nat) (f : State → Nat → Nat → Nat → State) : State :=
  match getGroup s gid with
  | none => s
  | some g => g.slices.foldl (fun s p => (upTo 4).foldl (fun s q => f s p.1 q gid) s) s

/-- What a group's requests whose answer has brought a trap are: over with their thread, for which no handler runs (R152). -/
def dropFailed (s : State) (gid : Nat) : State := { s with pends := s.pends.filter fun p => !(ofGroup gid p.who && p.fail.isSome) }

/-- Is an agent's thread discarded: of a group whose drop has committed, or EXITED? -/
def discarded (s : State) (a : Agent) : Bool :=
  let e := envOf s a
  (e.inGroup && (e.group s).state == .dropping) || (match getThread s a with | some t => t.st == .exited | none => true)

/-- The threads that a drop leaves: those whose instruction has issued go on to its end, the others are discarded. -/
def dropThreads (l : List Thread) : List Thread :=
  if l.any (·.issued) then l.map fun t => if t.issued then t else { t.settled with st := .exited } else []

/-- A drop commits (R151, R152): DROPPING, threads discarded, entries handled under R119. -/
def commitDrop (s : State) (gid : Nat) : State :=
  match getGroup s gid with
  | none => s
  | some g =>
    match g.drop with
    | none => s
    | some k =>
      let kind := if cancelReached s g.launch then .cancel else k
      let s := dropPends (withdrawRecs (leaveWaits (dropFailed s gid) gid (·.issued)) gid) fun p => p.loadOf gid
      let s := fuseFinishers s gid
      let s := modGroup s gid fun g => { g with state := .dropping, dropping := kind, drop := none, threads := dropThreads g.threads,
                                                tumblers := [], bars := [], pend := [] }
      dropEntries s gid dropInQueue

/-! ## Halting (R352) and its end -/

/-- What a halt does to one thread: one in the middle of its instruction's accesses goes on to its end, one in BARS after its arrival waits on its
token, every other keeps its place. -/
def haltThread (stamp : Nat) (t : Thread) : Thread :=
  if t.finishing then t
  else
    let t := t.settled
    match t.st with
    | .fused => { t with st := .ready, stamp := stamp }
    | _ => t

/-- A halt ends a SLEEP (R168, R352), which so retires. -/
def endSleep (s : State) (a : Agent) : State :=
  match getThread s a with
  | some t => match t.st with
    | .waiting (.sleep _) => retire s (envOf s a) t
    | _ => s
  | none => s

/-- The engine queues of a core stop under a capture (R121). -/
def stopCore (s : State) (core : Nat) : State := (upTo 4).foldl (fun s q => stopQueue s core q true) s

/-- LMASKs set by a group's threads are cleared (R278). -/
def clearLmasks (s : State) (gid : Nat) (core : Nat) : State :=
  modCore s core fun k =>
    { k with tiles := SMap.mapVal k.tiles fun _ t =>
        match t.lwho with | .thread g _ => if g = gid then clearLmask t else t | _ => t }

/-- Is a message held for a stack, or without a route? -/
def msgHeld (s : State) (id : Nat) : Bool :=
  (s.stk.any fun k => k.2.held.any fun h => h.req == .msg id) ||
  (s.msgs.any fun m => m.id == id && !m.wire &&
    match m.path with | (l, _) :: _ => !linkUp s l | [] => m.at_ != m.dst)

/-- A thread goes back to its instruction whose request is `p`: it stands there as it stood then, with what older requests have brought since, and
the requests it has made after it are given up (R352, R362, R364). Nothing else has come of what it ran ahead (R159). -/
def rewind (s : State) (p : Pend) : State :=
  let s := dropPends s fun q => q.who == p.who && q.id ≥ p.id
  modThread s p.who fun _ => p.save

/-- The loads and atomics of a group that halts, or has halted, whose request is held by a hand-over or has no route are given up: their threads stand at
their instructions, and the values that arrive later are dropped (R352, R366). -/
def giveUp (s : State) (gid : Nat) : State :=
  let lost := s.pends.filter fun p => ofGroup gid p.who && !p.drop && (s.msgs.any fun m =>
    (m.body == .read p.id || m.body == .atomic p.id) && msgHeld s m.id)
  if lost.isEmpty then s
  else
    let out (a : Agent) : Bool := lost.any fun p => p.who == a
    let s := leaveReq { s with bundle := s.bundle.filter fun a => !out a } fun r => match r with | .agent a => out a | _ => false
    lost.reverse.foldl (fun s p => modThread (rewind s p) p.who fun t => { t with st := .waiting .route }) s

/-- A group halts (R352): RUNNING, DRAINING or PLACING to HALTED, with its cause and tick. -/
def haltGroup (s : State) (gid cause : Nat) : State :=
  let s := completePlacement s gid
  match getGroup s gid with
  | none => s
  | some g =>
    if g.state != .running && g.state != .draining then s
    else
      let s := (agentsOfGroup s gid).foldl endSleep s
      let s := giveUp s gid
      let s := fuseFinishers (leaveWaits s gid (·.finishing)) gid
      let stamp := dieCycle s (dieOf (sliceOf g 0).1)
      let s := modGroup s gid fun g =>
        { g with state := .halted, before := g.state, cause := cause, haltTick := s.dev.tick, tumblers := [],
                 threads := g.threads.map (haltThread stamp) }
      g.slices.foldl (fun s p => stopCore (clearLmasks s gid p.1) p.1) s

/-- What a resume does to one thread: a waiting thread, or one parked in YIELD, issues its instruction again; one that waits on
a barrier's token after its arrival, or for a port's completion, goes on waiting. -/
def resumeThread (stamp : Nat) (t : Thread) : Thread :=
  match t.st with
  | .waiting (.barw _ _ _ true) => t
  | .waiting (.port _) => t
  | .waiting _ => if t.finishing then t else { t.settled with st := .ready, stamp := stamp }
  | .parked (.fault _ _ _ due) => if due = 1 then { t with st := .ready, stamp := stamp, code := 0 } else t
  | .parked _ => { t with st := .ready, stamp := stamp }
  | _ => t

/-- What has come due for a thread while its group was HALTED: a BARS whose phase has completed retires with its acquire (R161, R195), and a TINV.fail
makes it trap (R237). -/
def resumeDue (s : State) (a : Agent) : State :=
  match getThread s a with
  | some t => match t.st with
    | .waiting (.barw n tok scope true) =>
      if (getBar ((envOf s a).group s) n).phase = tok then s else retire (acquire s (envOf s a) scope) (envOf s a) t
    | .parked (.fault _ _ code 2) => trap s a code
    | _ => s
  | none => s

/-- A HALTED group returns to its state before (R141, R353, R357), and one that returns to DRAINING ignores a drop requested meanwhile (R149); trapped threads whose lane has gone may be dispatched again
(R350). -/
def resumeGroup (s : State) (gid : Nat) : State :=
  match getGroup s gid with
  | none => s
  | some g =>
    let die := dieOf (sliceOf g 0).1
    let s := setGroup s gid { g with state := g.before, drop := if g.before = .running then g.drop else none, threads := g.threads.map (resumeThread (dieCycle s die)) }
    let s := (upTo g.threads.length).foldl (fun s tid =>
      match g.threads[tid]? with
      | some t =>
        let c := (sliceOf g (rankOf g tid))
        let served := (getCore s c.1).lanes.any fun l =>
          match l.2.trec with | some r => r.kind == 0 && r.gid == gid && r.tid == tid | none => false
        let queued := (getCore s c.1).recs.any fun r => r.kind == 0 && r.gid == gid && r.tid == tid
        if t.st = .trapped ∧ ¬ served ∧ ¬ queued then
          let s := modThread s (.thread gid tid) fun t => { t with dispatched := false }
          postRec s c.1 { kind := 0, code := t.code, epc := t.pc, arg := t.arg, slot := c.2, tid := tid, q := 0, va := t.va, gid := gid }
        else s
      | none => s) s
    let s := (agentsOfGroup s gid).foldl resumeDue s
    g.slices.foldl (fun s p => resumeCaptured s p.1) s

/-- A HALTED group is killed (R154): its entries are cancelled and its slots freed at once; it has not ended. R77 and R80 speak of a move of its
context to FAULTED where it is in QUIESCING, R76 and R154 of command 6: the model leaves the move to that command, and FCODE stays 0 until then
(DESIGN CHOICE, notes/assumptions 66). -/
def killGroup (s : State) (gid : Nat) : State :=
  let s := leaveAll s (ofGroup gid)
  let s := { s with bundle := s.bundle.filter fun a => !ofGroup gid a }
  let s := dropPends (withdrawRecs (dropFailed s gid) gid) fun p => p.loadOf gid
  wakeCaptures (freeGroup (dropEntries s gid killInQueue) gid)

end Sys2Proof.Machine
end

