-- ==== Sys2Proof/Machine/Control.lean ====
section
/-!
DEFINITION. Control flow and the other control instructions (08_thread R165 to R168; families 0x01 to 0x04).
-/

namespace Sys2Proof.Machine

/-- NOP (R168). -/
def execNop (o : OpR) (s : State) : Host.Outcome State Fault Refusal := issue s o.g {} [] fun e t => retire s e t

/-! ## Branches (R25, R44, R165) -/

/-- The J-format target, none where it is negative or has a bit of [63:56] (R25). -/
def relTarget (pc : DWord) (rel : BitVec 36) : Option DWord :=
  let v : Int := (pc.toNat : Int) + 8 * rel.toInt
  if v < 0 ∨ v ≥ 2 ^ 56 then none else some (BitVec.ofInt 64 v)

/-- The thread goes on at a J-format target, or traps 0x05 with nothing written (R25). -/
def jump (s : State) (e : Env) (t : Thread) (rel : BitVec 36) (link : Thread → Thread) : State :=
  match relTarget t.pc rel with
  | some pc => retireTo s e (link t) pc
  | none => trap s e.who 0x05 0 (wrapInt ((t.pc.toNat : Int) + 8 * rel.toInt) 56)

/-- The thread goes on at a register target, or traps under R44 with nothing written. -/
def jumpTo (s : State) (e : Env) (t : Thread) (c : DWord) (link : Thread → Thread) : State :=
  match targetFault c with
  | some code => trap s e.who code 0 (c.toNat % 2 ^ 56)
  | none => retireTo s e (link t) c

/-- BRA (R165). -/
def execBra (o : OpJ) (s : State) : Host.Outcome State Fault Refusal :=
  issue s o.g {} [] fun e t => jump s e t o.rel id

/-- CALL (R165): the link is the address of the next word. -/
def execCall (o : OpJ) (s : State) : Host.Outcome State Fault Refusal :=
  issue s o.g {} [.dp o.d] fun e t => jump s e t o.rel fun t => writePair t o.d.toNat (t.pc + 8)

/-- BRX (R165). -/
def execBrx (o : OpR) (s : State) : Host.Outcome State Fault Refusal :=
  issue s o.g {} [.sp o.a] fun e t => jumpTo s e t (readPair t o.a.toNat) id

/-- CALLX (R165): the target is read before the link is written. -/
def execCallx (o : OpR) (s : State) : Host.Outcome State Fault Refusal :=
  issue s o.g {} [.dp o.d, .sp o.a] fun e t =>
    jumpTo s e t (readPair t o.a.toNat) fun t => writePair t o.d.toNat (t.pc + 8)

/-- RET (R165). -/
def execRet (o : OpR) (s : State) : Host.Outcome State Fault Refusal :=
  issue s o.g {} [.sp o.a] fun e t => jumpTo s e t (readPair t o.a.toNat) id

/-! ## The end of a thread -/

/-- Has the thread a load or an atomic under way? -/
def hasPend (s : State) (a : Agent) : Bool := s.pends.any fun p => p.who == a && !p.drop

/-- EXIT (R166): every earlier instruction retires first. A dispatched lane becomes IDLE (R346); a steward or a sextant core
never issues again. -/
def execExit (o : OpR) (s : State) : Host.Outcome State Fault Refusal :=
  issue s o.g {} [] fun e t =>
    if hasPend s e.who then waitAt s e.who .pending
    else match e.who with
      | .thread gid tid => exitThread s gid tid
      | .lane c l => if l = 0 then setThread s e.who { t with st := .exited } else laneIdle s c l
      | _ => setThread s e.who { t with st := .exited, idemOff := false }

/-! ## Waiting -/

/-- The cycles of the clock under an agent, counted since its core left reset (R15). -/
def cyclesOf (s : State) (e : Env) : Nat :=
  match e.core with
  | some c => coreCycle s c
  | none => dieCycle s e.die - (getDie s e.die).sx.base

/-- Has entry `n` of a queue retired (R113)? -/
def seqRetired (k : EngQ) (n : Word) : Bool := (k.ret - n).toNat < 2 ^ 31

/-- The tests of R132 in their order: a status, or none while the entry is awaited. -/
def queueTest (k : EngQ) (n : Word) : Option Word :=
  if seqRetired k n then some 0
  else if (n - k.ret).toNat > (k.acc - k.ret).toNat then some 2
  else if k.st = .faulted ∨ k.st = .stopped then some 1
  else none

/-- What a parked YIELD's condition gives: its status where it holds (R167). -/
def yieldTest (s : State) (e : Env) (p : Park) : Option Word :=
  match p with
  | .sem n count _ _ _ => if (semSeen (getCore s e.coreNo) n e.ctx).value ≥ count then some 0 else none
  | .queue q n _ _ => queueTest (getQueue (getCore s e.coreNo) q) (BitVec.ofNat 32 n)
  | .tick t _ _ => if s.dev.tick ≥ t then some 0 else none
  | .fault _ _ _ _ => none

/-- A woken YIELD (R167): the status is written, the thread goes on at its continuation, with the acquire of its kind. -/
def yieldResume (s : State) (e : Env) (t : Thread) (p : Park) (st : Word) : State :=
  match p with
  | .sem _ _ scope d cont => retireTo (acquire s e scope) e (writeX t d st) cont
  | .queue _ _ d cont => retireTo (if st = 0 then acquire s e 4 else s) e (writeX t d st) cont
  | .tick _ d cont => retireTo s e (writeX t d st) cont
  | .fault _ _ _ _ => s

/-- The kind of a YIELD, and what R22 checks of it: not on a sextant core, a semaphore 0 to 31 or a queue 0 to 3. -/
def yieldKind (o : OpR) : Nat := modField o.mod 0 2
def yieldPolicy (o : OpR) : Policy :=
  { place := .compute, lim := fun _ => (yieldKind o == 0 && o.b.toNat > 31) || (yieldKind o == 1 && o.b.toNat > 3) }

/-- YIELD (R167). -/
def execYield (o : OpR) (s : State) : Host.Outcome State Fault Refusal :=
  let kind := yieldKind o
  issue s o.g (yieldPolicy o)
      [.dx o.d, .sp o.a, if kind = 2 then .sp o.c else .sx o.c] fun e t =>
    let c := readPair t o.a.toNat
    match targetFault c with
    | some code => trap s e.who code 0 (c.toNat % 2 ^ 56)
    | none =>
      let p : Park := match kind with
        | 0 => .sem o.b.toNat (readX t o.c.toNat).toNat (modField o.mod 2 3) o.d.toNat c
        | 1 => .queue o.b.toNat (readX t o.c.toNat).toNat o.d.toNat c
        | _ => .tick (readPair t o.c.toNat).toNat o.d.toNat c
      match yieldTest s e p with
      | some st => yieldResume s e t p st
      | none => setThread s e.who { t with st := .parked p, code := 0 }

/-- YIELD_WAKE (R167): a parked thread whose condition holds goes on. A thread of a HALTED group does not (R161). -/
def execYieldWake (s : State) : Host.Outcome State Fault Refusal :=
  let a := s.arg.who
  match getThread s a with
  | some t =>
    match t.st with
    | .parked p =>
      let e := envOf s a
      if e.inGroup && (e.group s).state != .running then .next s
      else match yieldTest s e p with
        | some st => .next (yieldResume s e t p st)
        | none => .next s
    | _ => .next s
  | none => .next s

/-- TRAP n (R168): complete, with trap 0x10 and argument n at the next word. -/
def execTrap (o : OpR) (s : State) : Host.Outcome State Fault Refusal :=
  issue s o.g {} [] fun e t => trap (setThread s e.who { t with pc := t.pc + 8 }) e.who 0x10 (o.b.zeroExtend 32)

/-- BRK (R168): complete, with trap 0x11 at the next word. -/
def execBrk (o : OpR) (s : State) : Host.Outcome State Fault Refusal :=
  issue s o.g {} [] fun e t => trap (setThread s e.who { t with pc := t.pc + 8 }) e.who 0x11

/-- SLEEP (R168): the thread waits for min(x[A], 2^20) cycles; a count of 0 only yields issue. -/
def execSleep (o : OpR) (s : State) : Host.Outcome State Fault Refusal :=
  issue s o.g {} [.sx o.a] fun e t =>
    let n := min (readX t o.a.toNat).toNat (2 ^ 20)
    if n = 0 then retire s e t
    else setThread s e.who { t with st := .waiting (.sleep (cyclesOf s e + n)) }

/-- SLEEP_EXPIRY (R168): the cycles have passed and the thread goes on. -/
def execSleepExpiry (s : State) : Host.Outcome State Fault Refusal :=
  let a := s.arg.who
  match getThread s a with
  | some t =>
    match t.st with
    | .waiting (.sleep u) =>
      let e := envOf s a
      if cyclesOf s e ≥ u then .next (retire s e t) else .next s
    | _ => .next s
  | none => .next s

end Sys2Proof.Machine
end

