-- ==== Sys2Proof/Machine/Messages.lean ====
section
/-!
DEFINITION. Messages between dies (16_link R312 to R315): sending, routes, transmission over links, and the requests of threads that
run ahead of their results (08_thread R159). A flit carries one message (notes/assumptions 10).
-/

namespace Sys2Proof.Machine

/-! ## Moving messages -/

/-- The two dies of a link, lower end first (R310). -/
def linkEnds (l : Nat) : Nat × Nat := if l < 15 then (l, l + 1) else if l = 15 then (0, 15) else (l - 15, 30 - l)

/-- The die a crossing ends at. -/
def farEnd (l : Nat) (up : Bool) : Nat := if up then (linkEnds l).2 else (linkEnds l).1

/-- The messages changed. -/
def modMsg (s : State) (id : Nat) (f : Msg → Msg) : State :=
  { s with msgs := s.msgs.map fun m => if m.id = id then f m else m }

/-- A message is put into the next flit of a link (R315). -/
def transmit (s : State) (m : Msg) (l : Nat) (up : Bool) : State :=
  modMsg (sendFlit s l up m.id) m.id fun m => { m with wire := true }

/-- Two messages of one source, destination and class keep their order (R313). -/
def sameFlow (a b : Msg) : Bool := a.src == b.src && a.dst == b.dst && a.response == b.response

/-- Is an earlier message of the die to the destination, of either class, still on its way by another route (R313)? -/
def oldRoute (s : State) (m : Msg) (r : List (Nat × Bool)) : Bool :=
  s.msgs.any fun x => x.id < m.id && x.src == m.src && x.dst == m.dst && x.at_ != x.dst && (x.wire || !x.path.isEmpty) && x.route != r

/-- Is an earlier message of the flow still without a route, or waiting to leave? -/
def behind (s : State) (m : Msg) : Bool :=
  s.msgs.any fun x => x.id < m.id && sameFlow x m && x.at_ == m.at_ && x.at_ != x.dst && !x.wire

/-- Is a message a control message of R315? It answers for a link that is DOWN, so it waits for no message that the link has cut
(notes/assumptions 93). -/
def Msg.control (m : Msg) : Bool := match m.body with | .control _ _ _ => true | _ => false

/-- A message that stands at a die on its way is given a route where it has none, or where its link is lost, and goes out on its
next link where that is up and has room (R315). -/
def pushMsg (s : State) (m : Msg) : State :=
  if m.wire || m.at_ = m.dst then s
  else
    let lost : Bool := match m.path with
      | [] => true
      | (l, _) :: _ => (getLink s l).state == .down || (getLink s l).state == .off
    let route := if lost then
        match routeOf s m.at_ m.dst with
        | some (r, d) =>
          let d := d || m.at_ != m.src
          if !m.control && (oldRoute s m r || behind s m) then none else some { m with path := r, route := r, detour := d }
        | none => none
      else some m
    match route with
    | none => s
    | some m =>
      let s := modMsg s m.id fun _ => m
      match m.path with
      | (l, up) :: _ => if linkUp s l && (dirOf (getLink s l) up).room then transmit s m l up else s
      | [] => s

/-- Every message that can move on does. -/
def pushMsgs (s : State) : State := s.msgs.foldl (fun s m => pushMsg s m) s

/-- A message is sent (R312). -/
def sendMsg (s : State) (src dst : Nat) (response : Bool) (body : MsgBody) : State :=
  let (id, s) := fresh s
  let m : Msg := { id := id, src := src, dst := dst, at_ := src, path := [], response := response, body := body }
  pushMsg { s with msgs := s.msgs ++ [m] } m

/-- A message is consumed at its destination; what waited behind it may move. -/
def takeMsg (s : State) (id : Nat) : State := pushMsgs { s with msgs := s.msgs.filter fun m => m.id != id }

/-- Has a message arrived, with every earlier one of its flow served or held for a stack (R303, R313), where it is no control message? -/
def arrived (s : State) (m : Msg) : Bool :=
  m.at_ == m.dst && !m.wire &&
    (m.control || !(s.msgs.any fun x => x.id < m.id && sameFlow x m && !(waitsAt s fun r => r == .msg x.id)))

/-- A message by its identity. -/
def findMsg (s : State) (id : Nat) : Option Msg := s.msgs.find? fun m => m.id == id

/-! ## Requests that run ahead -/

/-- Bytes of a load or store width code (R256). -/
def widthBytes (w : Nat) : Nat := match w with | 0 => 1 | 1 => 2 | 2 => 4 | 3 => 8 | 4 => 16 | 5 => 1 | _ => 2

/-- A load's value written by the width table of R256. -/
def writeWidth (t : Thread) (d width v : Nat) : Thread :=
  match width with
  | 3 => writePair t d (BitVec.ofNat 64 v)
  | 4 => writeQuad t d (BitVec.ofNat 128 v)
  | 5 => writeX t d (BitVec.ofInt 32 (signExt v 8))
  | 6 => writeX t d (BitVec.ofInt 32 (signExt v 16))
  | _ => writeX t d (BitVec.ofNat 32 v)

/-- The registers a width writes. -/
def widthRegs (d width : Nat) : List Nat :=
  if d = 0 then [] else match width with | 3 => [d, d + 1] | 4 => rangeFrom d 4 | _ => [d]

/-- The target a pending request was checked to. -/
def Pend.target (p : Pend) : Target :=
  { tag := p.tag, va := p.va, pva := p.va, gen := p.gen, home := p.home, frame := p.frame, attr := p.attr, level := p.level }

/-- A load or an atomic leaves its core as a message, and its thread goes on with the result outstanding (R159, R312). A request to a
port leaves the device, and its thread waits for the completion, which may make it trap (R319). -/
def sendPend (s : State) (e : Env) (t : Thread) (p : Pend) : State :=
  let (id, s) := fresh s
  let p := { p with id := id, who := e.who, pc := t.pc, core := e.coreNo, ctx := e.ctx, launch := (e.group s).launch,
                    save := { t.settled with st := .ready } }
  if p.host then
    setThread (sendPort { s with pends := s.pends ++ [p] } (portOf s e.ctx p.frame) id) e.who { t with st := .waiting (.port id) }
  else
  let t := { t with await := widthRegs p.d.toNat p.width ++ t.await }
  let s := retire { s with pends := s.pends ++ [p] } e t
  sendMsg s e.die p.home false (if p.atomic then .atomic id else .read id)

/-- Has the thread a request under way on the line of a target, by whatever page of its frame (R244, R263)? -/
def pendOnLine (s : State) (a : Agent) (t : Target) : Bool :=
  s.pends.any fun p => p.who == a && !p.drop && p.tag == t.tag && sameLine (p.va / 128) p.frame (t.va / 128) t.frame

/-- The requests of a thread that have returned let it go on. -/
def wakePend (s : State) (a : Agent) : State :=
  match getThread s a with
  | some t => match t.st with
    | .waiting .regs | .waiting .pending | .waiting (.drain _) => wake s a
    | _ => s
  | none => s

end Sys2Proof.Machine
end

