-- ==== Sys2Proof/Machine/LoadStore.lean ====
section
/-!
DEFINITION. Loads and stores of global memory and of scratch (13_access R256 to R260, 07_group R145; families 0x30 to 0x33).
-/

namespace Sys2Proof.Machine

/-! ## Scratch (R145) -/

/-- The rank and byte of a scratch offset. -/
def scratchRank (o : Nat) : Nat := field o 24 3
def scratchByte (o : Nat) : Nat := field o 0 24

/-- Does an access of `n` bytes lie outside the group's allocation? -/
def scratchOut (g : Group) (o n : Nat) : Bool :=
  o ≥ 2 ^ 27 || scratchRank o ≥ g.slices.length || scratchByte o + n > g.scratchSize

/-- The check of R256: range of the offset field 0x07, alignment 0x04, allocation 0x07. -/
def scratchFault (g : Group) (o n align : Nat) : Option Nat :=
  if o ≥ 2 ^ 27 then some 0x07
  else if o % align ≠ 0 then some 0x04
  else if scratchOut g o n then some 0x07
  else none

/-- Bytes of a group's scratch. -/
def scratchRead (g : Group) (o n : Nat) : List Byte := (rangeFrom o n).map fun i => SMap.get g.scratch i 0

/-- Does a read touch a poisoned word (R364)? -/
def scratchBad (g : Group) (o n : Nat) : Bool := g.badScratch.any fun w => o < 4 * w + 4 && 4 * w < o + n

/-- A group's scratch with bytes written. -/
def scratchWrite (g : Group) (o : Nat) (l : List Byte) : Group :=
  { g with scratch := (l.foldl (fun (acc : SMap Byte × Nat) v => (SMap.set acc.1 acc.2 v, acc.2 + 1)) (g.scratch, o)).1,
           badScratch := g.badScratch.filter fun w => 4 * w + 4 ≤ o || o + l.length ≤ 4 * w }

/-! ## Fields of the M format (R36) -/

def memWidth (o : OpM) : Nat := modField o.mod 0 3
def memCache (o : OpM) : Nat := modField o.mod 3 2
def memOrder (o : OpM) : Nat := modField o.mod 5 2
def memK (o : OpM) : Bool := o.mod.getLsbD 7

/-- The destination and source needs of a width. -/
def widthDest (d : RegNo) (w : Nat) : Need := match w with | 3 => .dp d | 4 => .dq d | _ => .dx d
def widthSrc (d : RegNo) (w : Nat) : Need := match w with | 3 => .sp d | 4 => .sq d | _ => .sx d

/-- The bytes a store takes. -/
def storeBytes (t : Thread) (d w : Nat) : List Byte :=
  match w with
  | 3 => toBytes (readPair t d).toNat 8
  | 4 => toBytes (readQuad t d).toNat 16
  | _ => toBytes (readX t d).toNat (widthBytes w)

/-- The address of LD and ST. -/
def memAddr (s : State) (e : Env) (t : Thread) (o : OpM) : DWord :=
  selPair s e t (memK o) o.b + o.off.signExtend 64

/-- The offset of LDSC and STSC. -/
def scratchAddr (s : State) (e : Env) (t : Thread) (o : OpM) : Word :=
  selX s e t (memK o) o.b + o.off.signExtend 32

/-- The access a thread makes. -/
def threadAcc (e : Env) (va : DWord) (n : Nat) : Acc :=
  { die := e.die, core := e.core, ctx := e.ctx, sup := e.sup, va := va.toNat, n := n, req := .agent e.who, view := e.view }

/-- Steps 1 and 2 of R224. -/
def addrFault (va n : Nat) : Option Nat := if !vaOk va then some 0x05 else if va % n ≠ 0 then some 0x04 else none

/-- A read that an instruction other than LD makes; it waits for the thread's loads under way (notes/assumptions 12). -/
def threadRead (s : State) (e : Env) (a : Acc) (m : LoadMode) : Except Stop (List Byte × State) :=
  if hasPend s e.who then .error (.wait .pending) else readRange s a m

/-! ## LD -/

/-- Is a load L1-served (R242)? -/
def loadL1 (s : State) (e : Env) (o : OpM) : Bool :=
  memCache o != 1 && !(memOrder o == 1 && wideScope s e o.scope.toNat)

/-- Can a request go to the target's port, if it has one, now (R14, R319)? -/
def portUp (s : State) (e : Env) (t : Target) : Bool :=
  paRegion t.frame != 3 || (portStop s t.home (portOf s e.ctx t.frame) t.va).isNone

/-- May a load go out as a message: nothing in the core holds its line, no order is asked of it, and, where it would retire at once, DBGST does not
step it (R365)? -/
def canDefer (s : State) (e : Env) (t : Target) (acq : Bool) : Bool :=
  s.defer && !acq && !t.hitL1 && (sbLine s e.core t).isEmpty && portUp s e t && (paRegion t.frame == 3 || !steps s e)

/-- Does an atomic or a bank operation go out as a message (R320): at a port, whatever its order, as its thread waits for the completion, and always
to a peer (R324); elsewhere where it acquires nothing and DBGST does not step it (R365)? -/
def goesOut (s : State) (e : Env) (t : Target) (acq : Bool) : Bool :=
  if paRegion t.frame = 3 then portUp s e t && (s.defer || portOf s e.ctx t.frame ≥ 4) else s.defer && !acq && !steps s e

/-- The request of a load. -/
def loadPend (o : OpM) (t : Target) (a : Acc) : Pend :=
  { id := 0, who := .sextant 0, core := 0, ctx := 0, atomic := false, d := o.d, width := memWidth o, va := a.va, tag := t.tag,
    gen := t.gen, home := t.home, frame := t.frame, attr := t.attr, level := t.level, install := a.l1,
    nt := memCache o == 2, host := paRegion t.frame == 3, l1 := a.l1 }

/-- A load whose address passed steps 1 and 2: its checks, then its value. -/
def loadFrom (s : State) (e : Env) (t : Thread) (o : OpM) (a : Acc) : State :=
  let acq := memOrder o == 1
  match check s a with
  | .error p => takeStop s e.who p
  | .ok (g, s') =>
    if pendOnLine s e.who g then waitAt s e.who .pending
    else if canDefer s e g acq then
      match dataFault s' g with
      | some f => takeFault s e.who f
      | none => sendPend { s' with defer := false } e t (loadPend o g a)
    else match readBytes s a { install := a.l1, nt := memCache o == 2 } with
      | .error p => takeStop s e.who p
      | .ok (b, s) =>
        retire (if acq then acquire s e o.scope.toNat else s) e (writeWidth t o.d.toNat (memWidth o) (ofBytes b))

/-- LD (R256). -/
def execLd (o : OpM) (s : State) : Host.Outcome State Fault Refusal :=
  issue s o.g {} [widthDest o.d (memWidth o), needSelPair (memK o) o.b] fun e t =>
    let va := memAddr s e t o
    let n := widthBytes (memWidth o)
    match addrFault va.toNat n with
    | some c => trap s e.who c 0 va.toNat
    | none =>
      if memOrder o == 1 && hasPend s e.who then waitAt s e.who .pending
      else loadFrom s e t o { threadAcc e va n with l1 := loadL1 s e o }

/-! ## ST -/

/-- A store whose checks passed: its release, then its place in the store buffer. -/
def storeTo (s : State) (e : Env) (t : Thread) (o : OpM) (g : Target) : State :=
  releaseThen s e t (if memOrder o = 2 then o.scope.toNat else 0) fun s =>
    match pushStore s e g (storeBytes t o.d.toNat (memWidth o)) (memCache o == 2) with
    | .error p => takeStop s e.who p
    | .ok s => retire s e t

/-- ST (R256). It waits for the thread's loads: no other thread, of the same core neither, may see it before they have returned (R239, R240). -/
def execSt (o : OpM) (s : State) : Host.Outcome State Fault Refusal :=
  issue s o.g {} [widthSrc o.d (memWidth o), needSelPair (memK o) o.b] fun e t =>
    let va := memAddr s e t o
    let n := widthBytes (memWidth o)
    match addrFault va.toNat n with
    | some c => trap s e.who c 0 va.toNat
    | none =>
      if hasPend s e.who then waitAt s e.who .pending
      else match check s { threadAcc e va n with kind := 1, write := true } with
      | .error p => takeStop s e.who p
      | .ok (g, s') => storeTo s' e t o g

/-! ## LDSC and STSC -/

/-- LDSC (R256). -/
def execLdsc (o : OpM) (s : State) : Host.Outcome State Fault Refusal :=
  issue s o.g { place := .group } [widthDest o.d (memWidth o), needSel (memK o) o.b] fun e t =>
    let n := widthBytes (memWidth o)
    let a := (scratchAddr s e t o).toNat
    let g := e.group s
    match scratchFault g a n n with
    | some c => trap s e.who c
    | none =>
      if scratchBad g a n then trap s e.who 0x08
      else if memOrder o == 1 && hasPend s e.who then waitAt s e.who .pending
      else
        let v := ofBytes (scratchRead g a n)
        retire (if memOrder o = 1 then acquire s e o.scope.toNat else s) e (writeWidth t o.d.toNat (memWidth o) v)

/-- STSC (R256); no store is performed before an earlier load of its thread has returned (R239, R240). -/
def execStsc (o : OpM) (s : State) : Host.Outcome State Fault Refusal :=
  issue s o.g { place := .group } [widthSrc o.d (memWidth o), needSel (memK o) o.b] fun e t =>
    let n := widthBytes (memWidth o)
    let a := (scratchAddr s e t o).toNat
    match scratchFault (e.group s) a n n with
    | some c => trap s e.who c
    | none =>
      if hasPend s e.who then waitAt s e.who .pending
      else releaseThen s e t (if memOrder o = 2 then o.scope.toNat else 0) fun s =>
        retire (modGroup s e.gid fun g => scratchWrite g a (storeBytes t o.d.toNat (memWidth o))) e t

end Sys2Proof.Machine
end

