-- ==== Sys2Proof/Machine/Atomic.lean ====
section
/-!
DEFINITION. Atomics (13_access R261 to R263; families 0x34 and 0x35).
-/

namespace Sys2Proof.Machine

/-! ## Fields (R261) -/

def atomWide (o : OpA) : Bool := modField o.mod 0 3 == 3
def atomBytes (o : OpA) : Nat := if atomWide o then 8 else 4
def atomScratch (o : OpA) : Bool := modField o.mod 3 2 == 1
def atomOrder (o : OpA) : Nat := modField o.mod 5 2
def atomAcq (o : OpA) : Bool := atomOrder o == 1 || atomOrder o == 3
def atomRel (o : OpA) : Bool := atomOrder o == 2 || atomOrder o == 3

/-- A register, or a pair at width 64, as a source and as a destination. -/
def wideSrc (w : Bool) (r : RegNo) : Need := if w then .sp r else .sx r
def wideDest (w : Bool) (r : RegNo) : Need := if w then .dp r else .dx r
def wideRead (t : Thread) (w : Bool) (r : RegNo) : Nat :=
  if w then (readPair t r.toNat).toNat else (readX t r.toNat).toNat
def wideWrite (t : Thread) (w : Bool) (r : RegNo) (v : Nat) : Thread :=
  if w then writePair t r.toNat (BitVec.ofNat 64 v) else writeX t r.toNat (BitVec.ofNat 32 v)

/-- The operands an atomic names: a pair or a scratch offset in A, B, C for CAS, and D for ATOM. -/
def atomNeeds (o : OpA) (red : Bool) : List Need :=
  (if red then [] else [wideDest (atomWide o) o.d]) ++
  [if atomScratch o then .sx o.a else .sp o.a, wideSrc (atomWide o) o.b] ++
  (if o.op = .cas then [wideSrc (atomWide o) o.c] else [])

/-- The policy: the scratch space is in groups only (R261, R389). -/
def atomPolicy (o : OpA) : Policy := { ill := fun e => atomScratch o && !e.inGroup }

/-! ## Scratch -/

/-- An atomic on scratch, performed at its slice. -/
def atomScratchAt (s : State) (e : Env) (t : Thread) (o : OpA) (red : Bool) : State :=
  let n := atomBytes o
  let a := (readX t o.a.toNat).toNat
  let g := e.group s
  match scratchFault g a n n with
  | some c => trap s e.who c
  | none =>
    if scratchBad g a n then trap s e.who 0x08
    else if hasPend s e.who then waitAt s e.who .pending
    else releaseThen s e t (if atomRel o then o.scope.toNat else 0) fun s =>
      let old := scratchRead g a n
      let s := match atomicBytes o.op n (wideRead t (atomWide o) o.b) (wideRead t (atomWide o) o.c) old with
        | some new => modGroup s e.gid fun g => scratchWrite g a new
        | none => s
      retire (if atomAcq o then acquire s e o.scope.toNat else s) e
        (if red then t else wideWrite t (atomWide o) o.d (ofBytes old))

/-! ## Global memory -/

/-- What stops an atomic after step 7 of R224: an operation a host port does not carry (R320), a stranded line for ATOM (R362),
a poisoned line (R364). -/
def atomFault (s : State) (o : OpA) (red : Bool) (g : Target) : Option AFault :=
  if paRegion g.frame == 3 && field g.frame 44 2 == 0 && !portCarries red o.op then some { code := 5, va := g.va }
  else match dataFault s g with
    | some f => if f.code = 9 ∧ red then none else some f
    | none => none

/-- The request of an atomic. -/
def atomPend (t : Thread) (o : OpA) (red : Bool) (g : Target) : Pend :=
  { id := 0, who := .sextant 0, core := 0, ctx := 0, atomic := true, op := o.op, wide := atomWide o,
    b := BitVec.ofNat 64 (wideRead t (atomWide o) o.b), c := BitVec.ofNat 64 (wideRead t (atomWide o) o.c),
    d := if red then 0 else o.d, red := red, width := if atomWide o then 3 else 2, va := g.va, tag := g.tag, gen := g.gen, home := g.home,
    frame := g.frame, attr := g.attr, level := g.level, host := paRegion g.frame == 3, acq := if atomAcq o then o.scope.toNat else 0 }

/-- A thread whose own stores to a location cannot be performed yet waits for them. -/
def waitFlush (s : State) (e : Env) : State :=
  waitAt (modThread s e.who fun u => { u with relBound := some s.uid }) e.who (.drain s.uid)

/-- The indivisible step at the home (R263): the thread's own entries for the line first, then the read and the write, and the
core's L1 line dropped. -/
def atomAtHome (s : State) (e : Env) (t : Thread) (o : OpA) (red : Bool) (g : Target) : State :=
  let n := atomBytes o
  match flushTarget s e g with
  | none => waitFlush s e
  | some s =>
    if goesOut s e g (atomAcq o) then
      sendPend { dropL1Line s e.core g.tag (g.va / 128) g.frame with defer := false } e t (atomPend t o red g)
    else match homeUpdate s (.agent e.who) e.who e.ctx true g n
        (atomicBytes o.op n (wideRead t (atomWide o) o.b) (wideRead t (atomWide o) o.c)) true (e.group s).launch with
      | .error p => takeStop s e.who p
      | .ok (old, s) =>
        let s := dropL1Line s e.core g.tag (g.va / 128) g.frame
        retire (if atomAcq o then acquire s e o.scope.toNat else s) e
          (if red then t else wideWrite t (atomWide o) o.d (ofBytes old))

/-- An atomic on global memory; like a store, it waits for the thread's loads (R239, R240). -/
def atomGlobal (s : State) (e : Env) (t : Thread) (o : OpA) (red : Bool) : State :=
  let va := readPair t o.a.toNat
  let n := atomBytes o
  match addrFault va.toNat n with
  | some c => trap s e.who c 0 va.toNat
  | none =>
    if hasPend s e.who then waitAt s e.who .pending
    else match check s { threadAcc e va n with kind := 3, write := true, plain := true, l1 := false } with
      | .error p => takeStop s e.who p
      | .ok (g, s') =>
        match atomFault s' o red g with
        | some f => takeFault s e.who f
        | none => releaseThen s' e t (if atomRel o then o.scope.toNat else 0) fun s => atomAtHome s e t o red g

/-- ATOM and RED share their checks and their step. -/
def atomBody (s : State) (e : Env) (t : Thread) (o : OpA) (red : Bool) : State :=
  if atomScratch o then atomScratchAt s e t o red else atomGlobal s e t o red

/-- ATOM (R261 to R263). -/
def execAtom (o : OpA) (s : State) : Host.Outcome State Fault Refusal :=
  issue s o.g (atomPolicy o) (atomNeeds o false) fun e t => atomBody s e t o false

/-- RED (R261 to R263). -/
def execRed (o : OpA) (s : State) : Host.Outcome State Fault Refusal :=
  issue s o.g (atomPolicy o) (atomNeeds o true) fun e t => atomBody s e t o true

end Sys2Proof.Machine
end

