-- ==== Sys2Proof/Machine/Bank.lean ====
section
/-!
DEFINITION. Bank operations (13_access R268 to R270; family 0x37).
-/

namespace Sys2Proof.Machine

/-- Steps 1 to 3 of the line address (R268). -/
def bankFault (va : Nat) : Option Nat :=
  if !vaOk va then some 0x05
  else if vaPlc va < 16 ∨ vaPlc va > 31 then some 0x05
  else if va % 128 ≠ 0 then some 0x04
  else none

/-- The checks of the scratch source (R269). -/
def bankSourceFault (g : Group) (o : Nat) : Option Nat :=
  if o % 128 ≠ 0 then some 0x04 else if scratchOut g o 128 then some 0x07 else none

/-- The access of a bank operation. -/
def bankAcc (e : Env) (va : DWord) (write : Bool) : Acc :=
  { threadAcc e va 128 with kind := 3, write := write, plain := true, l1 := false }

/-- Word-wise change of a line's bytes by source bytes. -/
def bankWords (f : Word → Word → Word) (old src : List Byte) : List Byte :=
  (upTo 32).flatMap fun i =>
    toBytes (f (BitVec.ofNat 32 (ofBytes (sliceBytes old (4 * i) 4))) (BitVec.ofNat 32 (ofBytes (sliceBytes src (4 * i) 4)))).toNat 4

/-- The function of a vector form (R269): BKVADDF, BKVADDI, BKVMAXF, BKVMAXA, for which the source's sign bit is cleared, and BKVADDH, two halves,
FP16 or BF16 by MOD[0]. -/
def bankFun (q : BankReq) : Word → Word → Word :=
  match q.fn with
  | 0 => foldOp 8
  | 1 => fun w v => w + v
  | 2 => foldOp 10
  | 3 => fun w v => foldOp 10 w (v &&& 0x7FFFFFFF)
  | _ => half2 (if bit q.mod 0 then .bf16 else .fp16) fun a b => a.add b .rne

/-- The fold of BKRED (R270): codes 0 to 10 of R203, or 11, the largest magnitude. -/
def bankFold (code : Nat) (l : List Word) : Word :=
  if code = 11 then (foldScan 10 (l.map fun w => w &&& 0x7FFFFFFF)).getLastD 0
  else (foldScan code l).getLastD 0

/-- The words of a line's bytes. -/
def wordsOf (b : List Byte) : List Word := (upTo 32).map fun i => BitVec.ofNat 32 (ofBytes (sliceBytes b (4 * i) 4))

/-- A bank operation at the bank unit (R269, R270): a vector form updates the line's words, and leaves a poisoned line as it is (R364); BKRED
answers its fold. -/
def bankStep (s : State) (r : Req) (who : Agent) (ctx : Nat) (g : Target) (q : BankReq) (launch : Nat := 0) : Except Stop (Nat × State) :=
  if q.fn = 5 then (homeUpdate s r who ctx true g 128 fun _ => none).map fun x => ((bankFold q.mod (wordsOf x.1)).toNat, x.2)
  else if poisoned s g.pa 128 then .ok (0, s)
  else
    (homeUpdate s r who ctx true g 128 (fun old => some (bankWords (bankFun q) old (lineBytes q.src 0 128))) true launch).map fun x => (0, x.2)

/-- The request of a bank operation that goes out as a message (R320). -/
def bankPend (d : RegNo) (g : Target) (q : BankReq) : Pend :=
  { id := 0, who := .sextant 0, core := 0, ctx := 0, atomic := true, red := q.fn != 5, d := d, va := g.va, tag := g.tag, gen := g.gen, home := g.home,
    frame := g.frame, attr := g.attr, level := g.level, bank := some q }

/-- A bank operation whose checks passed, the thread's own stores to the line first: under way as a message (R269, R320), or done at once. Its core's L1
line goes, so that no later load of the thread there is older (R244, R246). -/
def bankGo (s : State) (e : Env) (t : Thread) (g : Target) (q : BankReq) (d : RegNo) (scope : Nat) : State :=
  match flushTarget s e g with
  | none => waitFlush s e
  | some s =>
    let s := dropL1Line s e.core g.tag (g.va / 128) g.frame
    if goesOut s e g (scope != 0) then sendPend { s with defer := false } e t (bankPend d g q)
    else match bankStep s (.agent e.who) e.who e.ctx g q (e.group s).launch with
      | .error p => takeStop s e.who p
      | .ok (v, s) =>
        let s := dropL1Line s e.core g.tag (g.va / 128) g.frame
        retire (if scope = 0 then s else acquire s e scope) e (if q.fn = 5 then writeX t d.toNat (BitVec.ofNat 32 v) else t)

/-- A vector bank operation (R268, R269). -/
def bankVector (s : State) (o : OpS) (fn : Nat) : Host.Outcome State Fault Refusal :=
  issue s o.g { place := .group } [.sp o.a, .sx o.b] fun e t =>
    let va := readPair t o.a.toNat
    let off := (readX t o.b.toNat).toNat
    match bankFault va.toNat with
    | some c => trap s e.who c 0 va.toNat
    | none =>
      match bankSourceFault (e.group s) off with
      | some c => trap s e.who c
      | none =>
        match check s (bankAcc e va true) with
        | .error p => takeStop s e.who p
        | .ok (g, s') =>
          if scratchBad (e.group s) off 128 then trap s e.who 0x08
          else if hasPend s e.who then waitAt s e.who .pending
          else releaseThen s' e t o.scope.toNat fun s =>
            bankGo s e t g { fn := fn, mod := o.mod.toNat, src := lineOf (scratchRead (e.group s) off 128) } 0 0

/-- BKVADDF (R269). -/
def execBkvaddf (o : OpS) (s : State) : Host.Outcome State Fault Refusal := bankVector s o 0

/-- BKVADDI (R269). -/
def execBkvaddi (o : OpS) (s : State) : Host.Outcome State Fault Refusal := bankVector s o 1

/-- BKVMAXF (R269). -/
def execBkvmaxf (o : OpS) (s : State) : Host.Outcome State Fault Refusal := bankVector s o 2

/-- BKVMAXA (R269). -/
def execBkvmaxa (o : OpS) (s : State) : Host.Outcome State Fault Refusal :=
  bankVector s o 3

/-- BKVADDH (R269). -/
def execBkvaddh (o : OpS) (s : State) : Host.Outcome State Fault Refusal :=
  bankVector s o 4

/-- BKRED (R270). -/
def execBkred (o : OpS) (s : State) : Host.Outcome State Fault Refusal :=
  issue s o.g { place := .compute } [.dx o.d, .sp o.a] fun e t =>
    let va := readPair t o.a.toNat
    match bankFault va.toNat with
    | some c => trap s e.who c 0 va.toNat
    | none =>
      match check s (bankAcc e va false) with
      | .error p => takeStop s e.who p
      | .ok (g, s') =>
        match dataFault s' g with
        | some f => takeFault s e.who f
        | none =>
          if hasPend s e.who then waitAt s e.who .pending
          else bankGo s' e t g { fn := 5, mod := modField o.mod 0 4 } o.d o.scope.toNat

end Sys2Proof.Machine
end

