-- ==== Sys2Proof/Machine/Barrier.lean ====
section
/-!
DEFINITION. Tumblers and barriers (10_barrier R190 to R204; family 0x21 and FN 0 to 3 of family 0x22). They execute in groups only
(R389).
-/

namespace Sys2Proof.Machine

/-- The scope field of families 0x21 and 0x22 (R190). -/
def syncScope (mod : BitVec 8) : Nat := modField mod 0 3

/-- The shared policy: group threads only. -/
def groupOnly : Policy := { place := .group }

/-! ## Tumblers (R198, R202) -/

/-- What a thread brings to a rendezvous. -/
def arrivalOf (e : Env) (t : Thread) (o : OpR) : Arrival :=
  { lane := e.lane, tid := e.tid, d := o.d, va := readX t o.a.toNat, vb := readX t o.b.toNat, vp := readP t o.a.toNat }

/-- The thread arrives with the mask in x[C]. -/
def tumbleWith (s : State) (e : Env) (t : Thread) (o : OpR) (fn : Nat) : State :=
  tumble s e.gid fn o.mod (readX t o.c.toNat) (arrivalOf e t o)

/-- TUMB (R201, R202): a release at its scope before the arrival, an acquire at the turn. -/
def execTumb (o : OpR) (s : State) : Host.Outcome State Fault Refusal :=
  issue s o.g groupOnly [.sx o.c] fun e t => releaseThen s e t (syncScope o.mod) fun s => tumbleWith s e t o 0

/-- XSHF (R202). -/
def execXshf (o : OpR) (s : State) : Host.Outcome State Fault Refusal :=
  issue s o.g groupOnly [.dx o.d, .sx o.a, .sx o.b, .sx o.c] fun e t => tumbleWith s e t o 1

/-- XRED (R203). -/
def execXred (o : OpR) (s : State) : Host.Outcome State Fault Refusal :=
  issue s o.g groupOnly [.dx o.d, .sx o.a, .sx o.c] fun e t => tumbleWith s e t o 2

/-- XSCN (R203). -/
def execXscn (o : OpR) (s : State) : Host.Outcome State Fault Refusal :=
  issue s o.g groupOnly [.dx o.d, .sx o.a, .sx o.c] fun e t => tumbleWith s e t o 3

/-- XBAL (R204). -/
def execXbal (o : OpR) (s : State) : Host.Outcome State Fault Refusal :=
  issue s o.g groupOnly [.dx o.d, .pr o.a, .sx o.c] fun e t => tumbleWith s e t o 4

/-- XVOTE (R204). -/
def execXvote (o : OpR) (s : State) : Host.Outcome State Fault Refusal :=
  issue s o.g groupOnly [.pr o.d, .pr o.a, .sx o.c] fun e t => tumbleWith s e t o 5

/-! ## Barriers (R192 to R195) -/

/-- The barrier a word names, and its phase. -/
def phaseOf (s : State) (e : Env) (n : Nat) : Word := (getBar (e.group s) n).phase

/-- BARI (R192, R194). -/
def execBari (o : OpR) (s : State) : Host.Outcome State Fault Refusal :=
  issue s o.g groupOnly [.bar o.b, .sx o.a] fun e t =>
    let n := (readX t o.a.toNat).toNat
    let b := getBar (e.group s) o.b.toNat
    if n > 65535 then trap s e.who 0x02
    else if b.arr ≠ 0 then trap s e.who 0x0D
    else
      let b := if n = 0 then { b with all := true } else { b with all := false, exp := n }
      retire (modGroup s e.gid fun g => { g with bars := SMap.set g.bars o.b.toNat b }) e t

/-- An arrival of R194 with its release (R195): trap 0x0D before anything, then the rest with the token. -/
def arriveThen (s : State) (e : Env) (t : Thread) (n scope : Nat) (k : State → Word → State) : State :=
  if arriveBad (e.group s) n e.tid then trap s e.who 0x0D
  else releaseThen s e t scope fun s => k (arrive s e.gid n e.tid) (phaseOf s e n)

/-- BARA (R194): x[D] receives the phase token. -/
def execBara (o : OpR) (s : State) : Host.Outcome State Fault Refusal :=
  issue s o.g groupOnly [.dx o.d, .bar o.b] fun e t =>
    arriveThen s e t o.b.toNat (syncScope o.mod) fun s tok => retire s e (writeX t o.d.toNat tok)

/-- The wait of R194 on a token. -/
def waitBar (s : State) (e : Env) (t : Thread) (n : Nat) (tok : Word) (scope : Nat) (bars : Bool) : State :=
  if phaseOf s e n = tok then setThread s e.who { t with st := .waiting (.barw n tok scope bars), relBound := none }
  else retire (acquire s e scope) e t

/-- BARW (R194): a token of a phase not yet begun traps 0x0D. -/
def execBarw (o : OpR) (s : State) : Host.Outcome State Fault Refusal :=
  issue s o.g groupOnly [.bar o.b, .sx o.a] fun e t =>
    let tok := readX t o.a.toNat
    let d := (tok - phaseOf s e o.b.toNat).toNat
    if d ≠ 0 ∧ d < 2 ^ 31 then trap s e.who 0x0D
    else waitBar s e t o.b.toNat tok (syncScope o.mod) false

/-- BARS (R194): arrive, then wait on the token of that arrival. -/
def execBars (o : OpR) (s : State) : Host.Outcome State Fault Refusal :=
  issue s o.g groupOnly [.bar o.b] fun e t =>
    arriveThen s e t o.b.toNat (syncScope o.mod) fun s tok => waitBar s e t o.b.toNat tok (syncScope o.mod) true

end Sys2Proof.Machine
end

