-- ==== Sys2Proof/Machine/EngineQ.lean ====
section
/-!
DEFINITION. The instructions of the engine queues (06_queue R123 to R133; family 0x39), the check of a template at ENQ (R127, 17_frame
R327, R338), and the retry of an ENQ that waits.
-/

namespace Sys2Proof.Machine

/-! ## Templates at ENQ -/

/-- An address pair of a template: bits [55:0] and the space code. -/
def tplAddr (t : BitVec 256) (w : Nat) : Nat := field t.toNat (32 * w) 56
def tplSpace (t : BitVec 256) (w : Nat) : Nat := field t.toNat (32 * w + 56) 8
/-- A stride, signed. -/
def tplStride (t : BitVec 256) (w : Nat) : Int := signExt (tplWord t w) 32
/-- Row bytes and rows of a copy template. -/
def tplRb (t : BitVec 256) : Nat := field t.toNat 32 16
def tplRows (t : BitVec 256) : Nat := field t.toNat 48 16

/-- The address of row `r`, as an integer. -/
def rowAddr (t : BitVec 256) (w sw r : Nat) : Int := (tplAddr t w : Int) + (r : Int) * tplStride t sw

/-- Is one side of a copy template malformed: its space code, its address bits, a tile the context may not use (R281), or a row
outside its tile or the group's scratch? -/
def copySideBad (k : Core) (ctx : Nat) (g : Group) (t : BitVec 256) (w sw : Nat) : Bool :=
  let a := tplAddr t w
  let rb := tplRb t
  let rows := if rb = 0 then 0 else tplRows t
  match tplSpace t w with
  | 0 => false
  | 1 => a ≥ 2 ^ 27 || (upTo rows).any fun r =>
      let x := rowAddr t w sw r
      x < 0 || scratchOut g x.toNat rb
  | 2 => a ≥ 2 ^ 16 || !tileUsable k (a / 4096) ctx || (upTo rows).any fun r =>
      let x := ((a % 4096 : Nat) : Int) + (r : Int) * tplStride t sw
      x < 0 || x.toNat + rb > 4096
  | _ => true

/-- Is a copy template malformed? -/
def copyBad (k : Core) (ctx : Nat) (g : Group) (t : BitVec 256) : Bool :=
  bit t.toNat 31 || copySideBad k ctx g t 2 6 || copySideBad k ctx g t 4 7

/-- Are FSLOT and FEN zero, and bit 31? -/
def noFollow (t : BitVec 256) : Bool := !bit t.toNat 31 && !tplFen t && tplFslot t == 0

/-- Is a matrix template malformed in its fields or codes? -/
def matrixBad (t : BitVec 256) : Bool :=
  let m := matOf t
  !noFollow t || field t.toNat 64 192 != 0 || m.op == 3 || m.ea > 10 || m.acc > 10 || m.eb > 10 || !comboOk m ||
    (m.op != 1 && m.gran == 0 && m.ts != 0) || (m.op == 1 && (m.ts != 0 || m.gran != 0)) ||
    (m.op == 2 && (m.tb != 0 || m.eb != 0))

/-- Is a ray template malformed (R338)? -/
def rayBad (g : Group) (t : BitVec 256) : Bool :=
  let c := field t.toNat 128 6
  !noFollow t || tplAddr t 2 % 64 != 0 || tplSpace t 2 != 0 || field t.toNat 134 122 != 0 || c > 56 ||
    tplWord t 1 % 16 != 0 || scratchOut g (tplWord t 1) (16 * (c + 9))

/-- The operation of a tiler-feed template (R327): 0 BEGIN, 1 PRIMS, 2 END, 3 RELEASE. -/
def feedOp (t : BitVec 256) : Nat := field t.toNat 38 2

/-- Is a tiler-feed template malformed (R327)? -/
def feedBad (t : BitVec 256) : Bool :=
  let op := feedOp t
  let a := tplAddr t 2
  !noFollow t || field t.toNat 40 24 != 0 || tplSpace t 2 != 0 || field t.toNat 160 96 != 0 ||
    (op == 0 && a % 64 != 0) || (op == 1 && a % 16 != 0) || (op ≥ 2 && (a != 0 || tplWord t 4 != 0))

/-- The check of R127 of a patched template, with a follow-on's slot; the trap code. -/
def templateFault (s : State) (e : Env) (q : Nat) (t : BitVec 256) : Option Nat :=
  let k := getCore s e.coreNo
  let g := e.group s
  let bad := match q with
    | 0 =>
      copyBad k e.ctx g t || (tplFen t &&
        ((getTemplate k 1 (tplFslot t)).owner != some e.ctx || matrixBad (getTemplate k 1 (tplFslot t)).words))
    | 1 => matrixBad t
    | 2 => rayBad g t
    | _ => feedBad t
  if bad then some 0x0B
  else if q = 1 ∧ ¬ matReady k (matOf t) e.ctx then some 0x0E
  else none

/-- A template slot changed. -/
def setTemplate (s : State) (core q n : Nat) (v : Template) : State :=
  modCore s core fun k => { k with templates := SMap.set k.templates (64 * q + n) v }

/-! ## ENQ (R129) -/

/-- The entry that a template makes, with what acceptance captures. -/
def entryOf (s : State) (e : Env) (q slot : Nat) (t : BitVec 256) (bad : Bool) : Entry :=
  let k := getCore s e.coreNo
  { gid := e.gid, ctx := e.ctx, launch := (e.group s).launch, slot := slot, tpl := t, bad := bad,
    tcs := if q = 1 then captureTcs k (matOf t) else [],
    follow := if q = 0 ∧ tplFen t then some (getTemplate k 1 (tplFslot t)).words else none
    followBad := q == 0 && tplFen t && (getTemplate k 1 (tplFslot t)).bad }

/-- ENQ writes its number and status and retires. -/
def enqDone (s : State) (e : Env) (t : Thread) (d : Nat) (seq : Word) (st : Nat) : State :=
  retire s e (writePair t d (BitVec.ofNat 64 (seq.toNat + 2 ^ 32 * st)))

/-- ENQ from its read of the slot on, with the patch word. -/
def enqRun (s : State) (e : Env) (t : Thread) (q d pw : Nat) (try_ : Bool) : State :=
  let slot := field pw 26 6
  let v := getTemplate (getCore s e.coreNo) q slot
  if v.owner != some e.ctx then trap s e.who 0x0B
  else
    let tpl := tplPatch v.words (field pw 22 4) (field pw 0 16)
    let keep (s : State) : State := if bit pw 21 then setTemplate s e.coreNo q slot { v with words := tpl } else s
    if bit pw 20 then enqDone (keep s) e t d 0 2
    else match templateFault s e q tpl with
      | some c => trap s e.who c
      | none =>
        if queueFull s e.coreNo q then
          if try_ then enqDone s e t d 0 1
          else setThread s e.who { t with st := .waiting (.enq q (BitVec.ofNat 8 d) (BitVec.ofNat 32 pw)) }
        else
          let (seq, s') := acceptEntry (keep s) e.coreNo q (entryOf s e q slot tpl v.bad)
          enqDone s' e t d seq 0

/-- A queue number of the engines, and of the pending queues. -/
def notEngine (o : OpE) : Env → Bool := fun _ => o.q.toNat > 3
def notPending (o : OpE) : Env → Bool := fun _ => o.q.toNat < 16 || o.q.toNat > 19

/-- ENQ (R129). -/
def execEnq (o : OpE) (s : State) : Host.Outcome State Fault Refusal :=
  issue s o.g { place := .group, lim := notEngine o } [.dp o.d, .sx o.b] fun e t =>
    let pw := (readX t o.b.toNat).toNat
    if field pw 16 4 ≠ 0 ∨ (bit pw 20 ∧ ¬ bit pw 21) then trap s e.who 0x0B
    else enqRun s e t o.q.toNat o.d.toNat pw (o.mod.getLsbD 0)

/-- ENQ_SPACE_RETRY (R129): the thread `who` that waits at a queue no longer full reads, patches and checks its slot again, after those of its
bundle with a lower tid (R164). -/
def execEnqSpaceRetry (s : State) : Host.Outcome State Fault Refusal :=
  match getThread s s.arg.who with
  | some t =>
    match t.st with
    | .waiting (.enq q d pw) =>
      let e := envOf s s.arg.who
      if (e.group s).state != .running || !coreOn s e.coreNo || queueFull s e.coreNo q || !bundleTurn s s.arg.who then .next s
      else .next (enqRun s e t q d.toNat pw.toNat false)
    | _ => .next s
  | none => .next s

/-! ## TPLW (R130) -/

/-- TPLW (R130). -/
def execTplw (o : OpE) (s : State) : Host.Outcome State Fault Refusal :=
  issue s o.g { place := .group, lim := notEngine o } [.sp o.a, .sx o.b] fun e t =>
    let n := (readX t o.b.toNat).toNat
    let va := readPair t o.a.toNat
    if n > 63 then trap s e.who 0x02
    else if va.toNat % 32 ≠ 0 then trap s e.who 0x04 0 va.toNat
    else match threadRead s e (threadAcc e va 32) {} with
      | .error p => takeStop s e.who p
      | .ok (b, s) =>
        retire (setTemplate s e.coreNo o.q.toNat n { words := BitVec.ofNat 256 (ofBytes b), owner := some e.ctx }) e t

/-! ## QSTAT and QWAIT (R131, R132) -/

/-- The state code of R117. -/
def qstateCode (st : QState) : Nat :=
  match st with
  | .idle => 0 | .waiting => 1 | .running => 2 | .faulted => 3 | .stopping => 4 | .stopped => 5

/-- QCTL, QSEQ, QFLT and QFVA as they read (R122). -/
def readQctl (k : EngQ) : Nat := qstateCode k.st + 2 ^ 8 * k.entries.length
def readQseq (k : EngQ) : Nat := k.ret.toNat + 2 ^ 32 * k.acc.toNat
def readQflt (k : EngQ) : Nat :=
  (k.ret + 1).toNat + 2 ^ 32 * (if k.st = .faulted then k.code else 0) + 2 ^ 40 * k.hst + 2 ^ 48 * (k.prog % 2 ^ 16)
def readQfva (k : EngQ) : Nat := k.va % 2 ^ 56

/-- The items of a pending queue of the issuing core. -/
def pendKey (e : Env) (q : Nat) : Nat := 4 * e.rank + (q - 16)
def pendItems (s : State) (e : Env) (q : Nat) : List Word := SMap.get (e.group s).pend (pendKey e q) []
def setItems (s : State) (e : Env) (q : Nat) (l : List Word) : State :=
  modGroup s e.gid fun g => { g with pend := SMap.set g.pend (pendKey e q) l }

/-- QSTAT (R131). -/
def execQstat (o : OpE) (s : State) : Host.Outcome State Fault Refusal :=
  let sel := modField o.mod 0 2
  let lim (_ : Env) : Bool :=
    (o.q.toNat > 3 && o.q.toNat < 16) || o.q.toNat > 19 || (o.q.toNat ≥ 16 && sel != 0)
  issue s o.g { place := .group, lim := lim } [.dp o.d] fun e t =>
    let k := getQueue (getCore s e.coreNo) o.q.toNat
    let v : Nat :=
      if o.q.toNat ≥ 16 then (pendItems s e o.q.toNat).length + 64 * 2 ^ 32
      else match sel with
        | 0 => k.ret.toNat + 2 ^ 32 * readQctl k
        | 1 => readQflt k
        | _ => readQfva k
    retire s e (writePair t o.d.toNat (BitVec.ofNat 64 v))

/-- QWAIT (R132): status 0 is an acquire. -/
def execQwait (o : OpE) (s : State) : Host.Outcome State Fault Refusal :=
  issue s o.g { place := .group, lim := notEngine o } [.dx o.d, .sx o.b] fun e t =>
    let n := readX t o.b.toNat
    match queueTest (getQueue (getCore s e.coreNo) o.q.toNat) n with
    | some st => retire (if st = 0 then acquire s e 4 else s) e (writeX t o.d.toNat st)
    | none => waitAt s e.who (.qwait o.q.toNat n.toNat)

/-! ## QPUSH and QPOP (R133) -/

/-- QPUSH: 1 where the queue holds 64 items. -/
def execQpush (o : OpE) (s : State) : Host.Outcome State Fault Refusal :=
  issue s o.g { place := .group, lim := notPending o } [.dx o.d, .sx o.b] fun e t =>
    let l := pendItems s e o.q.toNat
    if l.length ≥ 64 then retire s e (writeX t o.d.toNat 1)
    else retire (setItems s e o.q.toNat (l ++ [readX t o.b.toNat])) e (writeX t o.d.toNat 0)

/-- QPOP: the pair x[D] receives the oldest item and 0, or 0 and 1. -/
def execQpop (o : OpE) (s : State) : Host.Outcome State Fault Refusal :=
  issue s o.g { place := .group, lim := notPending o } [.dp o.d] fun e t =>
    match pendItems s e o.q.toNat with
    | [] => retire s e (writePair t o.d.toNat (BitVec.ofNat 64 (2 ^ 32)))
    | v :: r => retire (setItems s e o.q.toNat r) e (writePair t o.d.toNat (BitVec.ofNat 64 v.toNat))

end Sys2Proof.Machine
end

