-- ==== Sys2Proof/Machine/TileInsn.lean ====
section
/-!
DEFINITION. The thread tile instructions (14_tile R279 to R281, R292; family 0x3A). None executes on a sextant core; a service lane
acts as a thread of context 0 (18_faults R389).
-/

namespace Sys2Proof.Machine

/-- The tile of the issuing core that a field names. -/
def tileOf (s : State) (e : Env) (n : RegNo) : Tile := getTile (getCore s e.coreNo) n.toNat

/-- Is the tile usable by the thread's context (R281)? -/
def tileOkFor (s : State) (e : Env) (n : RegNo) : Bool := tileUsable (getCore s e.coreNo) n.toNat e.ctx

/-- TCFG (R280, R292). -/
def execTcfg (o : OpR) (s : State) : Host.Outcome State Fault Refusal :=
  issue s o.g { place := .compute } [.dx o.d, .tile o.a, .sx o.b] fun e t =>
    let v := (readX t o.b.toNat).toNat
    let w := tileOf s e o.a
    if v ≥ 2 ^ 17 then trap s e.who 0x02
    else if !tcOk v then trap s e.who 0x0E
    else if w.owner.isSome && w.owner != some e.ctx then retire s e (writeX t o.d.toNat 1)
    else
      let s := modTile s e.coreNo o.a.toNat fun w => clearLmask { w with tc := v, owner := some e.ctx }
      retire s e (writeX t o.d.toNat 0)

/-- The word TCFGR returns (R279, R281). -/
def tcfgrWord (w : Tile) (ctx : Nat) : Nat :=
  match w.owner with
  | none => 2 ^ 26
  | some c => if c = ctx then w.tc + 2 ^ 24 + (if w.lmask = 0 then 0 else 2 ^ 25) else 0

/-- TCFGR (R292). -/
def execTcfgr (o : OpR) (s : State) : Host.Outcome State Fault Refusal :=
  issue s o.g { place := .compute } [.dx o.d, .tile o.a] fun e t =>
    retire s e (writeX t o.d.toNat (BitVec.ofNat 32 (tcfgrWord (tileOf s e o.a) e.ctx)))

/-- TZERO (R292): every byte of the tile, and its mask. -/
def execTzero (o : OpR) (s : State) : Host.Outcome State Fault Refusal :=
  issue s o.g { place := .compute } [.tile o.d] fun e t =>
    if !tileOkFor s e o.d then trap s e.who 0x0E
    else retire (modTile s e.coreNo o.d.toNat fun w => clearLmask { w with data := 0, bad := [] }) e t

/-- The width of TGET and TSET. -/
def tgetWide (o : OpR) : Bool := o.mod.getLsbD 0
def tgetBytes (o : OpR) : Nat := if tgetWide o then 8 else 4

/-- The checks of TGET and TSET in their order: usability, range, alignment. -/
def tgetFault (s : State) (e : Env) (n : RegNo) (i k : Nat) : Option Nat :=
  if !tileOkFor s e n then some 0x0E
  else if i + k > 4096 then some 0x02
  else if i % k ≠ 0 then some 0x04
  else none

/-- TGET (R292). -/
def execTget (o : OpR) (s : State) : Host.Outcome State Fault Refusal :=
  issue s o.g { place := .compute } [if tgetWide o then .dp o.d else .dx o.d, .tile o.a, .sx o.b] fun e t =>
    let i := (readX t o.b.toNat).toNat
    match tgetFault s e o.a i (tgetBytes o) with
    | some c => trap s e.who c
    | none =>
      let w := tileOf s e o.a
      if tileBad w i (tgetBytes o) then trap s e.who 0x08
      else
        let v := ofBytes (tileBytes w i (tgetBytes o))
        retire s e (if tgetWide o then writePair t o.d.toNat (BitVec.ofNat 64 v) else writeX t o.d.toNat (BitVec.ofNat 32 v))

/-- TSET (R292). -/
def execTset (o : OpR) (s : State) : Host.Outcome State Fault Refusal :=
  issue s o.g { place := .compute } [.tile o.d, if tgetWide o then .sp o.a else .sx o.a, .sx o.b] fun e t =>
    let i := (readX t o.b.toNat).toNat
    match tgetFault s e o.d i (tgetBytes o) with
    | some c => trap s e.who c
    | none =>
      let l := if tgetWide o then toBytes (readPair t o.a.toNat).toNat 8 else toBytes (readX t o.a.toNat).toNat 4
      retire (modTile s e.coreNo o.d.toNat fun w => clearLmask (tilePut w i l)) e t

end Sys2Proof.Machine
end

