-- ==== Sys2Proof/Machine/TileMem.lean ====
section
/-!
DEFINITION. Tile loads and stores, saving and restoring (14_tile R293 to R297; family 0x3C).
-/

namespace Sys2Proof.Machine

/-! ## Rows (R293) -/

def tmemCache (o : OpR) : Nat := modField o.mod 3 2
def tmemOrder (o : OpR) : Nat := modField o.mod 5 2

/-- The address of row `r`. -/
def tileRowVa (base : DWord) (stride : Word) (r : Nat) : DWord := base + BitVec.ofNat 64 r * stride.signExtend 64

/-- The checks before any row: usability, alignment, R213 of every row. -/
def tileMemFault (s : State) (e : Env) (n : RegNo) (base : DWord) (stride : Word) : Option (Nat × Nat) :=
  let w := tileOf s e n
  if !tileOkFor s e n then some (0x0E, 0)
  else if base.toNat % 4 ≠ 0 ∨ stride.toNat % 4 ≠ 0 then some (0x04, base.toNat)
  else ((upTo (tcRows w.tc)).find? fun r => !vaOk (tileRowVa base stride r).toNat).map fun r =>
    (0x05, (tileRowVa base stride r).toNat % 2 ^ 56)

/-- The TC a TLD or TST goes by: the one it issued with, where it has waited in the middle of its rows (R283, R293). -/
def issueTc (t : Thread) (w : Tile) : Nat := t.tc.getD w.tc

/-- The checks before any row, which are made when the instruction issues and not again. -/
def issueFault (s : State) (e : Env) (t : Thread) (n : RegNo) (base : DWord) (stride : Word) : Option (Nat × Nat) :=
  if t.tc.isSome then none else tileMemFault s e n base stride

/-- The access of a row. -/
def rowAcc (e : Env) (va : DWord) (n : Nat) : Acc := { threadAcc e va n with row := some (va.toNat, n) }

/-! ## TLD (R294) -/

/-- What the rows of a TLD have come to: the state, the tile, the rows left, the fault of the lowest row that faulted, and why the row that comes
next has to wait. -/
structure RowRun where
  s : State
  tile : Tile
  left : List Nat
  fault : Option AFault := none
  wait : Option Wait := none

/-- One row of a TLD: its bytes land in the tile at once; none does after one that has to wait. -/
def tldRow (e : Env) (acc : Nat → Acc) (m : LoadMode) (rb : Nat) (x : RowRun) (r : Nat) : RowRun :=
  if x.wait.isSome then x
  else match threadRead x.s e (acc r) m with
    | .ok (b, s) => { x with s := s, tile := tilePut x.tile (r * rb) b, left := x.left.filter (· != r) }
    | .error (.fault f) => { x with fault := some (x.fault.getD f) }
    | .error (.wait w) => { x with wait := some w }

/-- The rows of a TLD in ascending order. -/
def tldRows (e : Env) (acc : Nat → Acc) (m : LoadMode) (rb : Nat) (x : RowRun) : RowRun := x.left.foldl (tldRow e acc m rb) x

/-- The rows a TLD has to read: those its wait has left, those of its mask, or all. -/
def tldTodo (w : Tile) (t : Thread) (a : Agent) : List Nat :=
  match t.rows with
  | some l => l
  | none =>
    if w.lmask ≠ 0 ∧ w.lwho = a ∧ w.lpc = t.pc then (upTo 64).filter fun r => w.lmask.getLsbD r else upTo (tcRows (issueTc t w))

/-- Rows as a mask. -/
def rowMask (l : List Nat) : BitVec 64 := l.foldl (fun m r => m ||| ((1 : BitVec 64) <<< r)) 0

/-- A TLD one of whose rows has to wait keeps those that have landed (R294), and the TC it issued with. -/
def tldWait (x : RowRun) (e : Env) (n : Nat) (mask : BitVec 64) (tc : Nat) (w : Wait) : State :=
  let s := modTile x.s e.coreNo n fun _ => { x.tile with lmask := mask }
  takeStop (if w.binds then modThread s e.who fun u => { u with rows := some x.left, tc := some tc } else s) e.who (.wait w)

/-- Scopes 6 and above in C are no scopes (R293). -/
def tileScopeIll (o : OpR) : Env → Bool := fun _ => o.c.toNat > 5

/-- TLD (R293, R294). -/
def execTld (o : OpR) (s : State) : Host.Outcome State Fault Refusal :=
  issue s o.g { place := .compute, ill := tileScopeIll o } [.tile o.d, .sp o.a, .sx o.b] fun e t =>
    let base := readPair t o.a.toNat
    let stride := readX t o.b.toNat
    let acq := tmemOrder o == 1
    match issueFault s e t o.d base stride with
    | some (c, va) => trap s e.who c 0 va
    | none =>
      let w := tileOf s e o.d
      let rb := tcRb (issueTc t w)
      let l1 := tmemCache o != 1 && !(acq && wideScope s e o.c.toNat)
      let acc (r : Nat) : Acc := { rowAcc e (tileRowVa base stride r) rb with l1 := l1 }
      let x := tldRows e acc { install := l1, nt := tmemCache o == 2 } rb { s := s, tile := w, left := tldTodo w t e.who }
      match x.wait with
      | some p => tldWait x e o.d.toNat w.lmask (issueTc t w) p
      | none =>
        let s := modTile x.s e.coreNo o.d.toNat fun _ =>
          { x.tile with lmask := if x.fault.isSome then rowMask x.left else 0, lwho := e.who, lpc := t.pc }
        match x.fault with
        | some f => takeFault s e.who f
        | none => retire (if acq then acquire s e o.c.toNat else s) e t

/-! ## TST (R295) -/

/-- The pieces of every row, in ascending rows. -/
def rowPieces (base : DWord) (stride : Word) (rb rows : Nat) : List (Nat × Nat) :=
  (upTo rows).flatMap fun r => piecesOf (tileRowVa base stride r).toNat rb

/-- The checks of every row as a write. -/
def checkRows (s : State) (e : Env) (base : DWord) (stride : Word) (rb : Nat) (l : List Nat) (out : List (Target × Nat)) :
    Except Stop (List (Target × Nat) × State) :=
  match l with
  | [] => .ok (out, s)
  | r :: l =>
    let a : Acc := { rowAcc e (tileRowVa base stride r) rb with kind := 1, write := true }
    match checkPieces s a (piecesOf a.va rb) [] with
    | .error x => .error x
    | .ok (ts, s) => checkRows s e base stride rb l (out ++ ts)

/-- The stores that a TST which waits has left, with their bytes as the tile holds them now; `rows` holds the number of bytes it stores. -/
def tstLeft (t : Thread) (w : Tile) : List SbEntry :=
  let n := (t.stores.map (·.count)).sum
  refill t.stores (tileBytes w ((t.rows.bind (·.head?)).getD n - n) n)

/-- TST (R293, R295). It stores nothing before every row has passed its check; then the rows enter the store buffer as there is room. R295 and R364 do
not order the 0x08 of a poisoned word against the release and the checks of the rows: the model takes it first, as TDRAIN takes it before its check
(DESIGN CHOICE, notes/assumptions 75). -/
def execTst (o : OpR) (s : State) : Host.Outcome State Fault Refusal :=
  issue s o.g { place := .compute, ill := tileScopeIll o } [.tile o.d, .sp o.a, .sx o.b] fun e t =>
    let base := readPair t o.a.toNat
    let stride := readX t o.b.toNat
    if !t.stores.isEmpty then storeAll s e (tstLeft t (tileOf s e o.d)) fun s => retire s e t
    else match issueFault s e t o.d base stride with
    | some (c, va) => trap s e.who c 0 va
    | none =>
      let w := tileOf s e o.d
      let tc := issueTc t w
      let rb := tcRb tc
      let rows := tcRows tc
      if tileBad w 0 (rb * rows) then trap s e.who 0x08
      else releaseThen s e { t with tc := some tc } (if tmemOrder o = 2 then o.c.toNat else 0) fun s =>
        match checkRows s e base stride rb (upTo rows) [] with
        | .error p => takeStop (modThread s e.who fun u => { u with tc := some tc }) e.who p
        | .ok (ts, s) =>
          let s := modThread s e.who fun u => { u with rows := some [rb * rows] }
          storeAll s e (entriesOf s e ts (tileBytes w 0 (rb * rows)) (tmemCache o == 2)) fun s => retire s e t

/-! ## TDRAIN and TFILL (R296) -/

/-- TILST as it reads (R282). -/
def readTilst (w : Tile) : Nat :=
  w.tc + (if w.lmask = 0 then 0 else 2 ^ 17) +
    (match w.owner with | some c => c * 2 ^ 20 + 2 ^ 32 | none => 0)

/-- TDRAIN (R296); a poisoned word's 0x08 comes before the check of the addresses (DESIGN CHOICE, notes/assumptions 75). -/
def execTdrain (o : OpR) (s : State) : Host.Outcome State Fault Refusal :=
  issue s o.g { place := .compute } [.dp o.d, .tile o.b, .sp o.a] fun e t =>
    let va := readPair t o.a.toNat
    let w := tileOf s e o.b
    let done (s : State) : State := retire s e (writePair t o.d.toNat (BitVec.ofNat 64 (readTilst w)))
    if !t.stores.isEmpty then storeAll s e t.stores done
    else if !e.sup && w.owner != some e.ctx then trap s e.who 0x03
    else if va.toNat % 128 ≠ 0 then trap s e.who 0x04 0 va.toNat
    else if tileBad w 0 4096 then trap s e.who 0x08
    else
      let a : Acc := { rowAcc e va 4096 with kind := 1, write := true }
      match checkPieces s a (piecesOf a.va 4096) [] with
      | .error p => takeStop s e.who p
      | .ok (ts, s) => storeAll s e (entriesOf s e ts (tileBytes w 0 4096) false) done

/-- Bits of a TFILL pair outside its fields (R296). -/
def tfillBits (v : Nat) : Bool := field v 18 2 != 0 || field v 33 31 != 0

/-- The owner a TFILL pair names. -/
def tfillOwner (v : Nat) : Option Nat := if bit v 32 then some (field v 20 12) else none

/-- The ownership check of R281 for TFILL. -/
def tfillDenied (w : Tile) (e : Env) (v : Nat) : Bool :=
  !e.sup && (match w.owner with
    | some c => c != e.ctx
    | none => tfillOwner v != some e.ctx)

/-- TFILL (R296). -/
def execTfill (o : OpR) (s : State) : Host.Outcome State Fault Refusal :=
  issue s o.g { place := .compute } [.sp o.d, .tile o.b, .sp o.a] fun e t =>
    let va := readPair t o.a.toNat
    let v := (readPair t o.d.toNat).toNat
    let w := tileOf s e o.b
    if tfillDenied w e v then trap s e.who 0x03
    else if tfillBits v then trap s e.who 0x02
    else if !tcOk (field v 0 17) then trap s e.who 0x0E
    else if va.toNat % 128 ≠ 0 then trap s e.who 0x04 0 va.toNat
    else match threadRead s e (rowAcc e va 4096) {} with
      | .error p => takeStop s e.who p
      | .ok (b, s) =>
        let n : Tile := tilePut { tc := field v 0 17, owner := tfillOwner v } 0 b
        retire (modTile s e.coreNo o.b.toNat fun _ => n) e t

end Sys2Proof.Machine
end

