-- ==== Sys2Proof/Machine/Matrix.lean ====
section
/-!
DEFINITION. Matrix operations (14_tile R286 to R291; family 0x3B): the instructions, the retry of one that waits at a full queue, and
the units of work of a matrix entry.
-/

namespace Sys2Proof.Machine

/-! ## The instructions (R287) -/

/-- The operation a T-format word names. -/
def matOfWord (op : Nat) (o : OpT) : MatOp :=
  { op := op, td := o.td.toNat, ta := o.ta.toNat, tb := o.tb.toNat, ts := o.ts.toNat, ea := o.ea.toNat, eb := o.eb.toNat,
    acc := o.acc.toNat, gran := o.gran.toNat }

/-- The entry a matrix instruction makes. -/
def matEntry (s : State) (e : Env) (tpl : BitVec 256) : Entry :=
  { gid := e.gid, ctx := e.ctx, launch := (e.group s).launch, slot := 0, tpl := tpl,
    tcs := captureTcs (getCore s e.coreNo) (matOf tpl) }

/-- The checks of the tiles, the wait at a full q1, the release at core scope and the acceptance. -/
def matIssue (s : State) (e : Env) (t : Thread) (tpl : BitVec 256) : State :=
  if !matReady (getCore s e.coreNo) (matOf tpl) e.ctx then trap s e.who 0x0E
  else if queueFull s e.coreNo 1 then setThread s e.who { t with st := .waiting (.matrix tpl) }
  else releaseThen s e t 2 fun s => retire (acceptEntry s e.coreNo 1 (matEntry s e tpl)).2 e t

/-- A matrix instruction; a combination its entry does not accept traps 0x02. -/
def matInsn (s : State) (op : Nat) (o : OpT) : Host.Outcome State Fault Refusal :=
  let m := matOfWord op o
  issue s o.g { place := .group, lim := fun _ => !comboOk m } [] fun e t =>
    matIssue s e t (matTemplate m (o.mod.getLsbD 5) (modField o.mod 0 5))

/-- TMMA (R287). -/
def execTmma (o : OpT) (s : State) : Host.Outcome State Fault Refusal := matInsn s 0 o

/-- TCVT (R287). -/
def execTcvt (o : OpT) (s : State) : Host.Outcome State Fault Refusal := matInsn s 2 o

/-- TADD (R287). -/
def execTadd (o : OpT) (s : State) : Host.Outcome State Fault Refusal := matInsn s 1 o

/-- MATRIX_ISSUE_RETRY (R287): the thread `who` that waits at a q1 no longer full checks its tiles again and goes on, after those of its bundle with a
lower tid (R164). -/
def execMatrixIssueRetry (s : State) : Host.Outcome State Fault Refusal :=
  match getThread s s.arg.who with
  | some t =>
    match t.st with
    | .waiting (.matrix tpl) =>
      let e := envOf s s.arg.who
      if (e.group s).state != .running || !coreOn s e.coreNo || queueFull s e.coreNo 1 || !bundleTurn s s.arg.who then .next s
      else .next (matIssue s e t tpl)
    | _ => .next s
  | none => .next s

/-! ## Elements -/

/-- The bytes of row `r` of a tile. -/
def rowOf (w : Tile) (tc r : Nat) : List Byte := tileBytes w (r * tcRb tc) (tcRb tc)

/-- The type of a code. -/
def codeType (c : Nat) : Elem := (elemOfCode c).getD .fp32

/-- The elements of row `r` of a tile of type code `c`, `n` of them. -/
def rowElems (w : Tile) (tc c n r : Nat) : List Nat := (upTo n).map (packedElem (rowOf w tc r) (codeType c))

/-- Scale byte `b` of row `r` of a scale tile. -/
def scaleByte (w : Tile) (tc r b : Nat) : Nat := (nthD (rowOf w tc r) b 0).toNat

/-! ## TMMA (R288) -/

/-- The scaled values of the 32 elements of K-block `j` of a row, as factors: value and scale. -/
def blockFactors (m : MatOp) (w ts : Tile) (tc tsc code row srow j : Nat) : List (Val × Val) :=
  let bytes := rowOf w tc row
  let k := tmmaDepth m.ea
  (upTo 32).map fun i =>
    let q := packedElem bytes (codeType code) (32 * j + i)
    if m.gran = 0 then (decodeElem q (codeType code), .fin false 1 0)
    else
      let x := scaleByte ts tsc srow ((32 * j + i) / granSize m.gran k)
      (scaledVal q (codeType code), decodeElem x .e8m0)

/-- The exact integer sum of INT8 products. -/
def intSum (l : List (Val × Val)) (r : List (Val × Val)) : Int :=
  (l.zip r).foldl (fun acc p => match p.1.1, p.2.1 with
    | .fin s a _, .fin t b _ => acc + (if s != t then -((a * b : Nat) : Int) else ((a * b : Nat) : Int))
    | _, _ => acc) 0

/-- One word of TD after K-block `j`. -/
def tmmaWord (m : MatOp) (old : Nat) (a b : List (Val × Val)) : Nat :=
  if m.acc = 0 then accumulate old (blockSum ((a.zip b).map fun p => product4 p.1.1 p.2.1 p.1.2 p.2.2))
  else wrapInt ((old : Int) + intSum a b) 32

/-- TD after K-block `j`. -/
def tmmaUnit (m : MatOp) (tc : Nat → Nat) (tl : Nat → Tile) (j : Nat) : Tile :=
  let td := tl m.td
  let fa := (upTo 32).map fun i => blockFactors m (tl m.ta) (tl m.ts) (tc m.ta) (tc m.ts) m.ea i i j
  let fb := (upTo 32).map fun n => blockFactors m (tl m.tb) (tl m.ts) (tc m.tb) (tc m.ts) m.eb n (32 + n) j
  let words := (upTo 32).flatMap fun i => (upTo 32).map fun n =>
    tmmaWord m (ofBytes (tileBytes td (128 * i + 4 * n) 4)) (nthD fa i []) (nthD fb n [])
  clearLmask (tilePut td 0 (words.flatMap fun w => toBytes w 4))

/-! ## TADD and TCVT (R289, R290) -/

/-- One element of TADD. -/
def taddElem (m : MatOp) (a b : Nat) : Nat :=
  if m.acc = 9 then (a + b) % 2 ^ 32
  else roundF ((decodeElem a (codeType m.ea)).add (decodeElem b (codeType m.eb)) .rne) (codeType m.acc) .rne

/-- The packed row of a tile written. -/
def putRow (w : Tile) (tc c r : Nat) (l : List Nat) : Tile := clearLmask (tilePut w (r * tcRb tc) (packElems (codeType c) l))

/-- TD after row `r` of a TADD. -/
def taddUnit (m : MatOp) (tc : Nat → Nat) (tl : Nat → Tile) (r : Nat) : Tile :=
  let n := (tcElems (tc m.td)).getD 0
  let a := rowElems (tl m.ta) (tc m.ta) m.ea n r
  let b := rowElems (tl m.tb) (tc m.tb) m.eb n r
  putRow (tl m.td) (tc m.td) m.acc r ((a.zip b).map fun p => taddElem m p.1 p.2)

/-- The blocks of a row. -/
def chunks (n : Nat) (l : List Nat) (fuel : Nat) : List (List Nat) :=
  match fuel with
  | 0 => []
  | fuel + 1 => if l.isEmpty then [] else l.take n :: chunks n (l.drop n) fuel

/-- The elements of a row of TD, and the scale bytes written, if any. -/
def tcvtRow (m : MatOp) (ts : Tile) (tsc r : Nat) (a : List Nat) : List Nat × Option (List Nat) :=
  let ea := codeType m.ea
  let acc := codeType m.acc
  let n := granSize m.gran a.length
  if isFloatCode m.ea then
    if m.gran = 0 then
      (a.map fun q => if isFloatCode m.acc then roundF (decodeElem q ea) acc .rne else roundSatStep (decodeElem q ea) acc 0, none)
    else
      let blocks := (chunks n a (a.length + 1)).map fun b =>
        let v := b.map fun q => decodeElem q ea
        let x := deriveScale v acc
        (quantise v acc x, x)
      ((blocks.map (·.1)).flatten, some (blocks.map (·.2)))
  else if m.gran = 0 then (a.map fun q => deliver (decodeElem q ea) acc, none)
  else
    ((upTo a.length).map fun i => deliver (dequant (nthD a i 0) (scaleByte ts tsc r (i / n)) ea) acc, none)

/-- TD and TS after row `r` of a TCVT. -/
def tcvtUnit (m : MatOp) (tc : Nat → Nat) (tl : Nat → Tile) (r : Nat) : Tile × Option Tile :=
  let n := (tcElems (tc m.ta)).getD 0
  let (out, scales) := tcvtRow m (tl m.ts) (tc m.ts) r (rowElems (tl m.ta) (tc m.ta) m.ea n r)
  (putRow (tl m.td) (tc m.td) m.acc r out,
   scales.map fun l => clearLmask (tilePut (tl m.ts) (r * tcRb (tc m.ts)) (l.map fun x => BitVec.ofNat 8 x)))

/-! ## Units of a matrix entry (R291) -/

/-- The units of a matrix entry: K-blocks of TMMA, rows of TADD and TCVT. -/
def matUnits (m : MatOp) (tcs : SMap Nat) : Nat :=
  if m.op = 0 then tmmaDepth m.ea / 32 else tcRows (SMap.get tcs m.ta 0)

/-- The tiles whose rows an operation reads. -/
def matReads (m : MatOp) : List Nat :=
  let ts := if m.gran = 0 then [] else [m.ts]
  match m.op with
  | 0 => [m.td, m.ta, m.tb] ++ ts
  | 1 => [m.ta, m.tb]
  | _ => m.ta :: (if isNarrowCode m.ea then ts else [])

/-- Does a tile that the operation reads hold a poisoned word in its rows (R364)? -/
def matPoison (k : Core) (m : MatOp) (tcs : SMap Nat) : Bool :=
  (matReads m).any fun n =>
    let tc := SMap.get tcs n 0
    tileBad (getTile k n) 0 (tcRows tc * tcRb tc)

/-- The tiles after unit `j`. -/
def matUnit (k : Core) (m : MatOp) (tcs : SMap Nat) (j : Nat) : Core :=
  let tc (n : Nat) : Nat := SMap.get tcs n 0
  let tl (n : Nat) : Tile := getTile k n
  match m.op with
  | 0 => { k with tiles := SMap.set k.tiles m.td (tmmaUnit m tc tl j) }
  | 1 => { k with tiles := SMap.set k.tiles m.td (taddUnit m tc tl j) }
  | _ =>
    let (d, ts) := tcvtUnit m tc tl j
    let tiles := SMap.set k.tiles m.td d
    { k with tiles := match ts with | some x => SMap.set tiles m.ts x | none => tiles }

/-- Does the head of a queue begin further units of its work? In STOPPING only a head whose group was dropped does, which finishes (R118, R119,
R285). -/
def working (k : EngQ) : Bool :=
  k.hst == 2 && (k.st == .running || (k.st == .stopping && ((headOf k).map (·.dropped)).getD false))

/-- MATRIX_UNIT_DONE (R288 to R291) on core n1: the head of q1 finishes one unit and PROG advances. R291 does not state the order in which the
words of one unit change: in the model they change in one step (DESIGN CHOICE, notes/assumptions 73). -/
def execMatrixUnitDone (s : State) : Host.Outcome State Fault Refusal :=
  let c := s.arg.n1
  let q := getQueue (getCore s c) 1
  match headOf q with
  | none => .next s
  | some h =>
    let m := matOf h.tpl
    if !working q || q.prog ≥ matUnits m h.tcs then .next s
    else if matPoison (getCore s c) m h.tcs then .next (faultQueue s c 1 0x08 0 2)
    else .next (modQueue (modCore s c fun k => matUnit k m h.tcs q.prog) c 1 fun k => { k with prog := k.prog + 1 })

end Sys2Proof.Machine
end

