-- ==== Sys2Proof/Machine/EngineSteps.lean ====
section
/-!
DEFINITION. The steps of the engines of a core (06_queue R114 to R121, R126): the wait of a head, the rows of a copy, the end of the
work, faults, stop points, and the commands of QCTL.
-/

namespace Sys2Proof.Machine

/-! ## Faults -/

/-- A head's access faults: its record joins the fault queue of the home, and the queue becomes FAULTED (R120, R235). -/
def engineFault (s : State) (core q : Nat) (f : AFault) : State :=
  faultQueue (postFault s f) core q f.code (if f.code = 8 ∧ f.va = 0 then 0 else f.va) 2

/-- The access of an engine row (R225, R231, R242). -/
def engineAcc (e : Env) (va n : Nat) : Acc :=
  { die := e.die, core := e.core, ctx := e.ctx, sup := false, eng := true, row := some (va, n), va := va, n := n, req := .agent e.who,
    view := e.view }

/-! ## Waiting -/

/-- A head's unit has to wait: its request takes its place, and its accesses stay bound to the windows of this tick (R384). -/
def engineWait (s : State) (core q : Nat) (w : Wait) : State :=
  modQueue (joinWait s (.agent (.engine core q)) w) core q fun k =>
    { k with view := if w.binds then some (k.view.getD (windowsNow s)) else k.view }

/-- A head waits no more at any controller or port; what stood behind it may go on. -/
def leaveEngine (s : State) (core q : Nat) : State :=
  let mine (r : Req) : Bool := r == .agent (.engine core q)
  let s := modQueue s core q fun k => { k with view := none }
  if placed s mine then moveOn (leaveReq s mine) else s

/-- How an attempt at a unit ends: the new state, a fault of the queue, or a wait. -/
def engineEnd (s : State) (core q : Nat) (r : Except Stop State) : State :=
  match r with
  | .ok s => leaveEngine s core q
  | .error (.fault f) => leaveEngine (engineFault s core q f) core q
  | .error (.wait w) => engineWait s core q w

/-! ## Copy rows (R126) -/

/-- The bytes of a source row. -/
def rowRead (s : State) (e : Env) (t : BitVec 256) (r : Nat) : Except Stop (List Byte × State) :=
  let rb := tplRb t
  let bad : Stop := .fault { code := 8, va := 0 }
  match tplSpace t 2 with
  | 0 => readRange s (engineAcc e (wrapInt (rowAddr t 2 6 r) 64) rb) {}
  | 1 =>
    let g := (getGroup s e.gid).getD {}
    let a := (rowAddr t 2 6 r).toNat
    if scratchBad g a rb then .error bad else .ok (scratchRead g a rb, s)
  | _ =>
    let w := getTile (getCore s e.coreNo) (tplAddr t 2 / 4096)
    let a := ((tplAddr t 2 % 4096 : Nat) + (r : Int) * tplStride t 6).toNat
    if tileBad w a rb then .error bad else .ok (tileBytes w a rb, s)

/-- A destination row: written to scratch or a tile, or checked as the stores it is to make. -/
def rowWrite (s : State) (e : Env) (t : BitVec 256) (r : Nat) (b : List Byte) : Except Stop (List SbEntry × State) :=
  match tplSpace t 4 with
  | 0 =>
    let a : Acc := { engineAcc e (wrapInt (rowAddr t 4 7 r) 64) b.length with kind := 1, write := true }
    match checkPieces s a (piecesOf a.va a.n) [] with
    | .error x => .error x
    | .ok (ts, s) => .ok (entriesOf s e ts b false, s)
  | 1 => .ok ([], modGroup s e.gid fun g => scratchWrite g (rowAddr t 4 7 r).toNat b)
  | _ =>
    let a := ((tplAddr t 4 % 4096 : Nat) + (r : Int) * tplStride t 7).toNat
    .ok ([], modTile s e.coreNo (tplAddr t 4 / 4096) fun w => clearLmask (tilePut w a b))

/-- One row of a copy: the whole row is read, then written, or checked whole before any byte of it is written (R120 and R126 leave both open;
notes/assumptions 60). -/
def copyRow (s : State) (core : Nat) (t : BitVec 256) (r : Nat) : Except Stop (List SbEntry × State) :=
  let e := envOf s (.engine core 0)
  match rowRead s e t r with
  | .error x => .error x
  | .ok (b, s) => rowWrite s e t r b

/-- The rows of a copy entry; none where RB or ROWS is 0: such an entry only waits and signals, and the PROG it leaves at a fault 0x0A or 0x0E, which
R120 calls the rows of the copy, is 0 (DESIGN CHOICE, notes/assumptions 71). -/
def copyUnits (t : BitVec 256) : Nat := if tplRb t = 0 then 0 else tplRows t

/-- The stores of a row enter the store buffer; once all have, the row is finished. Those there is no room for stay with the queue. -/
def copyStores (s : State) (c : Nat) (l : List SbEntry) : State :=
  match pushEntries s (envOf s (.engine c 0)) l with
  | (s, [], _) => leaveEngine (modQueue s c 0 fun k => { k with prog := k.prog + 1, stores := [] }) c 0
  | (s, left, p) => engineEnd (modQueue s c 0 fun k => { k with stores := left }) c 0 (.error p)

/-- COPY_ROW_DONE (R126) on core n1: the head of q0 finishes a row, or the row faults; a row that has to wait is not finished. -/
def execCopyRowDone (s : State) : Host.Outcome State Fault Refusal :=
  let c := s.arg.n1
  let q := getQueue (getCore s c) 0
  match headOf q with
  | none => .next s
  | some h =>
    if !engineOn s c q then .next s
    else if !q.stores.isEmpty && (q.st == .running || q.st == .stopping) then .next (copyStores s c q.stores)
    else if !working q || q.prog ≥ copyUnits h.tpl then .next s
    else match copyRow s c h.tpl q.prog with
      | .ok (l, s) => .next (copyStores s c l)
      | .error p => .next (engineEnd s c 0 (.error p))

/-! ## The steps of a head (R115) -/

/-- ENGINE_WAIT_MET (R115, R248) on queue n2 of core n1: the count is subtracted, the core's L1 lines of the context go, and the
work begins. -/
def execEngineWaitMet (s : State) : Host.Outcome State Fault Refusal :=
  let c := s.arg.n1
  let q := s.arg.n2
  let k := getQueue (getCore s c) q
  match headOf k with
  | none => .next s
  | some h =>
    let n := tplWsem h.tpl
    match firstMet (getSem (getCore s c) n) with
    | some w =>
      if k.st == .waiting && w.who == .engine q then
        let s := modSem s c n fun m => takeCount m w
        let s := dropL1 s c fun tag _ => (relevantTags s h.ctx).contains tag
        let s := modQueue s c q fun k => { k with st := .running, hst := 2 }
        .next (pokeSem s c n)
      else .next s
    | none => .next s

/-- Has a head finished its work: every unit, or what its own unit has marked? -/
def workFinished (q : Nat) (k : EngQ) (h : Entry) : Bool :=
  k.hst == 3 || (k.hst == 2 && match q with
    | 0 => k.prog ≥ copyUnits h.tpl
    | 1 => k.prog ≥ matUnits (matOf h.tpl) h.tcs
    | _ => false)

/-- Are all writes of an engine performed, at every copy too (R116, R241, R251)? -/
def engineDrained (s : State) (c q : Nat) : Bool :=
  !(((getCore s c).sb ++ (getCore s c).frozen).any fun x => x.who == .engine c q) && !(s.repls.any fun r => r.who == .engine c q)

/-- May a head whose work is finished go on to its signal? In STOPPING its stop point was the end of its last unit, unless it stood past that
already or its group was dropped (R118, R119). -/
def mayFinish (k : EngQ) (h : Entry) : Bool := k.st == .running || (k.st == .stopping && (k.hst == 3 || h.dropped))

/-- ENGINE_WORK_DONE (R115 steps 3 to 5, R116) on queue n2 of core n1. -/
def execEngineWorkDone (s : State) : Host.Outcome State Fault Refusal :=
  let c := s.arg.n1
  let q := s.arg.n2
  let k := getQueue (getCore s c) q
  match headOf k with
  | none => .next s
  | some h =>
    if mayFinish k h && workFinished q k h && engineDrained s c q then .next (wakeCaptures (finishHead s c q))
    else .next s

/-- FOLLOW_ON_SUBMIT (R125) on core n1: a copy head that waits for room in q1 submits, then signals and retires. -/
def execFollowOnSubmit (s : State) : Host.Outcome State Fault Refusal :=
  let c := s.arg.n1
  let k := getQueue (getCore s c) 0
  match headOf k with
  | none => .next s
  | some h =>
    if (k.st == .running || k.st == .stopping) && k.hst == 3 && h.follow.isSome && !queueFull s c 1 && engineDrained s c 0 then .next (wakeCaptures (finishHead s c 0))
    else .next s

/-- The fault the next unit of a head meets, if any. -/
def nextFault (s : State) (c q : Nat) (h : Entry) : Option AFault :=
  let k := getQueue (getCore s c) q
  match q with
  | 0 => if k.prog ≥ copyUnits h.tpl then none
    else match copyRow s c h.tpl k.prog with | .error (.fault f) => some f | _ => none
  | 1 => if matPoison (getCore s c) (matOf h.tpl) h.tcs then some { code := 8, va := 0 } else none
  | _ => none

/-- ENGINE_FAULT (R120) on queue n2 of core n1: the unit at work faults. -/
def execEngineFault (s : State) : Host.Outcome State Fault Refusal :=
  let c := s.arg.n1
  let q := s.arg.n2
  match headOf (getQueue (getCore s c) q) with
  | none => .next s
  | some h =>
    if !working (getQueue (getCore s c) q) then .next s
    else match nextFault s c q h with
      | some f => .next (engineFault s c q f)
      | none => .next s

/-- Is a STOPPING queue at a stop point: between two units of its head's work (on q3 between two primitives, or in an END that waits), at the
end of that work, whose writes may still be under way (R118, R332), or behind a full q1? The head of a dropped group finishes, signal included (R119). -/
def atStopPoint (s : State) (c q : Nat) (k : EngQ) (h : Entry) : Bool :=
  !h.dropped &&
  ((k.hst == 3 && q == 0 && h.follow.isSome && queueFull s c 1) ||
    (workFinished q k h && k.stores.isEmpty && !engineDrained s c q) ||
    (k.hst == 2 && k.stores.isEmpty &&
      (workFinished q k h || q != 3 || (feedOp h.tpl == 1 && !h.inPrim) || (feedOp h.tpl == 2 && h.spill.isSome))))

/-- STOP_POINT_REACHED (R118) on queue n2 of core n1. -/
def execStopPointReached (s : State) : Host.Outcome State Fault Refusal :=
  let c := s.arg.n1
  let q := s.arg.n2
  let k := getQueue (getCore s c) q
  match headOf k with
  | none => .next s
  | some h =>
    if k.st == .stopping && atStopPoint s c q k h then
      let s := modQueue s c q fun k => { k with hst := if workFinished q k h then 3 else k.hst }
      .next (wakeCaptures (stopNow (leaveEngine s c q) c q))
    else .next s

/-! ## Queues at rest (R121, R360) -/

/-- Does a request stand held at a stack that does not admit it? -/
def heldThere (s : State) (r : Req) : Bool := s.stk.any fun k => k.2.held.any fun h => h.req == r && !admits s k.1 h.die

/-- Can a store-buffer entry not be performed now, for want of a route or of its stack? -/
def entryHeld (s : State) (c : Nat) (x : SbEntry) : Bool :=
  !reaches s (dieOf c) x.home || heldThere s (.entry c x.id) ||
    s.msgs.any fun m => (match m.body with | .write k e => k == c && e.id == x.id | _ => false) && msgHeld s m.id

/-- Does a head that must finish (R119) stand still: behind a full q1, or held at a stack, or with all its stores held and nothing else to do? -/
def headStands (s : State) (c q : Nat) (h : Entry) : Bool :=
  let k := getQueue (getCore s c) q
  let own := (getCore s c).sb.filter fun x => x.who == .engine c q
  (q == 0 && k.hst == 3 && h.follow.isSome && queueFull s c 1) || heldThere s (.agent (.engine c q)) ||
    (!own.isEmpty && own.all (entryHeld s c) && (workFinished q k h || ((getCore s c).sb.length ≥ 64 && !k.stores.isEmpty)))

/-- Is a queue at rest, so that a cut can be recorded, or a store buffer freezes: it is not STOPPING, or the head it waits for can do nothing itself: one
that waits for a spill launch (R330), or one of a dropped group that stands (notes/assumptions 77)? -/
def queueAtRest (s : State) (c q : Nat) : Bool :=
  let k := getQueue (getCore s c) q
  k.st != .stopping ||
    match headOf k with
    | some h => (q == 3 && h.spill.isSome) || (h.dropped && headStands s c q h)
    | none => true

/-- Are the engine queues of a core at rest (R121, R360)? -/
def queuesAtRest (s : State) (c : Nat) : Bool := (upTo 4).all (queueAtRest s c)

/-! ## QCTL (R118, R122) -/

/-- SKIP or FLUSH; one of a head whose work is done waits until its writes are performed (R382). -/
def endCmd (s : State) (core q : Nat) (k : State) : Cmd :=
  if (getQueue (getCore s core) q).hst == 3 && !engineDrained s core q then .wait (.shutter 1024 0) s else .ok k

/-- A command of QCTL, where the table allows it. -/
def queueCmd (s : State) (core q cmd : Nat) : Cmd :=
  let st := (getQueue (getCore s core) q).st
  let held := st == .faulted || st == .stopped
  match cmd with
  | 1 => if held then .ok (resumeQueue s core q) else .bad
  | 2 => if held then endCmd s core q (settleQueue (popHead s core q) core q) else .bad
  | 3 => if held then endCmd s core q (flushQueue s core q) else .bad
  | 4 => .ok (stopQueue s core q false)
  | _ => .bad

/-- A command as a step of the device, on the queue of a CSR index. -/
def queueStep (s : State) (cmd : Nat) : Host.Outcome State Fault Refusal :=
  (queueCmd s (s.arg.n1 / 4) (s.arg.n1 % 4) cmd).step s

/-- QUEUE_RESUME (R118). -/
def execQueueResume (s : State) : Host.Outcome State Fault Refusal := queueStep s 1

/-- QUEUE_SKIP (R118). -/
def execQueueSkip (s : State) : Host.Outcome State Fault Refusal := queueStep s 2

/-- QUEUE_FLUSH (R118). -/
def execQueueFlush (s : State) : Host.Outcome State Fault Refusal := queueStep s 3

/-- QUEUE_STOP (R118). -/
def execQueueStop (s : State) : Host.Outcome State Fault Refusal := queueStep s 4

end Sys2Proof.Machine
end

