-- ==== Sys2Proof/Machine/Fence.lean ====
section
/-!
DEFINITION. Fences and cache control (13_access R264 to R267, 12_ordering R249; family 0x36).
-/

namespace Sys2Proof.Machine

/-! ## FENCE -/

/-- FENCE (R264): the release first, then the acquire; the thread's loads have returned. -/
def execFence (o : OpS) (s : State) : Host.Outcome State Fault Refusal :=
  issue s o.g {} [] fun e t =>
    let order := modField o.mod 5 2
    if hasPend s e.who then waitAt s e.who .pending
    else releaseThen s e t (if order = 1 then 0 else o.scope.toNat) fun s =>
      retire (if order = 2 then s else acquire s e o.scope.toNat) e t

/-! ## FPROM (R249, R265) -/

/-- The L1 lines of the thief's relevant tags at the victim go. -/
def receipt (s : State) (e : Env) (victim : Nat) : State := dropL1 s victim fun tag _ => tagRelevant s e tag

/-- The end of FPROM: an acquire at device scope, and the status. -/
def fpromDone (s : State) (e : Env) (t : Thread) (d st : Nat) : State :=
  retire (acquire s e 4) e (writeX t d (BitVec.ofNat 32 st))

/-- Is every access that retired on a core performed: no entry in its store buffer, and no load or atomic that a thread has gone past under
way (R249)? -/
def retiredDone (s : State) (core : Nat) : Bool :=
  (getCore s core).sb.isEmpty && !(s.pends.any fun p => p.core == core && !p.drop && !p.host)

/-- Have the loads and atomics that retired on a core returned? What a halted core's store buffer holds is frozen, and is not waited for (R265, R362). -/
def pendsDone (s : State) (core : Nat) : Bool := !(s.pends.any fun p => p.core == core && !p.drop && !p.host)

/-- May the receipt of a core be made: every access that retired there is performed, but for what its halt froze (R249, R265)? -/
def receiptDue (s : State) (core : Nat) : Bool := if (getCore s core).halted && !(getCore s core).freezing then pendsDone s core else retiredDone s core

/-- FPROM: the thief's release, then the receipt, which a victim with no access outstanding makes at once. A halted victim gives status 1. -/
def execFprom (o : OpS) (s : State) : Host.Outcome State Fault Refusal :=
  issue s o.g {} [.dx o.d, .sx o.a] fun e t =>
    let v := (readX t o.a.toNat).toNat
    if v > 639 then trap s e.who 0x02
    else if hasPend s e.who then waitAt s e.who .pending
    else releaseThen s e t 4 fun s =>
      if receiptDue s v then fpromDone (receipt s e v) e t o.d.toNat (ofBool (getCore s v).halted)
      else setThread s e.who { t with st := .waiting (.fprom v) }

/-- The entries of a store buffer are performed, in order, as far as each can be. -/
def drainAll (s : State) (core : Nat) : State :=
  wakeDrains ((getCore s core).sb.foldl (fun s x => drainEntry s core x) s) core

/-- FPROM_RECEIPT (R249): at the victim core of thread `who`, every entry is drained, and the thread goes on to finish. -/
def execFpromReceipt (s : State) : Host.Outcome State Fault Refusal :=
  match getThread s s.arg.who with
  | some t =>
    match t.st with
    | .waiting (.fprom v) =>
      let s := drainAll s v
      .next (if receiptDue s v then wake s s.arg.who else s)
    | _ => .next s
  | none => .next s

/-! ## Ranges (R266) -/

/-- The checks of a range in their order; the range is of bytes from an address on, or everything. -/
def rangeFault (va n : Nat) : Option Nat :=
  if n % 128 ≠ 0 then some 0x02
  else if n = 0 then none
  else if !vaOk va then some 0x05
  else if va % 128 ≠ 0 then some 0x04
  else if vaOfs va + n > 2 ^ 50 then some 0x02
  else none

/-- Does a line lie in a range? -/
def inRange (va n line : Nat) : Bool := n == 0 || (va ≤ 128 * line && 128 * line < va + n)

/-- The pair of a range is read only where its length is not 0 (R266). -/
def rangeNeeds (n : Nat) (a : RegNo) : List Need := if n = 0 then [] else [.sp a]

/-- CINV (R266): the issuing core's L1 lines of the range go. -/
def execCinv (o : OpS) (s : State) : Host.Outcome State Fault Refusal :=
  issue s o.g {} [.np o.a, .sx o.b] fun e t =>
    let va := (readPair t o.a.toNat).toNat
    let n := (readX t o.b.toNat).toNat
    readAlso s e t (rangeNeeds n o.a) <| match rangeFault va n with
    | some c => trap s e.who c 0 va
    | none =>
      let s := match e.core with
        | some c => dropL1 s c fun tag line => tagRelevant s e tag && inRange va n line
        | none => s
      retire s e t

/-- The dirty bytes of the L2 lines that a test picks are written to their frames, on every die (R223, R267). Answers whether
every write-back was performed. -/
def cleanL2 (s : State) (f : CLine → Bool) : State :=
  (upTo 16).foldl (fun s d =>
    let picked := (getDie s d).l2.filter fun c => f c && c.dirty != 0
    let s := picked.foldl (fun s c => writeBack s d c) s
    modDie s d fun v => { v with l2 := v.l2.map fun c => if f c then { c with dirty := 0 } else c }) s

/-- Is a write-back of a tag and line that a test picks posted and not yet performed? -/
def anyPosted (s : State) (f : Nat → Nat → Bool) : Bool := s.stk.any fun k => k.2.posted.any fun p => f p.tag p.line

/-- CWB (R267). -/
def execCwb (o : OpS) (s : State) : Host.Outcome State Fault Refusal :=
  issue s o.g {} [.np o.a, .sx o.b] fun e t =>
    let va := (readPair t o.a.toNat).toNat
    let n := (readX t o.b.toNat).toNat
    readAlso s e t (rangeNeeds n o.a) <| match rangeFault va n with
    | some c => trap s e.who c 0 va
    | none =>
      let mine (tag line : Nat) : Bool := tagRelevant s e tag && inRange va n line
      let bound := t.relBound.getD s.uid
      let left := match e.core with
        | some c => (getCore s c).sb.any fun x => x.id < bound && mine x.tag x.line
        | none => false
      let hold (s : State) : State := waitAt (setThread s e.who { t with relBound := some bound }) e.who (.drain bound)
      if left then hold s
      else if o.scope.toNat = 5 then
        let s := cleanL2 s fun c => mine c.tag c.line
        if anyPosted s mine then setThread s e.who { t with st := .waiting (.shutter 1024 0), relBound := some bound } else retire s e t
      else retire s e t

end Sys2Proof.Machine
end

