-- ==== Sys2Proof/Machine/Halt.lean ====
section
/-!
DEFINITION. Halting cores (18_faults R349, R358 to R363): HALT, the heartbeat, service-lane traps, and frozen store buffers.
-/

namespace Sys2Proof.Machine

/-! ## Fences -/

/-- A fence at system scope around an instruction (R90): every earlier access of the thread is performed first, and no later one is
served from what its core held. -/
def sysFence (s : State) (e : Env) (t : Thread) (k : State → State) : State :=
  if hasPend s e.who then waitAt s e.who .pending else releaseThen s e t 5 fun s => k (acquire s e 5)

/-! ## Sextant events (R380) -/

/-- An event joins the queue of a sextant core, which holds 255. -/
def raiseEvent (s : State) (d kind code core : Nat) : State :=
  modDie s d fun v =>
    if v.sx.events.length ≥ 255 then v
    else { v with sx := { v.sx with events := v.sx.events ++ [{ kind := kind, code := code, core := core }] } }

/-! ## Halt and release (R360, R362) -/

/-- The groups with a slice on a core. -/
def groupsOn (s : State) (c : Nat) : List Nat := ((getCore s c).slots.map fun v => v.2.gid).eraseDups

/-- The store buffer of a core freezes (R362): no entry of it is performed, and one that is under way between dies is not either. -/
def freezeBuffer (s : State) (c : Nat) : State :=
  let ids := (getCore s c).sb.map (·.id)
  let gone := s.msgs.filter fun m => match m.body with | .write k e => k == c && ids.contains e.id | _ => false
  let s := modCore s c fun k => { k with frozen := k.frozen ++ k.sb.map fun x => { x with sent := false }, sb := [] }
  let s := { s with msgs := s.msgs.filter fun m => !(gone.any fun g => g.id == m.id) }
  let mine (r : Req) : Bool := match r with
    | .entry k id => k == c && ids.contains id
    | .msg id => gone.any fun g => g.id == id
    | _ => false
  if waitsAt s mine then moveOn (leaveReq s mine) else s

/-- What a core's steward waits for is withdrawn where it stops issuing, a HINGE that has not begun among it (R308); in the middle of an instruction
that has issued it goes on to its end. -/
def stopSteward (s : State) (c : Nat) : State :=
  if ((getThread s (.lane c 0)).map (·.finishing)).getD false then s
  else
    let s := leaveAll s fun a => a == .lane c 0
    { s with bundle := s.bundle.filter fun a => a != .lane c 0 }

/-- Is everything over that had issued on a core when it was halted: its queues are at rest, and no instruction of its groups' threads or of its steward
is under way (R352, R360)? -/
def coreQuiet (s : State) (c : Nat) : Bool :=
  queuesAtRest s c &&
    !((.lane c 0 :: coreAgents s c).any fun a => match getThread s a with | some t => t.finishing | none => false)

/-- A core that has been halted freezes its store buffer once it is quiet (R360, R362); what waits for that looks again. -/
def freezeQuiet (s : State) (c : Nat) : State :=
  if !(getCore s c).freezing || !coreQuiet s c then s
  else
    let s := modCore (freezeBuffer (stopSteward s c) c) c fun k => { k with freezing := false }
    wakeWhere s fun _ w => match w with | .fprom v => v == c | .shutter n _ => n ≥ 1024 | _ => false

/-- Has a halted core stopped (R360)? -/
def coreStopped (s : State) (c : Nat) : Bool := !(getCore s c).freezing

/-- A core is halted, with a cause: its groups halt, its queues stop, a capture record is posted, and its store buffer freezes as soon as what had
issued is over (notes/assumptions 77). -/
def haltCore (s : State) (c cause : Nat) (hb : Bool) : State :=
  let s := stopCore ((groupsOn s c).foldl (fun s g => haltGroup s g cause) s) c
  let s := modCore s c fun k => { k with halted := true, freezing := true, cause := cause, hb := hb, haltTick := s.dev.tick }
  let s := postRec (stopSteward s c) c { kind := 2, code := cause, epc := 0, arg := 0, slot := 0, tid := 0, q := 0, va := 0, gid := 0 }
  freezeQuiet s c

/-- HALT (R360): it retires once the core has stopped. -/
def execHalt (o : OpR) (s : State) : Host.Outcome State Fault Refusal :=
  issue s o.g { right := .sup } [.dx o.d, .sx o.a] fun e t =>
    let c := (readX t o.a.toNat).toNat
    if c > 639 then trap s e.who 0x02
    else sysFence s e t fun s =>
      if (getCore s c).halted then retire s e (writeX t o.d.toNat 1)
      else
        let s := haltCore s c 0x14 false
        if coreStopped s c then retire s e (writeX t o.d.toNat 0)
        else setThread s e.who { t with st := .waiting (.halt c o.d.toNat), relBound := none }

/-- A HALT that waits retires once its core has stopped, or has been released again. -/
def haltRetire (s : State) (a : Agent) : State :=
  match getThread s a with
  | some t => match t.st with
    | .waiting (.halt c d) => if coreStopped s c || !(getCore s c).halted then retire (acquire s (envOf s a) 5) (envOf s a) (writeX t d 0) else s
    | _ => s
  | none => s

/-- The agent that stands for a steward that is no more: no lane has its number. -/
def goneSteward (c : Nat) : Agent := .lane c 32

/-- What a steward that is started anew leaves behind: its loads give no result, and its atomics, which have retired, are performed without it. -/
def leaveSteward (s : State) (c : Nat) : State :=
  let s := dropPends (leaveAll s fun a => a == .lane c 0) fun p => p.who == .lane c 0 && !p.atomic
  { s with pends := s.pends.map fun p => if p.who == .lane c 0 && p.atomic then { p with who := goneSteward c } else p }

/-- The steward starts at its entry, with L set to the tick (R360, R372). -/
def startSteward (s : State) (c : Nat) : State :=
  let s := modCore s c fun k => { k with lastBeat := s.dev.tick }
  let s := leaveSteward s c
  modLane s c 0 fun v =>
    { v with busy := true, trec := none,
             th := { v.th.settled with pc := BitVec.ofNat 64 s.dev.steward, st := .ready, stamp := dieCycle s (dieOf c), await := [],
                                       dispatched := false } }

/-- A core that is halted and holds no frozen entry is released; L1 lines in granules lent to a slice, which an entry that was frozen kept, go (R146). -/
def releaseCore (s : State) (c : Nat) : State :=
  resumeCaptured (startSteward (trimL1 (modCore s c fun k => { k with halted := false }) c) c) c

/-- HALT.rel (R360); of a core that is still being halted it waits until that is over. -/
def execHaltRel (o : OpR) (s : State) : Host.Outcome State Fault Refusal :=
  issue s o.g { right := .sup } [.dx o.d, .sx o.a] fun e t =>
    let c := (readX t o.a.toNat).toNat
    if c > 639 then trap s e.who 0x02
    else sysFence s e t fun s =>
      let k := getCore s c
      if !k.halted then retire s e (writeX t o.d.toNat 1)
      else if k.freezing then setThread s e.who { t with st := .waiting (.shutter 1024 0) }
      else if !k.frozen.isEmpty then retire s e (writeX t o.d.toNat 2)
      else retire (releaseCore s c) e (writeX t o.d.toNat 0)

/-! ## Heartbeat (R358, R359) -/

/-- BEAT (R359). -/
def execBeat (o : OpR) (s : State) : Host.Outcome State Fault Refusal :=
  issue s o.g { place := .compute, right := .steward } [.dx o.d] fun e t =>
    let s := modCore s e.coreNo fun k => { k with lastBeat := s.dev.tick }
    retire s e (writeX t o.d.toNat (BitVec.ofNat 32 (getDie s e.die).period))

/-- The tick at which a core's heartbeat is missed. -/
def deadline (s : State) (c : Nat) : Nat := (getCore s c).lastBeat + 2 * (getDie s (dieOf c)).period * 1000000

/-- Is a core watched: the device runs, and the core runs and is not halted? -/
def watched (s : State) (c : Nat) : Bool :=
  let k := getCore s c
  s.dev.state == .running && k.running && !k.halted

/-- HEARTBEAT_EXPIRY (R358) of core n1. Time does not pass a deadline without it (passTime), so no later BEAT or HBCFG undoes it. -/
def execHeartbeatExpiry (s : State) : Host.Outcome State Fault Refusal :=
  let c := s.arg.n1
  if watched s c && s.dev.tick ≥ deadline s c then .next (haltCore s c 0x13 true) else .next s

/-- The cores of a die whose deadline has come, halted at once: a shorter PERIOD may bring it (R358). -/
def expireDue (s : State) (d : Nat) : State :=
  ((s.cores.map (·.1)).filter fun c => dieOf c == d && watched s c && s.dev.tick ≥ deadline s c).foldl
    (fun s c => soon s .heartbeatExpiry { n1 := c }) s

/-! ## Service-lane traps (R349) -/

/-- SERVICE_LANE_TRAP (R349): lane n2 of core n1 has trapped. The core halts with that code, where it is not halted, and the sextant core
of its die is told. -/
def execServiceLaneTrap (s : State) : Host.Outcome State Fault Refusal :=
  let c := s.arg.n1
  let l := s.arg.n2
  let th := (getLane (getCore s c) l).th
  if th.st != .trapped || th.dispatched then .next s
  else
    let s := modLane s c l fun v => { v with th := { v.th with dispatched := true } }
    let s := if (getCore s c).halted then s else haltCore s c th.code false
    .next (raiseEvent s (dieOf c) 1 th.code (c % 40))

/-! ## Frozen entries (R363) -/

/-- Frozen entries are performed, oldest first, on behalf of a request; the command waits where one has to. What waits for the engines of the core looks
again at the end. -/
def mergeFrom (s : State) (r : Req) (c : Nat) (l : List SbEntry) : Cmd :=
  match l with
  | [] => .ok (wakeCaptures s)
  | x :: rest =>
    match if reaches s (dieOf c) x.home then performWrite s { x.write c with req := r } else .error (.wait .route) with
    | .error (.wait w) => .wait w s
    | .error (.fault _) => .wait .route s
    | .ok s => mergeFrom (modCore s c fun k => { k with frozen := k.frozen.filter fun y => y.id != x.id }) r c rest

/-- MERGE (R363). On a core that is still being halted it waits until the store buffer is frozen. -/
def sbMerge (s : State) (r : Req) (c : Nat) : Cmd :=
  if (getCore s c).freezing then .wait (.shutter 1024 0) s else mergeFrom s r c (getCore s c).frozen

/-- DISCARD (R363); it waits as MERGE does. -/
def sbDiscard (s : State) (c : Nat) : Cmd :=
  if (getCore s c).freezing then .wait (.shutter 1024 0) s else .ok (wakeCaptures (modCore s c fun k => { k with frozen := [] }))

/-- SB_MERGE (R363) of core n1. -/
def execSbMerge (s : State) : Host.Outcome State Fault Refusal := (sbMerge s ownReq s.arg.n1).step s

/-- SB_DISCARD (R363) of core n1. -/
def execSbDiscard (s : State) : Host.Outcome State Fault Refusal := (sbDiscard s s.arg.n1).step s

end Sys2Proof.Machine
end

