-- ==== Sys2Proof/Machine/Shutter.lean ====
section
/-!
DEFINITION. Shutter windows (13_access R271 to R277, 12_ordering R250; family 0x38) and their commits.
-/

namespace Sys2Proof.Machine

/-! ## Lines of a window -/

/-- Does a line lie in a range of bytes under a tag? -/
def lineIn (tag base n : Nat) (t l : Nat) : Bool := t == tag && base ≤ 128 * l && 128 * l < base + n

/-- Is a cached line one of a window's? -/
def winLine (w : Win) (c : CLine) : Bool := lineIn w.tag w.base (65536 * w.n) c.tag c.line

/-- On every die, the L1 lines, instruction lines and L2 lines that a test picks are dropped, dirty bytes being written back
first, and fills in flight for them install nothing. -/
def dropLines (s : State) (f : CLine → Bool) : State :=
  let s := cleanL2 s f
  { s with
    dies := SMap.mapVal s.dies fun _ v => { v with l2 := v.l2.filter fun c => !f c }
    cores := SMap.mapVal s.cores fun _ k => { k with l1 := k.l1.filter fun c => !f c, ilines := k.ilines.filter fun c => !f c } }

/-- Fills in flight for lines that a test picks install nothing, at the core or at the home, nor do frozen entries there when they are performed
(R74, R226, R250). -/
def spoilWhere (s : State) (f : Nat → Nat → Bool) : State :=
  { s with
    pends := s.pends.map fun p => if f p.tag (p.va / 128) then { p with install := false, stale := true } else p
    asks := s.asks.map fun q => { q with install := false }
    cores := SMap.mapVal s.cores fun _ k => { k with frozen := k.frozen.map fun x => if f x.tag x.line then { x with stale := true } else x } }

/-- Fills in flight for a window's lines install nothing (R250). -/
def spoilWindow (s : State) (w : Win) : State := spoilWhere s (lineIn w.tag w.base (65536 * w.n))

/-- The store buffers of every core perform the entries that a test picks, as far as each can be. -/
def drainWhere (s : State) (f : SbEntry → Bool) : State :=
  s.cores.foldl (fun s c =>
    wakeDrains (c.2.sb.foldl (fun s x => if f x then drainEntry s c.1 x else s) s) c.1) s

/-- Has a thread, or the row of an engine, such an entry still to put into its core's store buffer? -/
def anyLeft (s : State) (f : SbEntry → Bool) : Bool :=
  (s.cores.any fun c => c.2.queues.any fun q => q.2.stores.any f) ||
    (allAgents s).any fun a => match getThread s a with | some t => t.stores.any f | none => false

/-- Does any store buffer still hold such an entry, or has one still to come there? -/
def anyBuffered (s : State) (f : SbEntry → Bool) : Bool := (s.cores.any fun c => c.2.sb.any f) || anyLeft s f

/-! ## Rights -/

/-- Write right to a tag (R271). -/
def writeRight (s : State) (ctx tag : Nat) : Bool :=
  tag == ctx || (upTo 8).any fun i =>
    let v := SMap.get (getCtx s ctx).slots i 0
    v.getLsbD 12 && v.getLsbD 13 && 4096 + field v.toNat 0 12 == tag

/-- Does an armed window of the tag overlap a range? -/
def overlaps (s : State) (tag base n : Nat) : Bool :=
  s.wins.any fun w => w.2.state != .free && w.2.tag == tag &&
    base < w.2.base + 65536 * w.2.n && w.2.base < base + 65536 * n

/-- The lowest FREE window. -/
def freeWin (s : State) : Option Nat := findFrom (fun i => (getWin s i).state == .free) 0 1024

/-- One page of SHARM's range: may it be armed (status 3)? A table read held for a stack makes the thread wait. -/
def pageArms (s : State) (sp : Space) (e : Env) (va : Nat) : Except Wait Bool :=
  let d := homeDie va e.die
  match walk s (.agent e.who) sp d va with
  | .held k l => .error (.held k d l)
  | .fault _ _ => .ok false
  | .ok x => .ok (x.attr.sh && x.attr.w && !x.attr.psn && (e.sup || x.attr.u) && admitted (vaPlc va) x.frame x.attr)

/-- Every page of the range. -/
def pagesArm (s : State) (sp : Space) (e : Env) (va n : Nat) : Except Wait Bool :=
  match n with
  | 0 => .ok true
  | n + 1 =>
    match pageArms s sp e va with
    | .ok true => pagesArm s sp e (va + 65536) n
    | r => r

/-! ## SHARM (R274) -/

/-- The checks that trap. -/
def sharmFault (base n : Nat) : Option Nat :=
  if base % 65536 ≠ 0 then some 0x04
  else if !vaOk base ∨ ¬ (vaPlc base < 16 ∨ vaPlc base = 32) then some 0x05
  else if n % 2 = 1 ∨ n < 2 ∨ n > 65536 ∨ vaOfs base + 65536 * n > 2 ^ 50 then some 0x02
  else none

/-- SHARM settles a status: the pair x[D]. -/
def sharmDone (s : State) (e : Env) (t : Thread) (d st win : Nat) : State :=
  retire s e (writePair t d (BitVec.ofNat 64 (st + 2 ^ 32 * win)))

/-- The window is armed: drain, drop, then ARMED with g = 0. -/
def arm (s : State) (e : Env) (t : Thread) (d win tag base n : Nat) : State :=
  let mine (x : SbEntry) : Bool := lineIn tag base (65536 * n) x.tag x.line
  let s := drainWhere s mine
  if anyBuffered s mine then setThread s e.who { t with st := .waiting (.shutter 1024 d) }
  else
    let w : Win := { state := .armed, tag := tag, base := base, n := n }
    let s := dropLines (spoilWindow s w) (winLine w)
    sharmDone (setWin s win w) e t d 0 win

/-- SHARM (R274). -/
def execSharm (o : OpR) (s : State) : Host.Outcome State Fault Refusal :=
  issue s o.g { place := .compute } [.dp o.d, .sp o.a, .sx o.b] fun e t =>
    let base := (readPair t o.a.toNat).toNat
    let n := (readX t o.b.toNat).toNat
    let none' : Nat := 0xFFFFFFFF
    match sharmFault base n with
    | some c => trap s e.who c 0 base
    | none =>
      releaseThen s e t 4 fun s =>
        let sp := spaceOf s e.ctx base
        if !writeRight s e.ctx sp.tag || overlaps s sp.tag base n then sharmDone s e t o.d.toNat 2 none'
        else match pagesArm s sp e base n with
          | .error w => takeStop s e.who (.wait w)
          | .ok false => sharmDone s e t o.d.toNat 3 none'
          | .ok true =>
            match freeWin s with
            | none => sharmDone s e t o.d.toNat 1 none'
            | some w => arm s e t o.d.toNat w sp.tag base n

/-! ## SHPUB and SHDROP (R275, R276) -/

/-- A publish or a drop begins once its release is complete: the window commits 512 ticks later and the thread waits. -/
def beginCommit (s : State) (e : Env) (t : Thread) (n d : Nat) (st : WinState) : State :=
  let s := setWin s n { getWin s n with state := st, tick := s.dev.tick + 512, issuer := some e.who }
  setThread s e.who { t with st := .waiting (.shutter n d), relBound := none }

/-- SHPUB and SHDROP: a free window 1, no write right 2, another commit under way waits, else the release and the commit. -/
def commitOp (s : State) (o : OpR) (st : WinState) : Host.Outcome State Fault Refusal :=
  issue s o.g { place := .compute } [.dx o.d, .sx o.a] fun e t =>
    let n := (readX t o.a.toNat).toNat
    if n > 1023 then trap s e.who 0x02
    else
      let w := getWin s n
      match w.state with
      | .free => retire s e (writeX t o.d.toNat 1)
      | .publishing | .dropping =>
        setThread (setWin s n { w with queue := w.queue ++ [e.who] }) e.who { t with st := .waiting (.shutter n o.d.toNat) }
      | .armed =>
        if !writeRight s e.ctx w.tag then retire s e (writeX t o.d.toNat 2)
        else releaseThen s e t 4 fun s => beginCommit s e t n o.d.toNat st

/-- SHPUB (R275). -/
def execShpub (o : OpR) (s : State) : Host.Outcome State Fault Refusal := commitOp s o .publishing

/-- SHDROP (R276). -/
def execShdrop (o : OpR) (s : State) : Host.Outcome State Fault Refusal := commitOp s o .dropping

/-- SHSTAT (R277): g and the state code, as a thread to whose tags the window belongs sees them. -/
def execShstat (o : OpR) (s : State) : Host.Outcome State Fault Refusal :=
  issue s o.g { place := .compute } [.dp o.d, .sx o.a] fun e t =>
    let n := (readX t o.a.toNat).toNat
    if n > 1023 then trap s e.who 0x02
    else
      let w := getWin s n
      let code : Nat := match w.state with | .free => 0 | .armed => 1 | .publishing => 2 | .dropping => 3
      let v : Nat := if tagRelevant s e w.tag then w.g.toNat + code * 2 ^ 32 else 0
      if o.mod.getLsbD 0 && hasPend s e.who then waitAt s e.who .pending
      else retire (if o.mod.getLsbD 0 then acquire s e 4 else s) e (writePair t o.d.toNat (BitVec.ofNat 64 v))

/-! ## Commits -/

/-- The thread of a commit, or of one that scrubbing ended, retires with its status, where it still waits. -/
def shutterRetire (s : State) (n st : Nat) (a : Agent) : State :=
  match getThread s a with
  | some t => match t.st with
    | .waiting (.shutter m d) =>
      let e := envOf s a
      if m = n ∧ ¬ (e.inGroup ∧ (e.group s).state = .halted) then retire s e (writeX t d (BitVec.ofNat 32 st)) else s
    | _ => s
  | none => s

/-- The threads queued behind a commit act on the state it leaves. -/
def releaseQueue (s : State) (n : Nat) : State :=
  let q := (getWin s n).queue
  q.foldl (fun s a => wake s a) (setWin s n { getWin s n with queue := [], issuer := none })

/-- SHUTTER_COMMIT (R250, R273) of window n1: at tick T, which no tick passes without it (passTime), the generation advances, the dirty bytes of the window's lines are
written back, and lines of the number the next commit brings are dropped. -/
def execShutterCommit (s : State) : Host.Outcome State Fault Refusal :=
  let n := s.arg.n1
  let w := getWin s n
  if w.state != .publishing || s.dev.tick < w.tick then .next s
  else
    let s := cleanL2 s (winLine w)
    let old := 1 + w.g.toNat % 4
    let new := 1 + (w.g.toNat + 1) % 4
    let s := dropLines (spoilWindow s w) fun c => winLine w c && c.gen != old && c.gen != new
    let s := setWin s n { w with state := .armed, g := w.g + 1 }
    let s := match w.issuer with | some a => shutterRetire s n 0 a | none => s
    .next (releaseQueue s n)

/-- SHUTTER_DROP_COMMIT (R276) of window n1: at tick T, which no tick passes without it (passTime), the window becomes FREE, its lines
written back and dropped. It keeps its g and its tag, which SHSTAT goes on to show to threads of that tag until the next SHARM, where a window that
scrubbing frees has both at zero (DESIGN CHOICE: R272 and R277 are silent on the g of a FREE window; notes/assumptions 85). -/
def execShutterDropCommit (s : State) : Host.Outcome State Fault Refusal :=
  let n := s.arg.n1
  let w := getWin s n
  if w.state != .dropping || s.dev.tick < w.tick then .next s
  else
    let s := dropLines (spoilWindow s w) (winLine w)
    let s := setWin s n { w with state := .free, n := 0 }
    let s := match w.issuer with | some a => shutterRetire s n 0 a | none => s
    .next (releaseQueue s n)

/-- Scrubbing frees a window with no commit; those that wait on it retire with status 1 (R271). -/
def scrubWin (s : State) (n : Nat) : State :=
  let w := getWin s n
  let s := setWin s n {}
  (w.issuer.toList ++ w.queue).foldl (fun s a => shutterRetire s n 1 a) s

end Sys2Proof.Machine
end

