-- ==== Sys2Proof/Machine/Trap.lean ====
section
/-!
DEFINITION. Records and their dispatch (18_faults R346, R347), the return from a trap (R350), the events of a sextant core
(19_bringup R380), and TINV (11_page R234, R237).
-/

namespace Sys2Proof.Machine

/-! ## Dispatch (R347) -/

/-- The lowest IDLE lane among 1 to 31. -/
def idleLane (k : Core) : Option Nat := findFrom (fun l => !(getLane k l).busy) 1 31

/-- A record goes to a lane, which starts at ENTRY with its registers zero. -/
def dispatchTo (s : State) (c l : Nat) (r : TrapRec) : State :=
  let k := getCore s c
  let s := setCore s c { k with recs := k.recs.tail }
  let s := modLane s c l fun _ => { busy := true, th := freshThread k.tvec (dieCycle s (dieOf c)), trec := some r }
  if r.kind = 0 then modThread s (.thread r.gid r.tid) fun t => { t with dispatched := true } else s

/-- RECORD_DISPATCH (R347) on core n1: the oldest record goes to an IDLE lane, once TVEC has been written. -/
def execRecordDispatch (s : State) : Host.Outcome State Fault Refusal :=
  let c := s.arg.n1
  let k := getCore s c
  match k.recs, idleLane k with
  | r :: _, some l => if k.tvecSet then .next (dispatchTo s c l r) else .next s
  | _, _ => .next s

/-- SEXTANT_EXCEPTION (R380) on die n1: the next queued event is taken between instructions, outside the exception, with no load of the core under way. -/
def execSextantException (s : State) : Host.Outcome State Fault Refusal :=
  let d := s.arg.n1
  let x := (getDie s d).sx
  match x.events with
  | [] => .next s
  | v :: r =>
    if !x.running || x.inExc || x.th.st != .ready || hasPend s (.sextant d) then .next s
    else
      let s := modDie s d fun w => { w with sx := { w.sx with events := r } }
      .next (sextantEnter s d v.kind v.code v.core)

/-! ## ERET (R350) -/

/-- The group and thread of a lane's thread record. -/
def laneThread (s : State) (c l : Nat) : Option (Nat × Nat) :=
  match (getLane (getCore s c) l).trec with
  | some r => if r.kind = 0 then some (r.gid, r.tid) else none
  | none => none

/-- ERET (R350). Like EXIT it waits for the loads under way, whose results belong to no later run of the lane (R346). In the steward, which holds
no record, it traps 0x02, as in a lane whose record is of another KIND (DESIGN CHOICE: the pseudocode speaks of the lane's record; notes/assumptions
88). -/
def execEret (o : OpR) (s : State) : Host.Outcome State Fault Refusal :=
  issue s o.g { right := .sup } [.sp o.a] fun e t =>
    let c := readPair t o.a.toNat
    let bad (code : Nat) : State := trap s e.who code 0 (c.toNat % 2 ^ 56)
    if hasPend s e.who then waitAt s e.who .pending
    else match e.who with
    | .sextant d =>
      match targetFault c with
      | some code => bad code
      | none => retireTo (modDie s d fun v => { v with sx := { v.sx with inExc := false } }) e t c
    | .lane k l =>
      match laneThread s k l with
      | none => trap s e.who 0x02
      | some (gid, tid) =>
        match targetFault c with
        | some code => bad code
        | none => laneIdle (resumeTrapped s gid tid c) k l
    | _ => trap s e.who 0x03

/-- ERET.exit (R350): the trapped thread retires as if it executed EXIT. In the steward it traps 0x02 (DESIGN CHOICE, notes/assumptions 88). -/
def execEretExit (o : OpR) (s : State) : Host.Outcome State Fault Refusal :=
  issue s o.g { right := .sup } [] fun e _ =>
    if hasPend s e.who then waitAt s e.who .pending
    else match e.who with
    | .lane k l =>
      match laneThread s k l with
      | none => trap s e.who 0x02
      | some (gid, tid) =>
        match getThread s (.thread gid tid) with
        | some h => laneIdle (if h.st = .trapped then exitThread s gid tid else s) k l
        | none => laneIdle s k l
    | _ => trap s e.who 0x02

/-! ## TINV (R237) -/

/-- What makes a TINV trap; `va` and `n` are its range. -/
def tinvFault (tag va n : Nat) : Option Nat :=
  if tag > 8191 ∨ n > 65536 then some 0x02
  else if n = 0 then none
  else if va % 65536 ≠ 0 then some 0x04
  else if !vaOk va then some 0x05
  else if vaOfs va + 65536 * n > 2 ^ 50 then some 0x02
  else none

/-- Is a page within the range? -/
def pageIn (va n page : Nat) : Bool := n == 0 || (va / 65536 ≤ page && page < va / 65536 + n)

/-- Translation-cache entries of a tag and range are dropped on every die. -/
def dropXlats (s : State) (tag va n : Nat) : State :=
  { s with dies := SMap.mapVal s.dies fun _ v => { v with tlb := v.tlb.filter fun x => !(x.tag == tag && pageIn va n x.page) } }

/-- The page of an armed window's other half that may serve a page (R273); elsewhere the page itself. -/
def twinPage (s : State) (tag page : Nat) : Nat :=
  match findWin (windowsNow s) tag (65536 * page) with
  | none => page
  | some w => if 65536 * page < w.base + 65536 * (w.n / 2) then page + w.n / 2 else page - w.n / 2

/-- Store-buffer entries of the range drained, its lines written back and dropped; whether all of it is done. A line of an armed
window is covered by its own page and by the page whose leaf may serve it. Entries of a frozen buffer are not drained, nor waited for: they are
marked, so that performing them fills no line (DESIGN CHOICE: R237 drains entries on every core, R362 leaves frozen ones unperformed;
notes/assumptions 82). -/
def dropRange (s : State) (tag va n : Nat) : Bool × State :=
  let mine (t l : Nat) : Bool := t == tag && (pageIn va n (l / 512) || pageIn va n (twinPage s tag (l / 512)))
  let s := drainWhere s fun x => mine x.tag x.line
  let s := spoilWhere s mine
  let s := dropLines s fun c => mine c.tag c.line
  (!(anyBuffered s fun x => mine x.tag x.line) && !anyPosted s mine, s)

/-- The threads parked on the range that no TINV has released or failed yet, with the code each parked on. -/
def parkedOn (s : State) (tag va n : Nat) : List (Agent × Nat) :=
  (allAgents s).filterMap fun a =>
    match getThread s a with
    | some t => match t.st with
      | .parked (.fault g page code due) => if due == 0 && g == tag && pageIn va n page then some (a, code) else none
      | _ => none
    | none => none

/-- What a TINV does to the parked threads it names. -/
inductive TinvOp where
  | inv | retry | fail
  deriving DecidableEq, Repr

/-- A parked thread is released, or failed with its code; one of a HALTED group keeps its state, and what a TINV has done for it is due when the
group resumes (R161). -/
def releaseOne (s : State) (fail : Bool) (a : Agent) (code : Nat) : State :=
  if heldByHalt s a then
    modThread s a fun t =>
      match t.st with
      | .parked (.fault g page c _) => { t with st := .parked (.fault g page c (if fail then 2 else 1)) }
      | _ => t
  else if fail then trap s a code
  else modThread s a fun t => { readyThread s (envOf s a) t with code := 0 }

/-- The parked threads are released or failed: how many, and the state. -/
def releaseParked (s : State) (op : TinvOp) (l : List (Agent × Nat)) : Nat × State :=
  match op with
  | .inv => (0, s)
  | .retry => (l.length, l.foldl (fun s p => releaseOne s false p.1 p.2) s)
  | .fail => (l.length, l.foldl (fun s p => releaseOne s true p.1 p.2) s)

/-- TINV, for each of its forms. -/
def tinv (s : State) (o : OpR) (op : TinvOp) : Host.Outcome State Fault Refusal :=
  issue s o.g { right := .sup } [.dx o.d, .np o.a, .sx o.b, .sx o.c] fun e t =>
    let va := (readPair t o.a.toNat).toNat
    let tag := (readX t o.b.toNat).toNat
    let n := (readX t o.c.toNat).toNat
    readAlso s e t (rangeNeeds n o.a) <| match tinvFault tag va n with
    | some c => trap s e.who c 0 (if c = 0x02 then 0 else va % 2 ^ 56)
    | none => sysFence s e t fun s =>
      let s := dropXlats s tag va n
      let (done, s) := if o.mod.getLsbD 2 then dropRange s tag va n else (true, s)
      if !done then setThread s e.who { t with st := .waiting (.shutter 1024 0) }
      else
        let (k, s) := releaseParked s op (parkedOn s tag va n)
        retire s e (writeX t o.d.toNat (BitVec.ofNat 32 (min k 0xFFFFFFFF)))

/-- TINV.inv (R237). -/
def execTinvInv (o : OpR) (s : State) : Host.Outcome State Fault Refusal := tinv s o .inv

/-- TINV.retry (R237). -/
def execTinvRetry (o : OpR) (s : State) : Host.Outcome State Fault Refusal := tinv s o .retry

/-- TINV.fail (R237). -/
def execTinvFail (o : OpR) (s : State) : Host.Outcome State Fault Refusal := tinv s o .fail

end Sys2Proof.Machine
end

