-- ==== Sys2Proof/Machine/Capture.lean ====
section
/-!
DEFINITION. Capture (18_faults R352 to R357): the raw image, its stored form, and CAPT.
-/

namespace Sys2Proof.Machine

/-! ## Blocks (R354) -/

/-- A section padded with zeros to whole blocks of 256 bytes. -/
def padTo (n : Nat) (b : List Byte) : List Byte := b ++ List.replicate ((n - b.length % n) % n) 0

/-- The blocks of a raw image. -/
def blocksOf (b : List Byte) (fuel : Nat) : List (List Byte) :=
  match fuel with
  | 0 => []
  | fuel + 1 => if b.isEmpty then [] else b.take 256 :: blocksOf (b.drop 256) fuel

/-- Are all 64 words of a block equal? -/
def sameWords (b : List Byte) : Bool := (upTo 64).all fun i => sliceBytes b (4 * i) 4 == sliceBytes b 0 4

/-- The code of a block and its payload. -/
def blockCode (b : List Byte) : Nat × List Byte :=
  if b.all fun x => x == 0 then (0, []) else if sameWords b then (1, b.take 4) else (2, b)

/-- The code map of blocks 1 on: 2 bits each, padded. -/
def codeMap (codes : List Nat) : List Byte :=
  padTo 256 ((upTo ((codes.length + 3) / 4)).map fun i =>
    BitVec.ofNat 8 ((upTo 4).foldl (fun acc k => acc + nthD codes (4 * i + k) 0 * 4 ^ k) 0))

/-- The stored image of a raw sequence of blocks. -/
def storedImage (raw : List (List Byte)) : List Byte :=
  match raw with
  | [] => []
  | h :: r =>
    let c := r.map blockCode
    h ++ codeMap (c.map (·.1)) ++ (c.map (·.2)).flatten

/-! ## Sections (R355, R356) -/

/-- The queue record of a core. -/
def queueRecord (s : State) (c : Nat) : List Byte :=
  let q (i : Nat) : EngQ := getQueue (getCore s c) i
  toBytes c 4 ++ toBytes 0 12 ++ ((upTo 4).flatMap fun i => toBytes (q i).ret.toNat 4) ++
    ((upTo 4).flatMap fun i => toBytes (readQflt (q i)) 8)

/-- The state code of R160. -/
def tstatCode (t : TStat) : Nat :=
  match t with
  | .ready => 0 | .fused => 1 | .waiting _ => 2 | .parked _ => 3 | .trapped => 4 | .exited => 5

/-- The predicates as R348 and R356 show them: p7 reads true. -/
def predByte (t : Thread) : Nat := (t.p ||| 0x80).toNat

/-- Does a thread wait in BARW, and for which token? -/
def waitToken (t : Thread) : Option Word := match t.st with | .waiting (.barw _ tok _ bars) => if bars then some tok else none | _ => none

/-- Does a thread stand at a request held by a hand-over or a route? -/
def heldThread (t : Thread) : Bool := match t.st with | .waiting (.held _ _ _) => true | .waiting .route => true | _ => false

/-- The state code as an image shows it: a thread parked in YIELD, like one that waits, issues its instruction again. -/
def imageCode (t : Thread) : Nat := tstatCode t.st

/-- A trap code, for TRAPPED and for PARKED on a fault. -/
def imageTrap (t : Thread) : Nat :=
  match t.st with
  | .trapped => t.code
  | .parked (.fault _ _ code _) => code
  | _ => 0

/-- Has a code an address in TRECC (R347)? -/
def codeHasVa (c : Nat) : Bool := c == 4 || c == 5 || c == 8 || c == 9 || c == 0x15

/-- The 32-byte record of a thread. -/
def threadRecord (t : Thread) : List Byte :=
  let trapped : Bool := match t.st with | .trapped => true | _ => false
  let flags := ofBool t.idemOff + 2 * ofBool (trapped && t.dispatched) + 4 * ofBool (heldThread t) + 8 * ofBool (waitToken t).isSome
  toBytes t.pc.toNat 8 ++ toBytes (imageCode t) 1 ++ toBytes (predByte t) 1 ++ toBytes flags 1 ++ toBytes (imageTrap t) 1 ++
    toBytes (if trapped then t.arg.toNat else 0) 4 ++ toBytes (if trapped ∧ codeHasVa t.code then t.va else 0) 8 ++
    toBytes ((waitToken t).getD 0).toNat 4 ++ toBytes 0 4

/-- The registers of a thread. -/
def threadRegs (nr : Nat) (t : Thread) : List Byte := (upTo nr).flatMap fun r => toBytes (readX t r).toNat 4

/-- Bits as bytes: flag `i` of `n` from a list of those set. -/
def flagBytes (n : Nat) (l : List Nat) : List Byte :=
  (upTo ((n + 7) / 8)).map fun i => BitVec.ofNat 8 ((upTo 8).foldl (fun acc k => acc + ofBool (l.contains (8 * i + k)) * 2 ^ k) 0)

/-- The barriers of a group. -/
def barrierSection (g : Group) : List Byte :=
  ((upTo 16).flatMap fun n =>
    let b := getBar g n
    toBytes (ofBool (!b.all)) 1 ++ toBytes 0 3 ++ toBytes (barExp g b) 4 ++ toBytes b.arr 4 ++ toBytes b.phase.toNat 4) ++
  ((upTo 16).flatMap fun n => flagBytes g.threads.length (getBar g n).arrived)

/-- The pending queues of a rank. -/
def pendingSection (g : Group) (rank : Nat) : List Byte :=
  (upTo 4).flatMap fun q =>
    let l := SMap.get g.pend (4 * rank + q) []
    toBytes l.length 4 ++ ((upTo 64).flatMap fun i => toBytes (nthD l i 0).toNat 4)

/-- The scratch of a rank. -/
def scratchSection (g : Group) (rank : Nat) : List Byte := scratchRead g (rank * 2 ^ 24) g.scratchSize

/-- A header of 256 bytes. -/
def headerBytes (kind cause c n id x : Nat) (more : List Nat) (tick : Nat) : List Byte :=
  padTo 256 (toBytes 0x43415031 4 ++ toBytes kind 1 ++ toBytes cause 1 ++ toBytes c 1 ++ toBytes 0 1 ++ toBytes n 4 ++ toBytes id 4 ++
    toBytes x 4 ++ (more.flatMap fun v => toBytes v 4) ++ toBytes 0 4 ++ toBytes tick 8)

/-- The raw image of a group, its header aside. -/
def groupBody (s : State) (g : Group) : List Byte :=
  let nr := roundRegs g.regs
  let ranks := upTo g.slices.length
  padTo 256 (g.slices.flatMap fun p => queueRecord s p.1) ++ padTo 256 (g.threads.flatMap threadRecord) ++
    padTo 256 (g.threads.flatMap (threadRegs nr)) ++
    padTo 256 ((upTo 160).flatMap fun r => toBytes (SMap.get (nthD g.k 0 []) r 0).toNat 4) ++ padTo 256 (barrierSection g) ++
    padTo 256 (ranks.flatMap (pendingSection g)) ++ padTo 256 (ranks.flatMap (scratchSection g))

/-- The image of a group. -/
def groupImage (s : State) (g : Group) : List Byte :=
  let body := groupBody s g
  let n := 1 + body.length / 256
  let h := headerBytes 0 g.cause g.slices.length n g.ctx g.lid.toNat
    [g.flat, g.threads.length, roundRegs g.regs, g.scratchSize] g.haltTick
  storedImage (h :: blocksOf body (n + 1))

/-- A store-buffer entry in an image. -/
def sbRecord (x : SbEntry) : List Byte :=
  padTo 256 (toBytes (128 * x.line) 8 ++ toBytes x.tag 2 ++ toBytes 0 2 ++ toBytes x.slotTid 4 ++ toBytes x.mask.toNat 16 ++
    toBytes x.data.toNat 128)

/-- The image of a halted core. -/
def coreImage (s : State) (c : Nat) : List Byte :=
  let k := getCore s c
  let body := padTo 256 (queueRecord s c) ++ k.frozen.flatMap sbRecord
  let n := 1 + body.length / 256
  let h := headerBytes 1 k.cause 1 n c k.frozen.length [0, 0, 0, 0] k.haltTick
  storedImage (h :: blocksOf body (n + 1))

/-! ## Writing an image (R353) -/

/-- The pair of CAPT: status and length. -/
def captDone (s : State) (e : Env) (t : Thread) (d st len : Nat) : State :=
  retire s e (writePair t d (BitVec.ofNat 64 (st + 2 ^ 32 * len)))

/-- The release at system scope after an image, then the status. -/
def captRelease (s : State) (e : Env) (t : Thread) (d len : Nat) : State :=
  releaseThen s e t 5 fun s => captDone s e t d 0 len

/-- The stores of an image of `n` bytes enter the store buffer, then the release and the status. What is left to write, and the length, stay with the
thread, whatever becomes of the group meanwhile. -/
def imageStores (s : State) (e : Env) (t : Thread) (d n : Nat) (l : List SbEntry) : State :=
  storeAll s e l fun s => captRelease s e { t with stores := [] } d n

/-- An image that a CAPT has begun to write is written on, or its release waited for. -/
def imageOn (s : State) (e : Env) (t : Thread) (d n : Nat) : State :=
  if !t.stores.isEmpty then imageStores s e t d n t.stores else captRelease s e t d n

/-- An image written at an address: every page is checked before the first store; a fault of any gives status 2, with its record (R235) and no
parking. -/
def writeImage (s : State) (e : Env) (t : Thread) (d va : Nat) (b : List Byte) : State :=
  let a : Acc := { threadAcc e (BitVec.ofNat 64 va) b.length with kind := 1, write := true }
  match checkPieces s a (piecesOf va b.length) [] with
  | .error (.fault f) => captDone (postFault s f) e t d 2 0
  | .error x => takeStop s e.who x
  | .ok (ts, s) =>
    let t := { t with capt := some ((t.capt.map (·.1)).getD 0, b.length) }
    imageStores (setThread s e.who t) e t d b.length (entriesOf s e ts b false)

/-- The length of the image that a CAPT has begun to write. -/
def imageBegun (t : Thread) : Option Nat := match t.capt with | some (_, n) => if n = 0 then none else some n | none => none

/-- Is the handle's image address misaligned? -/
def imageFault (va : Nat) : Bool := va % 256 != 0

/-! ## CAPT.group -/

/-- The group is halted, and a capture record is posted on each of its cores. -/
def captureHalt (s : State) (gid : Nat) : State :=
  let s := haltGroup s gid 0x14
  match getGroup s gid with
  | none => s
  | some g => g.slices.foldl (fun s p => postRec s p.1
      { kind := 2, code := 0x14, epc := 0, arg := 0, slot := p.2, tid := 0, q := 0, va := 0, gid := gid }) s

/-- Are the group's stores performed on its cores that are not halted, its requests back, its issued instructions retired (R352), and the queues of its
cores at rest (R121)? -/
def groupDrained (s : State) (gid : Nat) (g : Group) : Bool :=
  let mine (a : Agent) : Bool := match a with | .thread g' _ => g' == gid | _ => false
  !(g.slices.any fun p => (getCore s p.1).sb.any fun x => mine x.who) && !(s.pends.any fun p => mine p.who && !p.drop) &&
    !(g.threads.any (·.finishing)) &&
    g.slices.all fun p => queuesAtRest s p.1 && !(getCore s p.1).freezing

/-- Its entries drained as far as they can be. -/
def drainGroup (s : State) (gid : Nat) : State :=
  drainWhere s fun x => match x.who with | .thread g _ => g == gid | _ => false

/-- The group that a CAPT.group captures: the one it has halted already, while that is HALTED, or that of the handle's slot. -/
def captTarget (s : State) (t : Thread) (h : Nat) : Option (Nat × Group) :=
  match t.capt with
  | some (gid, _) => (getGroup s gid).bind fun g => if g.state = .halted then some (gid, g) else none
  | none =>
    match (SMap.find (getCore s (h / 64)).slots (h % 64)).bind fun v => (getGroup s v.gid).map fun g => (v.gid, g) with
    | some (gid, g) => if g.state = .placing ∨ g.state = .dropping then none else some (gid, g)
    | none => none

/-- CAPT.group (R353). A group that another resumes or kills before its image is composed is none to capture any more. -/
def execCaptGroup (o : OpR) (s : State) : Host.Outcome State Fault Refusal :=
  issue s o.g { right := .sup } [.dp o.d, .sx o.a, .sp o.b] fun e t =>
    let h := (readX t o.a.toNat).toNat
    let va := (readPair t o.b.toNat).toNat
    if h > 40959 then trap s e.who 0x02
    else if imageFault va then trap s e.who 0x04 0 (va % 2 ^ 56)
    else match imageBegun t with
      | some n => imageOn s e t o.d.toNat n
      | none =>
        match captTarget s t h with
        | none => captDone s e t o.d.toNat 1 0
        | some (gid, g) =>
          let t := { t with capt := some (gid, 0) }
          let s := setThread (drainGroup (if g.state = .halted then g.slices.foldl (fun s p => stopCore s p.1) s else captureHalt s gid) gid) e.who t
          match getGroup s gid with
          | none => captDone s e t o.d.toNat 1 0
          | some g =>
            if !groupDrained s gid g then waitAt s e.who (.shutter 1024 0)
            else writeImage s e t o.d.toNat va (groupImage s g)

/-- CAPT.core (R353). -/
def execCaptCore (o : OpR) (s : State) : Host.Outcome State Fault Refusal :=
  issue s o.g { right := .sup } [.dp o.d, .sx o.a, .sp o.b] fun e t =>
    let c := (readX t o.a.toNat).toNat
    let va := (readPair t o.b.toNat).toNat
    if c > 639 then trap s e.who 0x02
    else if imageFault va then trap s e.who 0x04 0 (va % 2 ^ 56)
    else match imageBegun t with
      | some n => imageOn s e t o.d.toNat n
      | none =>
        if !(getCore s c).halted then captDone s e t o.d.toNat 1 0
        else
          let s := stopCore s c
          if !queuesAtRest s c || (getCore s c).freezing then waitAt s e.who (.shutter 1024 0)
          else writeImage s e t o.d.toNat va (coreImage s c)

/-- CAPT.resume (R353). -/
def execCaptResume (o : OpR) (s : State) : Host.Outcome State Fault Refusal :=
  issue s o.g { right := .sup } [.dp o.d, .sx o.a] fun e t =>
    let h := (readX t o.a.toNat).toNat
    if h > 40959 then trap s e.who 0x02
    else match (SMap.find (getCore s (h / 64)).slots (h % 64)).bind fun v => (getGroup s v.gid).map fun g => (v.gid, g) with
      | none => captDone s e t o.d.toNat 1 0
      | some (gid, g) =>
        if g.state ≠ .halted then captDone s e t o.d.toNat 1 0
        else if g.slices.any fun p => (getCore s p.1).halted then captDone s e t o.d.toNat 3 0
        else captDone (resumeGroup s gid) e t o.d.toNat 0 0

end Sys2Proof.Machine
end

