-- ==== Sys2Proof/Machine/Ray.lean ====
section
/-!
DEFINITION. The ray traversal unit (17_frame R334 to R338). Every test is exact, on rationals; the outcome of a test on geometry that is
not finite, which the spec does not state, is a free value (notes/assumptions 5).
-/

namespace Sys2Proof.Machine

/-! ## Exact values -/

/-- Two to an integer power. -/
def pow2 (e : Int) : Rat := if e ≥ 0 then ((2 ^ e.toNat : Nat) : Rat) else 1 / ((2 ^ (-e).toNat : Nat) : Rat)

/-- The rational of a finite value; zero for any other. -/
def ratOf (v : Val) : Rat :=
  match v with
  | .fin neg m e => (if neg then -(m : Rat) else (m : Rat)) * pow2 e
  | _ => 0

/-- The FP32 encoding of a rational rounded RNE. -/
def roundRat (r : Rat) : Nat :=
  roundF (Val.div (.fin (r.num < 0) r.num.natAbs 0) (.fin false r.den 0)) .fp32 .rne

/-- An FP32 value, and whether it is finite. -/
def fp32Val (enc : Nat) : Val := decodeElem enc .fp32
def isFin (v : Val) : Bool := match v with | .fin _ _ _ => true | _ => false

/-- Is a rational at most, or at least, an FP32 bound? -/
def atMost (t : Rat) (enc : Nat) : Bool :=
  match fp32Val enc with
  | .nan => false
  | .inf neg => !neg
  | v => t ≤ ratOf v
def atLeast (t : Rat) (enc : Nat) : Bool :=
  match fp32Val enc with
  | .nan => false
  | .inf neg => neg
  | v => ratOf v ≤ t

/-- Is one FP32 value less than another? No comparison with a NaN holds. -/
def valLt (a b : Val) : Bool :=
  match a, b with
  | .nan, _ | _, .nan => false
  | .inf x, .inf y => x && !y
  | .inf x, _ => x
  | _, .inf y => !y
  | _, _ => ratOf a < ratOf b

/-- A vector of three values. -/
structure Vec where
  x : Val
  y : Val
  z : Val
  deriving DecidableEq, Repr

def Vec.fin (v : Vec) : Bool := isFin v.x && isFin v.y && isFin v.z

/-- A vector of rationals. -/
structure Vq where
  x : Rat
  y : Rat
  z : Rat

def Vec.q (v : Vec) : Vq := { x := ratOf v.x, y := ratOf v.y, z := ratOf v.z }
def Vq.sub (a b : Vq) : Vq := { x := a.x - b.x, y := a.y - b.y, z := a.z - b.z }
def Vq.dot (a b : Vq) : Rat := a.x * b.x + a.y * b.y + a.z * b.z
def Vq.cross (a b : Vq) : Vq :=
  { x := a.y * b.z - a.z * b.y, y := a.z * b.x - a.x * b.z, z := a.x * b.y - a.y * b.x }
def Vq.along (o d : Vq) (t : Rat) : Vq := { x := o.x + t * d.x, y := o.y + t * d.y, z := o.z + t * d.z }

/-- The FP32 value at byte `i` of a record, and a vector of three. -/
def valAt (b : List Byte) (i : Nat) : Val := fp32Val (ofBytes (sliceBytes b i 4))
def vecAt (b : List Byte) (i : Nat) : Vec := { x := valAt b i, y := valAt b (i + 4), z := valAt b (i + 8) }
/-- The 32-bit and 64-bit numbers at byte `i`. -/
def word32 (b : List Byte) (i : Nat) : Nat := ofBytes (sliceBytes b i 4)
def word64 (b : List Byte) (i : Nat) : Nat := ofBytes (sliceBytes b i 8)

/-! ## Pointers (R334) -/

def ptrKind (p : Nat) : Nat := field p 56 2
def ptrAddr (p : Nat) : Nat := field p 0 56
def ptrBad (p : Nat) : Bool := field p 58 6 != 0 || field p 0 6 != 0

/-! ## The state of a traversal -/

/-- A stack entry (R337). -/
structure StackEnt where
  ptr : Nat
  t : Nat
  frame : Bool
  deriving DecidableEq, Repr

/-- The best hit so far (R336 step 4). -/
structure Best where
  exact_ : Rat
  t : Nat
  u : Nat
  v : Nat
  pid : Nat
  iid : Nat
  face : Nat

/-- A scratch area of spill entries: its offset, capacity and spill count, and whether its link is to be followed. -/
structure Area where
  s : Nat
  c : Nat
  n : Nat
  linked : Bool
  deriving DecidableEq, Repr

/-- A traversal under way: the ray, the on-chip entries (newest first), its own area, how far pops have got in the areas before that one, the
instance entered, the ray in its space, and the best hit. -/
structure Walker where
  s : State
  e : Env
  tmin : Nat
  tmax : Nat
  term : Bool
  cullb : Bool
  o : Vec
  d : Vec
  chip : List StackEnt := []
  area : Area
  back : Option Area := none
  inst : Nat := 0
  iid : Nat := 0xFFFFFFFF
  io : Vec
  id : Vec
  best : Option Best := none

/-- tcur (R336). -/
def Walker.tcur (w : Walker) : Nat := match w.best with | some b => b.t | none => w.tmax

/-- A free value for the walker. -/
def Walker.free (w : Walker) : Nat × Walker := ((freeVal w.s).1.toNat, { w with s := (freeVal w.s).2 })

/-! ## The stack (R337) -/

/-- The 16 bytes of an entry; those of a frame entry that carry no meaning are free. -/
def entBytes (w : Walker) (x : StackEnt) : List Byte :=
  if x.frame then toBytes (Config.freeValue w.s.free).toNat 8 ++ toBytes (Config.freeValue (w.s.free + 1)).toNat 4 ++ toBytes 1 4
  else toBytes x.ptr 8 ++ toBytes x.t 4 ++ toBytes 0 4

/-- An entry from its bytes. -/
def entOf (b : List Byte) : StackEnt := { ptr := word64 b 0, t := word32 b 8, frame := bit (word32 b 12) 0 }

/-- Bytes of the issuing group's scratch. -/
def Walker.scratch (w : Walker) (o n : Nat) : List Byte := scratchRead ((getGroup w.s w.e.gid).getD {}) o n
/-- Are bytes of it poisoned, so that a read of them faults 0x08 (R364)? -/
def Walker.poisoned (w : Walker) (o n : Nat) : Bool := scratchBad ((getGroup w.s w.e.gid).getD {}) o n
def Walker.put (w : Walker) (o : Nat) (b : List Byte) : Walker :=
  { w with s := modGroup w.s w.e.gid fun g => scratchWrite g o b }

/-- A push: the oldest on-chip entry moves to the area where the chip holds 8; `none` is an exhaustion. -/
def Walker.push (w : Walker) (x : StackEnt) : Option Walker :=
  if w.chip.length < 8 then some { w with chip := x :: w.chip }
  else if w.area.n ≥ w.area.c then none
  else
    let old := w.chip.getLastD x
    let w' := w.put (w.area.s + 16 * w.area.n) (entBytes w old)
    some { w' with chip := x :: w.chip.dropLast, area := { w.area with n := w.area.n + 1 },
                   s := { w'.s with free := w'.s.free + 2 } }

/-- The place of an area's link. -/
def Area.link (a : Area) : Nat := a.s + 16 * (a.c + 8)

/-- The area that another's link names, where it is VALID. -/
def Walker.prev (w : Walker) (a : Area) : Option Area :=
  if !a.linked then none
  else
    let b := w.scratch a.link 16
    if bit (word32 b 4) 16 then
      some { s := word32 b 0, c := (nthD b 4 0).toNat, n := (nthD b 5 0).toNat, linked := true }
    else none

/-- What a pop finds: an entry, an empty stack, a chain of empty areas without an end, or a poisoned word of scratch (R364). -/
inductive Popped where
  | entry (x : StackEnt) (w : Walker)
  | empty
  | endless
  | poisoned

/-- A pop from the areas before the walk's own, from one on. -/
def Walker.popBack (w : Walker) (a : Area) (fuel : Nat) : Popped :=
  if a.n > 0 then
    let o := a.s + 16 * (a.n - 1)
    if w.poisoned o 16 then .poisoned else .entry (entOf (w.scratch o 16)) { w with back := some { a with n := a.n - 1 } }
  else match fuel with
    | 0 => .endless
    | fuel + 1 =>
      if a.linked && w.poisoned a.link 16 then .poisoned
      else match w.prev a with
        | some b => Walker.popBack w b fuel
        | none => .empty

/-- A bound on a chain of empty areas: more than there are places of a link, each of which names one area. -/
def chainFuel : Nat := 2 ^ 34

/-- A pop (R337): from the chip, else the newest spill entry of the walk's own area, else of the areas before it. -/
def Walker.pop (w : Walker) : Popped :=
  match w.chip with
  | x :: r => .entry x { w with chip := r }
  | [] =>
    if w.area.n > 0 then
      let o := w.area.s + 16 * (w.area.n - 1)
      if w.poisoned o 16 then .poisoned
      else .entry (entOf (w.scratch o 16)) { w with area := { w.area with n := w.area.n - 1 } }
    else match w.back with
      | some a => w.popBack a chainFuel
      | none =>
        if w.area.linked && w.poisoned w.area.link 16 then .poisoned
        else match w.prev w.area with
          | some a => w.popBack a chainFuel
          | none => .empty

/-! ## Tests (R336) -/

/-- An interval of t: `none` is unbounded. -/
structure Iv where
  lo : Option Rat
  hi : Option Rat

def Iv.from (i : Iv) (t : Rat) : Iv := { i with lo := match i.lo with | some a => some (max a t) | none => some t }
def Iv.upto (i : Iv) (t : Rat) : Iv := { i with hi := match i.hi with | some b => some (min b t) | none => some t }

def Iv.ok (i : Iv) : Bool := match i.lo, i.hi with | some a, some b => a ≤ b | _, _ => true

/-- The real t in [TMIN, tcur]: `none` where there is none, TMIN being +∞ or tcur −∞. -/
def Walker.span (w : Walker) : Option Iv :=
  let b (enc : Nat) : Option Rat := match fp32Val enc with | .fin n m e => some (ratOf (.fin n m e)) | _ => none
  if fp32Val w.tmin = .inf false ∨ fp32Val w.tcur = .inf true then none else some { lo := b w.tmin, hi := b w.tcur }

/-- Has an axis of a box no point: its minimum above its maximum, or no real number between them? -/
def axisEmpty (mn mx : Val) : Bool := valLt mx mn || mn == .inf false || mx == .inf true

/-- Bounds of an axis, `none` where it has none. -/
def boundOf (v : Val) : Option Rat := if isFin v then some (ratOf v) else none

/-- One axis of a box; `none` where the ray misses the slab. -/
def slab (i : Iv) (o d : Rat) (mn mx : Val) : Option Iv :=
  let lo := boundOf mn
  let hi := boundOf mx
  if d = 0 then
    (if lo.all (fun a => a ≤ o) && hi.all (fun b => o ≤ b) then some i else none)
  else
    let (near, far) := if d > 0 then (lo, hi) else (hi, lo)
    let i := match near with | some a => i.from ((a - o) / d) | none => i
    some (match far with | some b => i.upto ((b - o) / d) | none => i)

/-- Is a child box hit, and with which entry t (R336 step 1)? With no least t it is −∞ (notes/assumptions 23). -/
def Walker.box (w : Walker) (mn mx : Vec) : Option Nat × Walker :=
  if axisEmpty mn.x mx.x || axisEmpty mn.y mx.y || axisEmpty mn.z mx.z then (none, w)
  else if [mn.x, mn.y, mn.z, mx.x, mx.y, mx.z].any (·.isNan) || !(w.io.fin && w.id.fin) then
    let (f, w) := w.free
    (if bit f 32 then some (f % 2 ^ 32) else none, w)
  else
    let o := w.io.q
    let d := w.id.q
    let r := do
      let i ← w.span
      let i ← slab i o.x d.x mn.x mx.x
      let i ← slab i o.y d.y mn.y mx.y
      let i ← slab i o.z d.z mn.z mx.z
      if i.ok then some (match i.lo with | some a => roundRat a | none => 0xFF800000) else none
    (r, w)

/-- A triangle's hit (R336 step 3): the exact t, the rounded T, U and V, and the face. -/
def Walker.tri (w : Walker) (v0 v1 v2 : Vec) : Option (Rat × Nat × Nat × Nat × Nat) × Walker :=
  if !(v0.fin && v1.fin && v2.fin && w.io.fin && w.id.fin) then
    let (f, w) := w.free
    let (g, w) := w.free
    (if bit f 32 then some (0, f % 2 ^ 32, g % 2 ^ 32, g / 2 ^ 32 % 2 ^ 32, field f 33 1) else none, w)
  else
    let o := w.io.q
    let d := w.id.q
    let e1 := v1.q.sub v0.q
    let e2 := v2.q.sub v0.q
    let n := e1.cross e2
    let det := n.dot d
    let nn := n.dot n
    if det = 0 ∨ nn = 0 then (none, w)
    else
      let t := n.dot (v0.q.sub o) / det
      let p := (o.along d t).sub v0.q
      let u := n.dot (p.cross e2) / nn
      let v := n.dot (e1.cross p) / nn
      let back := decide (det > 0)
      let hit := u ≥ 0 && v ≥ 0 && u + v ≤ 1 && atLeast t w.tmin && atMost t w.tcur && !(w.cullb && back)
      (if hit then some (t, roundRat t, roundRat u, roundRat v, ofBool back) else none, w)

/-- Does a hit replace the best (R336 step 4)? -/
def Walker.better (w : Walker) (t : Rat) (pid : Nat) : Bool :=
  match w.best with
  | none => true
  | some b => t < b.exact_ || (t == b.exact_ && (pid < b.pid || (pid == b.pid && w.iid < b.iid)))

/-- o' and d' of an instance (R336 step 5): each component rounded to FP32. -/
def transform (m : List Byte) (v : Vec) (one : Val) : Vec :=
  let row (r : Nat) : Val :=
    let c (k : Nat) : Val := valAt m (16 * r + 4 * k)
    fp32Val (roundF (sumExact [(c 0).mul v.x, (c 1).mul v.y, (c 2).mul v.z, (c 3).mul one]) .fp32 .rne)
  { x := row 0, y := row 1, z := row 2 }

/-! ## The walk -/

/-- How a walk ends. -/
inductive WalkEnd where
  | done (w : Walker)
  | malformed (w : Walker)
  | exhausted (w : Walker) (next : Nat)
  | stop (p : Stop)
  | fuel

/-- A 64-byte node. -/
def Walker.node (w : Walker) (p : Nat) : Except Stop (List Byte × Walker) :=
  match readRange w.s (engineAcc w.e (ptrAddr p) 64) {} with
  | .error x => .error x
  | .ok (b, s) => .ok (b, { w with s := s })

/-- What a node visit leads to: another node at once, the next pop, or an end. -/
inductive Visit where
  | go (w : Walker) (p : Nat)
  | pop (w : Walker)
  | fin (x : WalkEnd)

/-- A box node (R336 steps 1 and 2); a child with an empty pointer is never hit. -/
def visitBox (w : Walker) (p : Nat) (b : List Byte) : Visit :=
  let p0 := word64 b 48
  let p1 := word64 b 56
  let hit (w : Walker) (q i : Nat) : Option Nat × Walker :=
    if !ptrBad q && ptrKind q = 0 then (none, w) else w.box (vecAt b i) (vecAt b (i + 12))
  let (h0, w) := hit w p0 0
  let (h1, w) := hit w p1 24
  match h0, h1 with
  | none, none => .pop w
  | some _, none => .go w p0
  | none, some _ => .go w p1
  | some t0, some t1 =>
    let first1 := valLt (fp32Val t1) (fp32Val t0)
    let (near, far, ft) := if first1 then (p1, p0, t0) else (p0, p1, t1)
    match w.push { ptr := far, t := ft, frame := false } with
    | some w => .go w near
    | none => .fin (.exhausted w p)

/-- A triangle node (R336 steps 3, 4 and 7). -/
def visitTri (w : Walker) (b : List Byte) : Visit :=
  let (h, w) := w.tri (vecAt b 0) (vecAt b 12) (vecAt b 24)
  match h with
  | none => .pop w
  | some (t, te, u, v, face) =>
    let pid := word32 b 36
    let w := if w.better t pid then
        { w with best := some { exact_ := t, t := te, u := u, v := v, pid := pid, iid := w.iid, face := face } }
      else w
    if w.term then .fin (.done w) else .pop w

/-- The ray in the space of an instance node. -/
def enterInst (w : Walker) (p : Nat) (b : List Byte) : Walker :=
  { w with inst := p, iid := word32 b 56, io := transform b w.o (.fin false 1 0), id := transform b w.d (.fin false 0 0) }

/-- Back to world space. -/
def leaveInst (w : Walker) : Walker := { w with inst := 0, iid := 0xFFFFFFFF, io := w.o, id := w.d }

/-- An instance node (R336 step 5). -/
def visitInst (w : Walker) (p : Nat) (b : List Byte) : Visit :=
  if w.inst ≠ 0 then .fin (.malformed w)
  else match w.push { ptr := 0, t := 0, frame := true } with
    | none => .fin (.exhausted w p)
    | some w => .go (enterInst w p b) (word64 b 48)

/-- One node visit. -/
def visit (w : Walker) (p : Nat) : Visit :=
  if ptrBad p then .fin (.malformed w)
  else if ptrKind p = 0 then .pop w
  else match w.node p with
    | .error x => .fin (.stop x)
    | .ok (b, w) =>
      match ptrKind p with
      | 1 => visitBox w p b
      | 2 => visitTri w b
      | _ => visitInst w p b

/-- The walk from a node (`some`) or from the next pop (`none`), within a number of visits and pops. -/
def walkRay (fuel : Nat) (w : Walker) (p : Option Nat) : WalkEnd :=
  match fuel with
  | 0 => .fuel
  | fuel + 1 =>
    match p with
    | some p => match visit w p with
      | .go w q => walkRay fuel w (some q)
      | .pop w => walkRay fuel w none
      | .fin x => x
    | none =>
      match w.pop with
      | .empty => .done w
      | .endless => .malformed w
      | .poisoned => .stop (.fault { code := 8, va := 0 })
      | .entry x w =>
        if x.frame then walkRay fuel (leaveInst w) none
        else if valLt (fp32Val w.tcur) (fp32Val x.t) then walkRay fuel w none
        else walkRay fuel w (some x.ptr)

/-! ## The hit record (R335, R337) -/

/-- Bytes 4 to 31 of a best hit. -/
def bestBytes (b : Best) : List Byte :=
  toBytes b.t 4 ++ toBytes b.u 4 ++ toBytes b.v 4 ++ toBytes b.pid 4 ++ toBytes b.iid 4 ++ toBytes b.face 4 ++ toBytes 1 4

/-- Free bytes. -/
def freeBytes (w : Walker) (n : Nat) : List Byte :=
  ((upTo ((n + 7) / 8)).flatMap fun i => toBytes (Config.freeValue (w.s.free + i)).toNat 8).take n

/-- A miss or a malformed result: zero, but for IID. -/
def plainRecord (st : Nat) : List Byte :=
  toBytes st 4 ++ toBytes 0 16 ++ toBytes 0xFFFFFFFF 4 ++ toBytes 0 40

/-- The bytes of a link to an area. -/
def linkBytes (a : Area) : List Byte := toBytes a.s 4 ++ toBytes a.c 1 ++ toBytes a.n 1 ++ toBytes 1 1 ++ toBytes 0 9

/-- The record of a walk that ended, and the walker that has written what the area takes. The link of an area whose
walk has popped entries of earlier areas names what is left of them (notes/assumptions 23). -/
def recordOf (x : WalkEnd) : Option (List Byte × Walker) :=
  match x with
  | .done w => match w.best with
    | none => some (plainRecord 0, w)
    | some b => some (toBytes 1 4 ++ bestBytes b ++ toBytes 0 8 ++ freeBytes w 24, { w with s := { w.s with free := w.s.free + 3 } })
  | .malformed w => some (plainRecord 3, w)
  | .exhausted w next =>
    let freeze := (w.chip.reverse.zip (upTo 8)).foldl (fun (v : Walker) x =>
      v.put (w.area.s + 16 * (w.area.c + x.2)) (entBytes { w with s := { w.s with free := w.s.free + 2 * x.2 } } x.1)) w
    let best := match w.best with
      | some b => bestBytes b
      | none => freeBytes { w with s := { w.s with free := w.s.free + 16 } } 24 ++ toBytes 0 4
    let token := toBytes next 8 ++ toBytes w.area.s 4 ++ toBytes w.area.c 1 ++ toBytes w.area.n 1 ++ toBytes 8 1 ++ toBytes 0 1 ++
      toBytes w.inst 8
    let v := match w.back with
      | some a => freeze.put w.area.link (linkBytes a)
      | none => if w.area.linked then freeze else freeze.put w.area.link (toBytes 0 16)
    some (toBytes 2 4 ++ best ++ toBytes 0 8 ++ token, { v with s := { v.s with free := v.s.free + 19 } })
  | _ => none

/-! ## A ray entry -/

/-- The best hit that a record of a suspended walk holds. -/
def bestOf (b : List Byte) : Option Best :=
  if bit (word32 b 28) 0 then
    some { exact_ := ratOf (valAt b 4), t := word32 b 4, u := word32 b 8, v := word32 b 12, pid := word32 b 16, iid := word32 b 20,
           face := word32 b 24 }
  else none

/-- The bound on visits and pops of a walk. It is more than a walk has different states (8 entries on chip, 56 in its area, its place in a tree and
in a chain of areas), so that a walk with no free value that ends at all ends within it; one without an end stays under way. -/
def rayFuel : Nat := 2 ^ 8192

/-- A resumed traversal (R337): the link of the new area, the freeze entries back on chip, the instance entered again. -/
def resumeRay (w : Walker) (hit : List Byte) : WalkEnd :=
  let old : Area := { s := word32 hit 48, c := (nthD hit 52 0).toNat, n := (nthD hit 53 0).toNat, linked := true }
  let w := { w with best := bestOf hit }
  let w := w.put w.area.link (linkBytes old)
  let w := { w with area := { w.area with linked := true } }
  let count := min 8 (nthD hit 54 0).toNat
  let chip := ((upTo count).map fun i => entOf (w.scratch (old.s + 16 * (old.c + i)) 16)).reverse
  let bad := w.poisoned (old.s + 16 * old.c) (16 * count)
  let w := { w with chip := chip }
  let inst := word64 hit 56
  if bad then .stop (.fault { code := 8, va := 0 })
  else if inst = 0 then walkRay rayFuel w (some (word64 hit 40))
  else match w.node inst with
    | .error x => .stop x
    | .ok (b, w) => walkRay rayFuel (enterInst w inst b) (some (word64 hit 40))

/-- A ray that is a miss at once (R335), a resumed one too. -/
def rayMiss (b : List Byte) : Bool :=
  let nan (i : Nat) : Bool := (valAt b i).isNan
  let zero (i : Nat) : Bool := match valAt b i with | .fin _ m _ => m == 0 | _ => false
  [0, 4, 8, 12, 16, 20, 24, 28].any nan || (zero 16 && zero 20 && zero 24) || valLt (valAt b 28) (valAt b 12) ||
    ptrKind (word64 b 32) == 0

/-- The walk of a ray record. -/
def runRay (w : Walker) (b : List Byte) : WalkEnd :=
  let flags := word32 b 48
  if flags ≥ 8 then .malformed w
  else if rayMiss b then .done w
  else if bit flags 2 then
    match readRange w.s (engineAcc w.e (word64 b 40) 64) {} with
    | .error x => .stop x
    | .ok (hit, s) => resumeRay { w with s := s } hit
  else walkRay rayFuel w (some (word64 b 32))

/-- The hit record is written, and the entry's work is done. -/
def writeHit (s : State) (c : Nat) (e : Env) (va : Nat) (rec_ : List Byte) : Except Stop State :=
  let a : Acc := { engineAcc e va 64 with kind := 1, write := true }
  match checkPieces s a (piecesOf va 64) [] with
  | .error x => .error x
  | .ok (ts, s) =>
    match pushPieces s e ts rec_ false with
    | .error x => .error x
    | .ok s => .ok (modQueue s c 2 fun k => { k with hst := 3 })

/-- The whole of a ray entry. -/
def rayEntry (s : State) (c : Nat) (t : BitVec 256) : Except Stop State :=
  let e := envOf s (.engine c 2)
  match readRange s (engineAcc e (field t.toNat 64 64) 64) {} with
  | .error x => .error x
  | .ok (b, s) =>
    let flags := word32 b 48
    let w : Walker :=
      { s := s, e := e, tmin := word32 b 12, tmax := word32 b 28, term := bit flags 0, cullb := bit flags 1, o := vecAt b 0,
        d := vecAt b 16, io := vecAt b 0, id := vecAt b 16,
        area := { s := tplWord t 1, c := field t.toNat 128 6, n := 0, linked := false } }
    match runRay w b with
    | .stop x => .error x
    | .fuel => .error (.wait .regs)
    | x => match recordOf x with
      | some (r, w) => writeHit w.s c e (word64 b 40) r
      | none => .error (.wait .regs)

/-- RAY_TRAVERSAL (R336) on core n1: the head of q2 runs, or faults; one that has to wait is not run. -/
def execRayTraversal (s : State) : Host.Outcome State Fault Refusal :=
  let c := s.arg.n1
  let q := getQueue (getCore s c) 2
  match headOf q with
  | none => .next s
  | some h =>
    if !working q || !engineOn s c q then .next s
    else .next (engineEnd s c 2 (rayEntry s c h.tpl))

end Sys2Proof.Machine
end

