-- ==== Sys2Proof/Machine/Work.lean ====
section
/-!
DEFINITION. Records of work (05_kernel R91, R97 to R101, R388): the device's own reads, the checks of each record, the choice of a
variant, and the creation of a launch (R103).
-/

namespace Sys2Proof.Machine

/-! ## The device's own reads (R388) -/

/-- The access of a read or write that the device makes for a context; it comes from die 0 (notes/assumptions 20). -/
def devAcc (ctx va n : Nat) : Acc :=
  { die := 0, core := none, ctx := ctx, sup := false, eng := true, va := va, n := n, req := .device ctx }

/-- A read or write of the device that has to wait: what it asks of a port is asked for (R319); of all else it keeps no place. -/
def devWait (s : State) (ctx : Nat) (w : Wait) : State :=
  match w with
  | .ask _ _ _ => joinWait s (.device ctx) w
  | _ => s

/-- A read of a record of `n` bytes aligned to `align`: the bytes, none where it faults with any code, or a wait. It takes no token
(notes/assumptions 53). R388 lets no read of the device wait for a result, and R303, R319 and R387 make every request wait that its stack does not
admit, that has no route, or whose completion is still to come: the start that needs the record then does not happen yet (DESIGN CHOICE,
notes/assumptions 69). -/
def devRead (s : State) (ctx va n align : Nat) : Except Wait (Option (List Byte) × State) :=
  if va % align ≠ 0 then .ok (none, s)
  else match readRange s (devAcc ctx va n) { charge := false } with
    | .ok (b, s) => .ok (some b, s)
    | .error (.fault _) => .ok (none, s)
    | .error (.wait w) => .error w

/-- A 64-bit word of a record. -/
def recWord (b : List Byte) (i : Nat) : Nat := ofBytes (sliceBytes b (8 * i) 8)

/-! ## Launch records and kernel descriptors -/

/-- The launch record in 64 bytes, none where it is malformed (R97). -/
def launchOf (b : List Byte) : Option LaunchRec :=
  let w := recWord b
  let cnt := field (w 3) 0 16
  let lx := field (w 2) 0 32
  let ly := field (w 2) 32 16
  let lz := field (w 2) 48 16
  if field (w 0) 56 8 = 0 ∧ field (w 0) 0 6 = 0 ∧ field (w 1) 56 8 = 0 ∧ lx ≥ 1 ∧ ly ≥ 1 ∧ lz ≥ 1 ∧
      lx * ly * lz < 2 ^ 32 ∧ (cnt ≤ 1023 ∨ cnt = 0xFFFF) ∧ field (w 3) 16 48 = 0 ∧ w 4 = 0 ∧ w 5 = 0 ∧ w 6 = 0 ∧ w 7 = 0 then
    some { kdesc := field (w 0) 0 56, param := field (w 1) 0 56, lx := lx, ly := ly, lz := lz,
           cnt := if cnt = 0xFFFF then none else some cnt }
  else none

/-- Is a declared register count one of R29? -/
def regsOk (n : Nat) : Bool := n == 255 || (8 ≤ n && n ≤ 248 && n % 8 == 0)

/-- The kernel descriptor in 64 bytes, none where it is malformed (R91, R145). -/
def kdescOf (va : Nat) (b : List Byte) : Option KDesc :=
  let w := recWord b
  let nvar := field (w 1) 16 2
  let gx := field (w 2) 0 14
  let gy := field (w 2) 14 14
  let gz := field (w 2) 28 14
  let depth := field (w 1) 9 7
  let words := (upTo 4).map fun i => w (4 + i)
  let varsOk := (upTo 4).all fun i =>
    let v := w (4 + i)
    if i ≤ nvar then field v 0 3 == 0 else v == 0
  if field (w 0) 56 8 = 0 ∧ field (w 0) 0 3 = 0 ∧ regsOk (field (w 1) 0 8) ∧ 1 ≤ depth ∧ depth ≤ 64 ∧ field (w 1) 18 46 = 0 ∧
      gx ≥ 1 ∧ gy ≥ 1 ∧ gz ≥ 1 ∧ gx * gy * gz ≤ 12288 ∧ field (w 2) 42 22 = 0 ∧ field (w 3) 0 32 ≤ 458752 ∧
      field (w 3) 32 32 = 0 ∧ varsOk then
    some { va := va, entry := field (w 0) 0 56, regs := field (w 1) 0 8, idem := bit (w 1) 8, depth := depth, nvar := nvar,
           gx := gx, gy := gy, gz := gz, scratch := field (w 3) 0 32,
           offs := words.map fun v => field v 0 32, buds := words.map fun v => field v 32 32 }
  else none

/-! ## Variants (R101) -/

/-- The variant with the largest BUD among those that a test admits; the lowest number on a tie. -/
def largestBud (kd : KDesc) (f : Nat → Bool) : Option Nat :=
  (upTo (kd.nvar + 1)).foldl (fun o i =>
    if f (nthD kd.buds i 0) then
      match o with
      | some b => if nthD kd.buds i 0 > nthD kd.buds b 0 then some i else some b
      | none => some i
    else o) none

/-- Avyth's choice of a variant under a budget. -/
def avythVariant (budget : Nat) (kd : KDesc) : Nat :=
  if budget = 0 then (largestBud kd fun _ => true).getD 0
  else (largestBud kd fun b => 65536 * b ≤ budget).getD 0

/-- The variant of a kernel for this phase run: the one chosen already, else Avyth's choice, which then stands. A kernel of the
phase's graphs is chosen for under the budget of the phase's start, another under the budget of its first LAUNCH. -/
def phaseVariant (s : State) (ctx : Nat) (kd : KDesc) (node : Bool) : Nat × State :=
  match (getCtx s ctx).job.bind (·.phase) with
  | some p =>
    match SMap.find p.variants kd.va with
    | some v => (min v kd.nvar, s)
    | none =>
      let v := avythVariant (if node || p.kernels.contains kd.va then p.budget else (getCtx s ctx).budget) kd
      (v, modPhase s ctx fun p => { p with variants := SMap.set p.variants kd.va v })
  | none => (avythVariant (getCtx s ctx).budget kd, s)

/-! ## Launches (R103) -/

/-- The next launch id of a context; the sequence skips 0. -/
def takeLid (s : State) (ctx : Nat) : Word × State :=
  let n := (getCtx s ctx).nextLid
  let n := if n = 0 then 1 else n
  (n, modCtx s ctx fun c => { c with nextLid := n + 1 })

/-- A launch is created: its id, its variant, and its counter zeroed and held (R94, R95), a child's too, at its creation (R103;
notes/assumptions 62). Answers its identity and its id. -/
def createLaunch (s : State) (ctx : Nat) (kd : KDesc) (r : LaunchRec) (param depth : Nat) (parent : Level)
    (graph : Option Nat) : Nat × Word × State :=
  let (lid, s) := takeLid s ctx
  let (v, s) := phaseVariant s ctx kd graph.isSome
  let (uid, s) := fresh s
  let phase := ((getCtx s ctx).job.map (·.index)).getD 0
  let s := setLaunch s uid
    { ctx := ctx, lid := lid, depth := depth, kd := kd, variant := v, param := param, lx := r.lx, ly := r.ly, lz := r.lz,
      cnt := r.cnt, parent := parent, graph := graph, phase := phase }
  (uid, lid, onCounter s r.cnt fun s i => counterStart s ctx i)

/-- A child of a launch, one level deeper; the parent waits for it (R95). -/
def createChild (s : State) (parent : Nat) (kd : KDesc) (r : LaunchRec) (param : Nat) : Nat × Word × State :=
  match getLaunch s parent with
  | none => (0, 0, s)
  | some l =>
    let (uid, lid, s) := createLaunch s l.ctx kd r param (l.depth + 1) (.launch parent) none
    (uid, lid, modLaunch s parent fun l => { l with kids := l.kids + 1 })

/-- The children of a context created and not yet started (R103). -/
def pendingChildren (s : State) (ctx : Nat) : Nat :=
  (s.launches.filter fun l =>
    l.2.ctx == ctx && !l.2.started && !l.2.complete && (match l.2.parent with | .launch _ => true | _ => false)).length

end Sys2Proof.Machine
end

