-- ==== Sys2Proof/Machine/Tiler.lean ====
section
/-!
DEFINITION. The tiler of a die (17_frame R325 to R333): frame slots, binning, spills, and what frees a slot. The tiler's writes are performed
at their homes as it makes them; R332 and R116 ask for no more than that they be visible by the entry's signal (notes/assumptions 21).
-/

namespace Sys2Proof.Machine

/-! ## Frames -/

/-- A frame slot of a die. -/
def getFrame (s : State) (d slot : Nat) : Frame := SMap.get (getDie s d).frames slot {}
def modFrame (s : State) (d slot : Nat) (f : Frame → Frame) : State :=
  modDie s d fun v => { v with frames := SMap.set v.frames slot (f (SMap.get v.frames slot {})) }

/-- The dies on which the frame in a die's slot holds that slot (R331): of those it claimed, the ones where the slot is still this frame's. -/
def frameDies (s : State) (d slot : Nat) : List Nat :=
  let f := getFrame s d slot
  (if f.claimed.isEmpty then [d] else f.claimed).filter fun x => (getFrame s x slot).id == f.id

/-- The slot changed on every die on which the frame holds it. -/
def modClaimed (s : State) (d slot : Nat) (f : Frame → Frame) : State :=
  (frameDies s d slot).foldl (fun s x => modFrame s x slot f) s

/-- The slot freed on every die on which the frame holds it. -/
def freeClaimed (s : State) (d slot : Nat) : State := modClaimed s d slot fun _ => {}

/-- Does a head of q3 still wait for a spill launch? -/
def spillAwaited (s : State) (uid : Nat) : Bool :=
  s.cores.any fun c => match headOf (getQueue c.2 3) with | some h => h.spill == some uid && feedOp h.tpl == 1 | none => false

/-- The spill launches of a frame that are outstanding (R326, R333): those not complete, and those whose entry has still to clear its tile. -/
def spillsOf (s : State) (f : Frame) : List Nat :=
  f.outst.filter fun u => spillAwaited s u || (match getLaunch s u with | some l => !l.complete | none => false)

/-- Is a head of q3 on a die about to launch the spill of a tile of the frame in a slot? -/
def spillComing (s : State) (d slot : Nat) : Bool :=
  s.cores.any fun c => match headOf (getQueue c.2 3) with
    | some h => dieOf c.1 == d && h.spillTile.isSome && field h.tpl.toNat 32 6 == slot && h.spillFrame == (getFrame s d slot).id
    | none => false

/-- Has the frame a spill launch outstanding, or about to be, on any die? -/
def spillsOut (s : State) (d slot : Nat) : Bool :=
  (frameDies s d slot).any fun x => !(spillsOf s (getFrame s x slot)).isEmpty || spillComing s x slot

/-! ## The descriptor (R325) -/

def frmW (b : List Byte) : Nat := field (recWord b 0) 0 14 + 1
def frmH (b : List Byte) : Nat := field (recWord b 0) 14 14 + 1
def frmTw (b : List Byte) : Nat := (frmW b + 31) / 32
def frmTh (b : List Byte) : Nat := (frmH b + 31) / 32
def frmList (b : List Byte) : Nat := field (recWord b 2) 0 56
def frmCnts (b : List Byte) : Nat := field (recWord b 3) 0 56
def frmSprec (b : List Byte) : Nat := field (recWord b 4) 0 56
def frmNote (b : List Byte) : Nat := field (recWord b 5) 0 56
def frmMask (b : List Byte) : Nat := field (recWord b 6) 0 16
def frmSplit (b : List Byte) : Bool := bit (recWord b 6) 16

/-- The ways a descriptor itself is malformed. -/
def frameBad (b : List Byte) : Bool :=
  field (recWord b 0) 28 36 != 0 || ([1, 2, 3, 4, 5].any fun i => field (recWord b i) 56 8 != 0) ||
    field (recWord b 6) 17 47 != 0 || frmList b % 512 != 0 || frmCnts b % 128 != 0 || frmSprec b % 64 != 0 ||
    (frmSprec b != 0 && frmNote b % 16 != 0) || (frmSplit b && frmMask b == 0)

/-- The dies of DMASK in ascending order. -/
def maskDies (m : Nat) : List Nat := (upTo 16).filter fun d => bit m d

/-- The die that owns a tile (R331). -/
def tileOwner (b : List Byte) (d tx ty : Nat) : Nat :=
  if frmSplit b then
    let l := maskDies (frmMask b)
    nthD l ((tx + 3 * ty) % l.length) d
  else d

/-! ## Writes of the tiler (R332) -/

/-- A checked write performed at its home, the core's own bytes of the line first. -/
def tilerPiece (s : State) (e : Env) (t : Target) (b : List Byte) : Except Stop State :=
  match flushOwn s e.coreNo (sbLine s e.core t) with
  | none => .error (.wait (.drain 0))
  | some s =>
    let w : HomeWrite :=
      { req := .agent e.who, who := e.who, ctx := e.ctx, tag := t.tag, line := t.va / 128, gen := t.gen, home := t.home, frame := t.frame,
        attr := t.attr, mask := maskOf (t.va % 128) b.length, data := placeBytes (t.va % 128) b,
        launch := (e.group s).launch }
    match performWrite s w with
    | .ok s => .ok (dropL1Line s e.core t.tag (t.va / 128) t.frame)
    | .error x => .error x

/-- Checked pieces written in order. -/
def tilerPieces (s : State) (e : Env) (l : List (Target × Nat)) (b : List Byte) : Except Stop State :=
  match l with
  | [] => .ok s
  | (t, n) :: r =>
    match tilerPiece s e t (b.take n) with
    | .error x => .error x
    | .ok s => tilerPieces s e r (b.drop n)

/-- The access of a write of the tiler. -/
def tilerAcc (e : Env) (va n : Nat) : Acc :=
  { die := e.die, core := e.core, ctx := e.ctx, sup := false, eng := true, kind := 1, write := true, l1 := false, va := va, n := n,
    req := .agent e.who, view := e.view }

/-- A write that the tiler of a die makes (R331): the die, the address and the bytes. -/
structure TileWrite where
  die : Nat
  va : Nat
  bytes : List Byte

/-- The checks of a list of writes, before any byte is written (R329). -/
def tilerCheck (s : State) (e : Env) (l : List TileWrite) : Except Stop (List (List (Target × Nat) × List Byte) × State) :=
  match l with
  | [] => .ok ([], s)
  | ⟨d, va, b⟩ :: r =>
    match checkPieces s (tilerAcc { e with die := d } va b.length) (piecesOf va b.length) [] with
    | .error x => .error x
    | .ok (ts, s) =>
      match tilerCheck s e r with
      | .error x => .error x
      | .ok (out, s) => .ok ((ts, b) :: out, s)

/-- Writes already checked. -/
def tilerRun (s : State) (e : Env) (l : List (List (Target × Nat) × List Byte)) : Except Stop State :=
  match l with
  | [] => .ok s
  | (ts, b) :: r =>
    match tilerPieces s e ts b with
    | .error x => .error x
    | .ok s => tilerRun s e r

/-- A list of writes: every address is checked, then every byte is written. -/
def tilerPut (s : State) (e : Env) (l : List TileWrite) : Except Stop State :=
  match tilerCheck s e l with
  | .error x => .error x
  | .ok (w, s) => tilerRun s e w

/-- Bytes of a list or a count, as they stand at their homes, read by the tiler of a die (R331). -/
def tilerRead (s : State) (e : Env) (d va n : Nat) : Except Stop (List Byte × State) :=
  readRange s { engineAcc { e with die := d } va n with l1 := false } { install := false }

/-! ## A head of q3 -/

def feedSlot (t : BitVec 256) : Nat := field t.toNat 32 6
def feedAddr (t : BitVec 256) : Nat := tplAddr t 2
def feedCount (t : BitVec 256) : Nat := tplWord t 4

/-- The head of q3 has done its work. -/
def feedDone (s : State) (c : Nat) : State := modQueue s c 3 fun k => { k with hst := 3 }

/-- Is a head of q3 at work? In STOPPING a BEGIN, a RELEASE and an END that does not wait go on to their end, and a PRIMS to the end of the primitive
that spills (R118, R332). -/
def feeding (q : EngQ) (h : Entry) : Bool :=
  working q || (q.st == .stopping && q.hst == 2 &&
    (match feedOp h.tpl with | 1 => h.inPrim | 2 => h.spill.isNone | _ => true))

/-- A head of q3 that works on an operation. -/
def feedHead (s : State) (c op : Nat) : Option Entry :=
  let q := getQueue (getCore s c) 3
  match headOf q with
  | some h => if feeding q h && feedOp h.tpl == op then some h else none
  | none => none

/-- How an attempt of the tiler ends. -/
def tilerEnd (s : State) (c : Nat) (r : Except Stop State) : Host.Outcome State Fault Refusal := .next (engineEnd s c 3 r)

/-- The head of q3 changed. -/
def modFeed (s : State) (c : Nat) (f : Entry → Entry) : State :=
  modQueue s c 3 fun k => { k with entries := match k.entries with | h :: r => f h :: r | [] => [] }

/-! ## BEGIN -/

/-- STAT of a descriptor, and the entry has done its work. -/
def writeStat (s : State) (c : Nat) (e : Env) (va st : Nat) : Except Stop State :=
  match tilerPut s e [⟨e.die, va + 56, toBytes st 1⟩] with
  | .error x => .error x
  | .ok s => .ok (feedDone s c)

/-- The spill launch record and its kernel descriptor: the snapshot, none where one is malformed. -/
def readSpill (s : State) (e : Env) (va : Nat) : Except Stop (Option (List Byte) × State) :=
  match readRange s (engineAcc e va 64) {} with
  | .error x => .error x
  | .ok (b, s) =>
    match launchOf b with
    | none => .ok (none, s)
    | some r =>
      match readRange s (engineAcc e r.kdesc 64) {} with
      | .error x => .error x
      | .ok (k, s) => .ok ((kdescOf r.kdesc k).map fun _ => b ++ k, s)

/-- The writes that clear the counts: each by the die that owns the tile. -/
def clearCounts (e : Env) (b : List Byte) : List TileWrite :=
  if frmSplit b then
    (upTo (frmTw b * frmTh b)).map fun t => ⟨tileOwner b e.die (t % frmTw b) (t / frmTw b), frmCnts b + 4 * t, toBytes 0 4⟩
  else [⟨e.die, frmCnts b, toBytes 0 (4 * (frmTw b * frmTh b))⟩]

/-- A well-formed BEGIN of a slot that may be claimed: the counts and w7 are cleared, then the slots are claimed. -/
def claimFrame (s : State) (c : Nat) (e : Env) (h : Entry) (b spill : List Byte) (dies : List Nat) : Except Stop State :=
  let va := feedAddr h.tpl
  match tilerPut s e (clearCounts e b ++ [⟨e.die, va + 56, toBytes 0 8⟩]) with
  | .error x => .error x
  | .ok s =>
    let (id, s) := fresh s
    let f : Frame := { id := id, st := 1, owner := h.ctx, descVa := va, desc := b, spillRec := spill, claimed := dies }
    .ok (feedDone (dies.foldl (fun s d => modFrame s d (feedSlot h.tpl) fun _ => f) s) c)

/-- Is a slot free for a BEGIN of a context: FREE, or CLOSED and its own? -/
def slotFree (f : Frame) (ctx : Nat) : Bool := f.st == 0 || (f.st == 3 && f.owner == ctx)

/-- A BEGIN entry. A malformed descriptor gets STAT 2 on a slot that is CLOSED for another context too (DESIGN CHOICE: two rows of R326 meet there,
STAT 2 for a malformed one on a CLOSED slot and STAT 1 for CLOSED of another context; notes/assumptions 91). -/
def tilerBegin (s : State) (c : Nat) (h : Entry) : Except Stop State :=
  let e := envOf s (.engine c 3)
  let va := feedAddr h.tpl
  let slot := feedSlot h.tpl
  let f := getFrame s e.die slot
  if f.st = 1 ∨ f.st = 2 then writeStat s c e va 1
  else match readRange s (engineAcc e va 56) {} with
    | .error x => .error x
    | .ok (b, s) =>
      if frameBad b then writeStat s c e va 2
      else
        let go (s : State) (spill : List Byte) : Except Stop State :=
          let dies := if frmSplit b then (e.die :: maskDies (frmMask b)).eraseDups else [e.die]
          if dies.all fun d => slotFree (getFrame s d slot) h.ctx then claimFrame s c e h b spill dies
          else writeStat s c e va 1
        if frmSprec b = 0 then go s []
        else match readSpill s e (frmSprec b) with
          | .error x => .error x
          | .ok (none, s) => writeStat s c e va 2
          | .ok (some r, s) => go s r

/-- TILER_BEGIN (R325, R326, R331) on core n1. -/
def execTilerBegin (s : State) : Host.Outcome State Fault Refusal :=
  match feedHead s s.arg.n1 0 with
  | some h => tilerEnd s s.arg.n1 (tilerBegin s s.arg.n1 h)
  | none => .next s

/-! ## Binning (R328, R329) -/

/-- The floor of a rational. -/
def ratFloor (r : Rat) : Int := r.num / (r.den : Int)

/-- The tiles a primitive enters, row by row; none where it is dropped. -/
def primTiles (b p : List Byte) : List (Nat × Nat) :=
  let v := [vecAt p 0, vecAt p 12, vecAt p 24]
  if !(v.all fun x => x.fin) then []
  else
    let lo (f : Vq → Rat) : Rat := (v.map fun x => f x.q).foldl min (f (vecAt p 0).q)
    let hi (f : Vq → Rat) : Rat := (v.map fun x => f x.q).foldl max (f (vecAt p 0).q)
    let x0 := lo (·.x)
    let x1 := hi (·.x)
    let y0 := lo (·.y)
    let y1 := hi (·.y)
    if x1 < 0 ∨ y1 < 0 ∨ x0 ≥ (frmW b : Rat) ∨ y0 ≥ (frmH b : Rat) then []
    else
      let tx0 := (max 0 (ratFloor (x0 / 32))).toNat
      let tx1 := (min ((frmTw b : Int) - 1) (ratFloor (x1 / 32))).toNat
      let ty0 := (max 0 (ratFloor (y0 / 32))).toNat
      let ty1 := (min ((frmTh b : Int) - 1) (ratFloor (y1 / 32))).toNat
      (rangeFrom ty0 (ty1 + 1 - ty0)).flatMap fun ty => (rangeFrom tx0 (tx1 + 1 - tx0)).map fun tx => (tx, ty)

/-- The depth key of a primitive. -/
def primKey (p : List Byte) : Nat := minNum (word32 p 8) (minNum (word32 p 20) (word32 p 32) .fp32) .fp32

/-- The place of a key among real values, -0 before +0. -/
def keyRank (k : Nat) : Int := if k < 2 ^ 31 then k else -((k - 2 ^ 31 : Nat) : Int) - 1

/-- Does an entry (PID, KEY) stand before a new one: by KEY, then PID, then arrival? -/
def entryBefore (a b : Nat × Nat) : Bool :=
  keyRank a.2 < keyRank b.2 || (keyRank a.2 == keyRank b.2 && a.1 ≤ b.1)

/-- The entries of a tile's list, as stored. -/
def listEntries (b : List Byte) (n : Nat) : List (Nat × Nat) := (upTo n).map fun i => (word32 b (8 * i), word32 b (8 * i + 4))

/-- A new entry in an ordered list. -/
def insertEntry (x : Nat × Nat) (l : List (Nat × Nat)) : List (Nat × Nat) :=
  (l.takeWhile fun y => entryBefore y x) ++ x :: (l.dropWhile fun y => entryBefore y x)

/-- The bytes of a list. -/
def entryBytes (l : List (Nat × Nat)) : List Byte := l.flatMap fun x => toBytes x.1 4 ++ toBytes x.2 4

/-- What a primitive asks of the tiles it enters: a spill of one of them, or writes and the entries it loses. -/
inductive PrimPlan where
  | spill (tx ty : Nat)
  | enter (w : List TileWrite) (lost : Nat)

/-- The plan of a primitive for a list of tiles: the first full tile spills, where the frame spills. -/
def primPlan (s : State) (e : Env) (b : List Byte) (lose : Bool) (x : Nat × Nat) (l : List (Nat × Nat)) (w : List TileWrite)
    (lost : Nat) : Except Stop (PrimPlan × State) :=
  match l with
  | [] => .ok (.enter w lost, s)
  | (tx, ty) :: r =>
    let t := ty * frmTw b + tx
    let d := tileOwner b e.die tx ty
    match tilerRead s e d (frmCnts b + 4 * t) 4 with
    | .error p => .error p
    | .ok (c, s) =>
      let n := ofBytes c
      if n ≥ 64 then
        (if lose then primPlan s e b lose x r w (lost + 1) else .ok (.spill tx ty, s))
      else match tilerRead s e d (frmList b + 512 * t) (8 * n) with
        | .error p => .error p
        | .ok (old, s) =>
          let now := insertEntry x (listEntries old n)
          primPlan s e b lose x r (w ++ [⟨d, frmList b + 512 * t, entryBytes now⟩, ⟨d, frmCnts b + 4 * t, toBytes (n + 1) 4⟩]) lost

/-- DROPPED after more losses, saturating. -/
def lostCount (f : Frame) (n : Nat) : Nat := min (f.dropped + n) (2 ^ 32 - 1)

/-- A primitive enters its tiles. -/
def enterPrim (s : State) (e : Env) (slot : Nat) (w : List TileWrite) (lost : Nat) : Except Stop State :=
  let f := getFrame s e.die slot
  let more := if lost = 0 then [] else [⟨e.die, f.descVa + 60, toBytes (lostCount f lost) 4⟩]
  match tilerPut s e (w ++ more) with
  | .error x => .error x
  | .ok s => .ok (modClaimed s e.die slot fun f => { f with dropped := lostCount f lost })

/-! ## Spills (R330) -/

/-- A tile is cleared after its spill: its count 0, its pass and SPILLS one more. -/
def clearTile (s : State) (e : Env) (slot t : Nat) : Except Stop State :=
  let f := getFrame s e.die slot
  let n := sat16 (f.spills + 1)
  let o := tileOwner f.desc e.die (t % frmTw f.desc) (t / frmTw f.desc)
  match tilerPut s e [⟨o, frmCnts f.desc + 4 * t, toBytes 0 4⟩, ⟨e.die, f.descVa + 58, toBytes n 2⟩] with
  | .error x => .error x
  | .ok s =>
    let s := modFrame s o slot fun f => { f with passes := SMap.set f.passes t (SMap.get f.passes t 0 + 1) }
    .ok (modClaimed s e.die slot fun f => { f with spills := n })

/-- The notice of a tile that spills; its launch comes next. -/
def spillNotice (s : State) (c : Nat) (e : Env) (slot tx ty : Nat) : Except Stop State :=
  let f := getFrame s e.die slot
  let t := ty * frmTw f.desc + tx
  let o := tileOwner f.desc e.die tx ty
  let note := toBytes f.descVa 8 ++ toBytes t 4 ++ toBytes (SMap.get (getFrame s o slot).passes t 0) 2 ++ toBytes 64 2
  match tilerPut s e [⟨o, frmNote f.desc + 16 * t, note⟩] with
  | .error x => .error x
  | .ok s => .ok (modFeed s c fun h => { h with spillTile := some t, spillFrame := f.id, inPrim := true })

/-- Has every write that the tiler has made on the dies of a frame, for whichever core's entries, reached every copy (R332)? -/
def tilerDrained (s : State) (d slot : Nat) : Bool :=
  !(s.repls.any fun r => match r.who with | .engine c q => q == 3 && (frameDies s d slot).contains (dieOf c) | _ => false)

/-- The tiles of a list whose owner's slot is still the frame's: one whose slot was freed takes no primitive (R326, R331). -/
def tilesHeld (s : State) (e : Env) (slot : Nat) (l : List (Nat × Nat)) : List (Nat × Nat) :=
  let f := getFrame s e.die slot
  l.filter fun x => (getFrame s (tileOwner f.desc e.die x.1 x.2) slot).id == f.id

/-- One primitive of a PRIMS entry: binned, or stopped by a spill. -/
def binPrim (s : State) (c : Nat) (e : Env) (h : Entry) (i : Nat) : Except Stop State :=
  let slot := feedSlot h.tpl
  let f := getFrame s e.die slot
  match readRange s (engineAcc e (feedAddr h.tpl + 48 * i) 48) {} with
  | .error x => .error x
  | .ok (p, s) =>
    let lose := frmSprec f.desc == 0 || cancelReached s h.launch
    match primPlan s e f.desc lose (word32 p 36, primKey p) (tilesHeld s e slot (primTiles f.desc p)) [] 0 with
    | .error x => .error x
    | .ok (.spill tx ty, s) => spillNotice s c e slot tx ty
    | .ok (.enter w lost, s) =>
      match enterPrim s e slot w lost with
      | .error x => .error x
      | .ok s => .ok (modQueue (modFeed s c fun h => { h with inPrim := false }) c 3 fun k => { k with prog := k.prog + 1 })

/-- CLOSED on every die, with STAT 3. -/
def closeFrame (s : State) (e : Env) (slot : Nat) : Except Stop State :=
  match tilerPut s e [⟨e.die, (getFrame s e.die slot).descVa + 56, toBytes 3 1⟩] with
  | .error x => .error x
  | .ok s => .ok (modClaimed s e.die slot fun f => { f with st := 3 })

/-- Does the frame that a PRIMS entry spills still hold its slot, on the entry's die and on the tile's owner's (notes/assumptions 92)? -/
def spillHolds (s : State) (e : Env) (h : Entry) (t : Nat) : Bool :=
  let slot := feedSlot h.tpl
  let f := getFrame s e.die slot
  f.id == h.spillFrame && (f.st == 1 || f.st == 2) &&
    (getFrame s (tileOwner f.desc e.die (t % frmTw f.desc) (t / frmTw f.desc)) slot).id == h.spillFrame

/-- A spill comes to nothing: its frame holds the slot no more (R326), or the entry stops waiting. -/
def spillGone (s : State) (c : Nat) : State :=
  modFeed s c fun h => { h with spill := none, spillTile := none, inPrim := false }

/-- The spill of a tile is complete, in one step (R330): the tile is cleared, the launch is outstanding no more, and the primitive is entered, or
meets the next full tile; in CLOSING the last spill closes the slot (R326). -/
def spillOver (s : State) (c : Nat) (e : Env) (h : Entry) (t : Nat) (uid : Option Nat) : Except Stop State :=
  let slot := feedSlot h.tpl
  let f := getFrame s e.die slot
  let o := tileOwner f.desc e.die (t % frmTw f.desc) (t / frmTw f.desc)
  match clearTile s e slot t with
  | .error x => .error x
  | .ok s =>
    let s := modFrame s o slot fun f => { f with outst := f.outst.filter fun u => some u != uid }
    match binPrim (modFeed s c fun h => { h with spill := none, spillTile := none }) c e h (getQueue (getCore s c) 3).prog with
    | .error x => .error x
    | .ok s => if f.st = 2 && !spillsOut s e.die slot then closeFrame s e slot else .ok s

/-- The spill launch of a tile, a release at device scope for the tiler's writes (R332): a child of the issuing group's launch, for which the entry
waits. It is created as a child with a hold of its own is: the limit of 65,536 children not yet started, which R103 makes LAUNCH trap on, stops no
spill (DESIGN CHOICE: R330 names the depth limit only; notes/assumptions 89). A counter held already makes it a unit that has ended (R95). -/
def spillLaunch (s : State) (c : Nat) (e : Env) (h : Entry) (t : Nat) : Except Stop State :=
  let slot := feedSlot h.tpl
  let f := getFrame s e.die slot
  let o := tileOwner f.desc e.die (t % frmTw f.desc) (t / frmTw f.desc)
  if !spillHolds s e h t then .ok (spillGone s c)
  else if !engineDrained s c 3 || !tilerDrained s e.die slot then .error (.wait (.drain 0))
  else match (launchOf (f.spillRec.take 64)).bind fun r => (kdescOf r.kdesc (f.spillRec.drop 64)).map fun kd => (r, kd) with
    | none => .ok (feedDone s c)
    | some (r, kd) =>
      let held : Bool := match r.cnt with | some i => counterHeld s h.ctx i | none => false
      if held then spillOver (launchFaulted s (s.launches.length + 1) h.launch) c e h t none
      else
        let (uid, _, s) := createChild s h.launch kd r (frmNote f.desc + 16 * t)
        let s := modFrame s o slot fun f => { f with outst := uid :: f.outst }
        .ok (modFeed s c fun h => { h with spillTile := none, spill := some uid })

/-- TILER_PRIMS (R328 to R331) on core n1: the head of q3 bins its next primitive, or has none left. A slot that is not BINNING for the
entry's context takes none. -/
def execTilerPrims (s : State) : Host.Outcome State Fault Refusal :=
  let c := s.arg.n1
  match feedHead s c 1 with
  | none => .next s
  | some h =>
    let e := envOf s (.engine c 3)
    let f := getFrame s e.die (feedSlot h.tpl)
    let i := (getQueue (getCore s c) 3).prog
    if h.spill.isSome then .next s
    else match h.spillTile with
      | some t => tilerEnd s c (spillLaunch s c e h t)
      | none =>
        if f.st ≠ 1 ∨ f.owner ≠ h.ctx ∨ i ≥ feedCount h.tpl then .next (feedDone s c)
        else tilerEnd s c (binPrim s c e h i)

/-- A spill launch is complete, an acquire for the tiler (R332): the tile is cleared and the primitive entered. -/
def spillDone (s : State) (c : Nat) (e : Env) (h : Entry) (uid : Nat) : Except Stop State :=
  let param := ((getLaunch s uid).map (·.param)).getD 0
  let t := (param - frmNote (getFrame s e.die (feedSlot h.tpl)).desc) / 16
  if !spillHolds s e h t then .ok (spillGone s c)
  else spillOver (dropL1 s c fun tag _ => (relevantTags s h.ctx).contains tag) c e h t (some uid)

/-- The tiler of a die, where it writes for no entry that stands: no core's bytes come first. -/
def tilerEnv (s : State) (d slot : Nat) : Env :=
  { who := .engine (40 * d) 3, core := none, die := d, ctx := (getFrame s d slot).owner, sup := false, steward := false, nregs := 0, gid := 0,
    rank := 0, tid := 0 }

/-- Does an END at work wait on a die for a slot to close? One whose queue is stopped or at fault does not close it. -/
def endWaits (s : State) (d slot : Nat) : Bool :=
  s.cores.any fun c => match headOf (getQueue c.2 3) with
    | some h => dieOf c.1 == d && feedOp h.tpl == 2 && h.spill.isSome && feedSlot h.tpl == slot && feeding (getQueue c.2 3) h
    | none => false

/-- A slot of a die in CLOSING whose last spill is complete, with no END at work to close it (its queue stopped, at fault, skipped, flushed or
killed), becomes CLOSED (R326). -/
def closeLeft (s : State) (d : Nat) : State :=
  match (upTo 64).find? fun n => (getFrame s d n).st == 2 && !spillsOut s d n && !(frameDies s d n).any fun x => endWaits s x n with
  | none => s
  | some n => match closeFrame s (tilerEnv s d n) n with
    | .ok s => s
    | .error (.fault f) => modClaimed (postFault s f) d n fun f => { f with st := 3 }
    | .error (.wait (.ask p a w)) => joinWait s (.agent (tilerEnv s d n).who) (.ask p a w)
    | .error (.wait _) => s

/-- SPILL_LAUNCH_COMPLETE (R326, R330) on core n1: the launch that the PRIMS entry at the head of q3 waits for is complete; with no such entry, a slot
of the core's die that its last spill leaves to be closed is. -/
def execSpillLaunchComplete (s : State) : Host.Outcome State Fault Refusal :=
  let c := s.arg.n1
  match feedHead s c 1 with
  | none => .next (closeLeft s (dieOf c))
  | some h =>
    match h.spill with
    | none => .next (closeLeft s (dieOf c))
    | some uid =>
      let done : Bool := match getLaunch s uid with | some l => l.complete | none => true
      if done then tilerEnd s c (spillDone s c (envOf s (.engine c 3)) h uid) else .next s

/-! ## END and RELEASE -/

/-- TILER_END (R326, R331) on core n1: to CLOSED, or to CLOSING while spills are outstanding; the entry is done once the slot is CLOSED.
An entry that waits in CLOSING is marked by `spill`. -/
def execTilerEnd (s : State) : Host.Outcome State Fault Refusal :=
  let c := s.arg.n1
  match feedHead s c 2 with
  | none => .next s
  | some h =>
    let e := envOf s (.engine c 3)
    let slot := feedSlot h.tpl
    let f := getFrame s e.die slot
    let close := tilerEnd s c ((closeFrame s e slot).map fun s => feedDone s c)
    if f.owner ≠ h.ctx then .next (feedDone s c)
    else match f.st, h.spill with
      | 1, _ =>
        if spillsOut s e.die slot then
          .next (modFeed (modClaimed s e.die slot fun f => { f with st := 2 }) c fun h => { h with spill := some 0 })
        else close
      | 2, some _ => if spillsOut s e.die slot then .next s else close
      | _, _ => .next (feedDone s c)

/-- TILER_RELEASE (R326) on core n1: a CLOSED slot of the entry's context becomes FREE, on every die that its frame claimed and holds it on (DESIGN
CHOICE: R331 says of BEGIN and END what they do on the claimed dies, not of RELEASE; notes/assumptions 90). -/
def execTilerRelease (s : State) : Host.Outcome State Fault Refusal :=
  let c := s.arg.n1
  match feedHead s c 3 with
  | none => .next s
  | some h =>
    let d := dieOf c
    let f := getFrame s d (feedSlot h.tpl)
    .next (feedDone (if f.st = 3 ∧ f.owner = h.ctx then freeClaimed s d (feedSlot h.tpl) else s) c)

/-- FRMST command 1 on a slot of a die: FREE from any state, with nothing written (R326, R333). -/
def frameFree (s : State) (i : Nat) : State := modFrame s (i / 64) (i % 64) fun _ => {}

/-- FRAME_FREE (R333) of FRMST index n1. -/
def execFrameFree (s : State) : Host.Outcome State Fault Refusal := .next (frameFree s s.arg.n1)

end Sys2Proof.Machine
end

