-- ==== Sys2Proof/Machine/WorkEvents.lean ====
section
/-!
DEFINITION. The steps of the levels of work (05_kernel R93 to R101, 06_queue R110 to R112) and of groups (07_group R137 to R156). A step that
is not due changes nothing (notes/assumptions 11).
-/

namespace Sys2Proof.Machine

/-! ## The host launch queue (R110 to R112) -/

/-- The address of the entry with count `n`. -/
def ringVa (c : Ctx) (n : Word) : Nat := c.hqBase * 4096 + 16 * (n.toNat % 2 ^ (c.hqSize + 4))

/-- The party that the device itself is, in what its writes leave behind (R111, R241): no agent has its name. -/
def deviceParty : Agent := .sextant 32

/-- A write the device makes for a context; one that faults writes nothing. Like its reads it takes no token (notes/assumptions 53). -/
def devWrite (s : State) (ctx va : Nat) (l : List Byte) : Except Wait State :=
  match check s { devAcc ctx va l.length with kind := 1, write := true } with
  | .error (.fault _) => .ok s
  | .error (.wait w) => .error w
  | .ok (t, s) =>
    let w : HomeWrite :=
      { req := .device ctx, who := deviceParty, ctx := ctx, tag := t.tag, line := t.va / 128, gen := t.gen, home := t.home, frame := t.frame,
        attr := t.attr, mask := maskOf (t.va % 128) l.length, data := placeBytes (t.va % 128) l }
    match performWrite s w false with
    | .ok s => .ok s
    | .error (.wait w) => .error w
    | .error (.fault _) => .ok s

/-- w1 of an entry: ST and MREC (R111). The write is a release at system scope for the device's own earlier ones, which have reached every copy
first (R241). -/
def writeSt (s : State) (ctx va st mrec : Nat) : Except Wait State :=
  if s.repls.any fun r => r.who == deviceParty then .error .pending else devWrite s ctx (va + 8) (toBytes (st + 256 * mrec) 8)

/-- A job record, none where it is malformed (R98). -/
def jobOf (entryVa : Nat) (b : List Byte) : Option Job :=
  let w0 := recWord b 0
  let w1 := recWord b 1
  let n := field w0 0 16
  if 1 ≤ n ∧ n ≤ 1024 ∧ field w0 26 38 = 0 ∧ field w1 56 8 = 0 ∧ field w1 0 4 = 0 then
    some { entryVa := entryVa, nph := n, jcnt := field w0 16 10, phtab := field w1 0 56 }
  else none

/-- HEAD passes an entry of a queue that stood as in `s0`, whose status is written; nothing happens while the write has to wait. -/
def takeEntry (s0 s : State) (ctx va st : Nat) (f : State → State) : State :=
  match writeSt s ctx va st 0 with
  | .error w => devWait s0 ctx w
  | .ok s' => f (modCtx s' ctx fun c => { c with head := c.head + 1 })

/-- An entry read in READY or ACTIVE (R112 steps 3 to 5). -/
def takeJob (s : State) (ctx va : Nat) : State :=
  match devRead s ctx va 16 16 with
  | .error w => devWait s ctx w
  | .ok (none, s') => takeEntry s s' ctx va 4 id
  | .ok (some b, s') =>
    let jva := recWord b 0
    if field jva 56 8 ≠ 0 then takeEntry s s' ctx va 4 id
    else match devRead s' ctx jva 16 16 with
      | .error w => devWait s ctx w
      | .ok (r, s') =>
        match r.bind (jobOf va) with
        | none => takeEntry s s' ctx va 4 id
        | some j =>
          if counterHeld s' ctx j.jcnt then takeEntry s s' ctx va 7 id
          else takeEntry s s' ctx va 1 fun s => modCtx (counterStart s ctx j.jcnt) ctx fun c => { c with job := some j }

/-- HOST_QUEUE_ENTRY_TAKEN (R112) of context n1. -/
def execHostQueueEntryTaken (s : State) : Host.Outcome State Fault Refusal :=
  let ctx := s.arg.n1
  let c := getCtx s ctx
  if c.head = c.tail ∨ c.job.isSome then .next s
  else match c.state with
    | .faulted => .next (takeEntry s s ctx (ringVa c c.head) 3 id)
    | .ready | .active => .next (takeJob s ctx (ringVa c c.head))
    | _ => .next s

/-! ## Phases (R98, R101) -/

/-- May levels of a context start? R75 to R78 speak only of groups that become resident and of entries taken; the model starts no phase, graph or node
while the context is QUIESCING or SUSPENDED (DESIGN CHOICE, notes/assumptions 68). -/
def ctxRuns (c : Ctx) : Bool := c.state == .ready || c.state == .active

/-- A phase has ended: one unit of the job, which moves to its next index. -/
def endPhase (s : State) (ctx : Nat) : State :=
  match (getCtx s ctx).job with
  | none => s
  | some j =>
    modJob (counterAdd s ctx j.jcnt 1) ctx fun j =>
      { j with phase := none, index := j.next.getD (j.index + 1), next := none }

/-- A phase entry: its graph table, NG and PCNT; none where it is malformed. -/
def phaseEntry (b : List Byte) : Option (Nat × Nat × Nat) :=
  let w0 := recWord b 0
  let w1 := recWord b 1
  let n := field w1 0 16
  if field w0 56 8 = 0 ∧ 1 ≤ n ∧ n ≤ 4096 ∧ field w1 26 38 = 0 then some (field w0 0 56, n, field w1 16 10) else none

/-! ## Graphs (R99, R100) -/

/-- A node entry: its node, none where it is malformed; `i` is its index. -/
def nodeOf (i : Nat) (b : List Byte) : Option GNode :=
  let np := ofBytes (sliceBytes b 64 2)
  let preds := (upTo np).map fun k => ofBytes (sliceBytes b (66 + 2 * k) 2)
  let rest := (sliceBytes b 96 32).all fun x => x == 0
  if np ≤ 15 ∧ preds.all (fun p => p < i) ∧ rest then (launchOf (b.take 64)).map fun r => { lrec := r, preds := preds }
  else none

/-- A node that ended at the graph's start. -/
def deadNode : GNode := { lrec := { kdesc := 0, param := 0, lx := 0, ly := 0, lz := 0, cnt := none }, preds := [], ended := true }

/-- The snapshot of NTAB from node `i` on, `n` nodes. -/
def readNodes (s : State) (ctx ntab i n : Nat) : Except Wait (List GNode × State) :=
  match n with
  | 0 => .ok ([], s)
  | n + 1 =>
    match devRead s ctx (ntab + 128 * i) 128 128 with
    | .error w => .error w
    | .ok (r, s) =>
      match readNodes s ctx ntab (i + 1) n with
      | .error w => .error w
      | .ok (l, s) => .ok ((r.bind (nodeOf i)).getD deadNode :: l, s)

/-- A graph record: PDIR, NODES, GCNT and NTAB; none where it is malformed. -/
def graphOf (b : List Byte) : Option (Nat × Nat × Nat × Nat) :=
  let w := recWord b
  let n := field (w 1) 0 13
  if 1 ≤ n ∧ n ≤ 4096 ∧ field (w 1) 13 3 = 0 ∧ field (w 1) 26 38 = 0 ∧ field (w 2) 56 8 = 0 ∧ field (w 2) 0 7 = 0 ∧
      w 3 = 0 ∧ w 4 = 0 ∧ w 5 = 0 ∧ w 6 = 0 ∧ w 7 = 0 then
    some (field (w 0) 0 56, n, field (w 1) 16 10, field (w 2) 0 56)
  else none

/-- The record of graph `i` of a phase: read by way of its address in GTAB. -/
def readGraph (s : State) (ctx gtab i : Nat) : Except Wait (Option (Nat × Nat × Nat × Nat) × State) :=
  match devRead s ctx (gtab + 8 * i) 8 8 with
  | .error w => .error w
  | .ok (none, s) => .ok (none, s)
  | .ok (some a, s) =>
    match devRead s ctx (ofBytes a) 64 64 with
    | .error w => .error w
    | .ok (r, s) => .ok (r.bind graphOf, s)

/-- The kernels that the graphs of a phase name, from graph `i` on: what their records hold now; a record that faults names none. -/
def phaseKernels (s : State) (ctx gtab i n : Nat) : Except Wait (List Nat × State) :=
  match n with
  | 0 => .ok ([], s)
  | n + 1 =>
    match readGraph s ctx gtab i with
    | .error w => .error w
    | .ok (r, s) =>
      match r with
      | none => phaseKernels s ctx gtab (i + 1) n
      | some (_, k, _, ntab) =>
        match readNodes s ctx ntab 0 k with
        | .error w => .error w
        | .ok (nodes, s) => (phaseKernels s ctx gtab (i + 1) n).map fun x => (nodes.map (·.lrec.kdesc) ++ x.1, x.2)

/-- PHASE_START (R95, R98, R101) of the job of context n1. -/
def execPhaseStart (s : State) : Host.Outcome State Fault Refusal :=
  let ctx := s.arg.n1
  let c := getCtx s ctx
  match c.job with
  | none => .next s
  | some j =>
    if !ctxRuns c || j.phase.isSome || j.cancelled || j.index ≥ j.nph then .next s
    else match devRead s ctx (j.phtab + 16 * j.index) 16 16 with
      | .error w => .next (devWait s ctx w)
      | .ok (r, s') =>
        match r.bind phaseEntry with
        | none => .next (endPhase (jobMalformed s' ctx) ctx)
        | some (gtab, ng, pcnt) =>
          if counterHeld s' ctx pcnt then .next (endPhase (jobFaulted s' ctx) ctx)
          else match phaseKernels s' ctx gtab 0 ng with
            | .error w => .next (devWait s ctx w)
            | .ok (kernels, s') =>
              .next (modJob (counterStart s' ctx pcnt) ctx fun j =>
                { j with phase := some { cnt := pcnt, ng := ng, gtab := gtab, budget := c.budget, kernels := kernels } })

/-- A graph run begins: its counter, and its malformed nodes ended at once. -/
def beginGraph (s : State) (ctx i pdir gcnt : Nat) (nodes : List GNode) : State :=
  let (uid, s) := fresh s
  let s := setGraph (counterStart s ctx gcnt) uid { ctx := ctx, index := i, cnt := gcnt, pdir := pdir, nodes := nodes }
  (nodes.filter (·.ended)).foldl (fun s _ => counterAdd (jobMalformed s ctx) ctx gcnt 1) s

/-- GRAPH_START (R99, R100) of graph n2 of the phase of context n1. -/
def execGraphStart (s : State) : Host.Outcome State Fault Refusal :=
  let ctx := s.arg.n1
  let i := s.arg.n2
  match (getCtx s ctx).job.bind (·.phase) with
  | none => .next s
  | some p =>
    if !ctxRuns (getCtx s ctx) || p.cancelled || i ≥ p.ng || p.started.contains i then .next s
    else match readGraph s ctx p.gtab i with
      | .error w => .next (devWait s ctx w)
      | .ok (r, s') =>
        let start (s : State) : State := modPhase s ctx fun p => { p with started := i :: p.started }
        match r with
        | none => .next (endGraph (jobMalformed (start s') ctx) ctx)
        | some (pdir, n, gcnt, ntab) =>
          if counterHeld s' ctx gcnt then .next (endGraph (phaseFaulted (start s') ctx) ctx)
          else match readNodes s' ctx ntab 0 n with
            | .error w => .next (devWait s ctx w)
            | .ok (nodes, s') => .next (beginGraph (start s') ctx i pdir gcnt nodes)

/-- May node `i` of a run start? -/
def nodeReady (r : GraphRun) (i : Nat) : Bool :=
  match r.nodes[i]? with
  | some n =>
    !r.cancelled && !n.ended && n.launch.isNone && n.preds.all fun p =>
      match r.nodes[p]? with | some q => q.ended | none => true
  | none => false

/-- The kernel descriptor and the parameter address of a node. -/
def readNode (s : State) (r : GraphRun) (n : GNode) (i : Nat) : Except Wait (Option (Nat × KDesc) × State) :=
  match devRead s r.ctx (r.pdir + 8 * i) 8 8 with
  | .error w => .error w
  | .ok (none, s) => .ok (none, s)
  | .ok (some a, s) =>
    match devRead s r.ctx n.lrec.kdesc 64 64 with
    | .error w => .error w
    | .ok (b, s) => .ok ((b.bind (kdescOf n.lrec.kdesc)).map fun kd => (ofBytes a, kd), s)

/-- NODE_LAUNCH_START (R95, R99, R100) of node n2 of graph run n1. -/
def execNodeLaunchStart (s : State) : Host.Outcome State Fault Refusal :=
  let g := s.arg.n1
  let i := s.arg.n2
  match getGraph s g with
  | none => .next s
  | some r =>
    match r.nodes[i]? with
    | none => .next s
    | some n =>
      if !ctxRuns (getCtx s r.ctx) || !nodeReady r i then .next s
      else match readNode s r n i with
        | .error w => .next (devWait s r.ctx w)
        | .ok (none, s) => .next (endNode (jobMalformed s r.ctx) g i)
        | .ok (some (param, kd), s) =>
          let held : Bool := match n.lrec.cnt with | some c => counterHeld s r.ctx c | none => false
          if held then .next (endNode (graphFaulted s g) g i)
          else
            let (uid, _, s) := createLaunch s r.ctx kd n.lrec (param % 2 ^ 56) 0 (.graph g) (some g)
            .next (modGraph s g fun r => { r with nodes := modNth r.nodes i fun n => { n with launch := some uid } })

/-! ## Completion (R95, R96) -/

/-- Is every write of a launch performed (R96, R247): store-buffer entries, replicated writes, and atomics, REDs and bank operations under way? -/
def launchDrained (s : State) (uid : Nat) : Bool :=
  !(s.cores.any fun c => (c.2.sb ++ c.2.frozen).any fun e => e.launch == uid) &&
  !(s.repls.any fun r => r.launch == uid) && !(s.pends.any fun p => !p.drop && p.launch == uid)

/-- Has a launch met its completion? -/
def launchDue (s : State) (uid : Nat) (l : Launch) : Bool :=
  !l.complete && l.ended ≥ l.total && l.kids == 0 && launchDrained s uid

/-- A launch completes, and counts in its parent. -/
def completeLaunch (s : State) (uid : Nat) (l : Launch) : State :=
  let s := setLaunch s uid { l with complete := true, started := true }
  let s := onCounter s l.cnt fun s i => counterComplete s l.ctx i
  match l.parent with
  | .launch p => modLaunch s p fun q => { q with kids := q.kids - 1 }
  | .graph g =>
    match getGraph s g with
    | some r => match indexOf r.nodes fun n => n.launch == some uid with
      | some i => endNode s g i
      | none => s
    | none => s
  | _ => s

/-- A graph run completes: it counts in its phase and is gone. -/
def completeGraph (s : State) (g : Nat) (r : GraphRun) : State :=
  endGraph (counterComplete { s with graphs := SMap.del s.graphs g } r.ctx r.cnt) r.ctx

/-- The final status of a job (R112). -/
def finalSt (w : Nat) : Nat := if bit w flagCancelled then 5 else if bit w flagFaulted then 6 else 2

/-- A job completes: COMPLETE, then MREC and the final status. -/
def completeJob (s : State) (ctx : Nat) (j : Job) : State :=
  let s' := counterComplete s ctx j.jcnt
  match writeSt s' ctx j.entryVa (finalSt (counterGet s' ctx j.jcnt)) j.mrec with
  | .error w => devWait s ctx w
  | .ok s => modCtx s ctx fun c => { c with job := none }

/-- LEVEL_COMPLETE (R95, R101, R112) of the level named. -/
def execLevelComplete (s : State) : Host.Outcome State Fault Refusal :=
  match s.arg.level with
  | .launch uid =>
    match getLaunch s uid with
    | some l => if launchDue s uid l then .next (completeLaunch s uid l) else .next s
    | none => .next s
  | .graph g =>
    match getGraph s g with
    | some r => if r.nodes.all (·.ended) then .next (completeGraph s g r) else .next s
    | none => .next s
  | .phase ctx =>
    match (getCtx s ctx).job.bind (·.phase) with
    | some p => if p.ended ≥ p.ng then .next (endPhase (counterComplete s ctx p.cnt) ctx) else .next s
    | none => .next s
  | .job ctx =>
    match (getCtx s ctx).job with
    | some j => if j.phase.isNone && (j.index ≥ j.nph || j.cancelled) then .next (completeJob s ctx j) else .next s
    | none => .next s

/-! ## Placing groups (R136 to R141) -/

/-- The next group of a launch to become resident: one dropped before, else the next of its grid. -/
def nextGroup (l : Launch) : Option (Nat × Launch) :=
  match l.requeue with
  | f :: r => some (f, { l with requeue := r, started := true })
  | [] => if l.next < l.total then some (l.next, { l with next := l.next + 1, started := true }) else none

/-- Do the cores named take a group of a kernel at `spans` spans a core (R137, R138)? -/
def coresTake (s : State) (kd : KDesc) (spans : Nat) (cores : List Nat) : Bool :=
  let p := (kd.gx * kd.gy * kd.gz + 31) / 32
  let nr := roundRegs kd.regs
  spans ≥ 1 && spans ≤ maxSpans nr && cores.length == (p + spans - 1) / spans && cores.length ≤ 8 &&
    (cores.all fun c => c < 640 && dieOf c == dieOf (nthD cores 0 0)) && cores.Nodup &&
    (cores.zip (upTo 8)).all fun c => canTake s c.1 (min spans (p - spans * c.2)) nr kd.scratch

/-- The slices of a new group take their slots. -/
def takeSlots (s : State) (gid : Nat) (slices : List (Nat × Nat)) : State :=
  (slices.zip (upTo 8)).foldl (fun s c =>
    reclaim (modCore s c.1.1 fun k => { k with slots := SMap.set k.slots c.1.2 { gid := gid, rank := c.2 } }) c.1.1) s

/-- A group is placed on cores that take it. -/
def placeGroup (s : State) (uid : Nat) (l : Launch) (flat spans : Nat) (cores : List Nat) : State :=
  let slices := cores.map fun c => (c, (freeSlot s c).getD 0)
  let (gid, s) := fresh s
  let s := setGroup (setLaunch s uid l) gid (placedGroup l uid flat spans slices)
  let s := takeSlots s gid slices
  modCtx s l.ctx fun c => { c with state := .active }

/-- GROUP_PLACING (R137 to R141): the next group of launch n1, at n2 spans a core, on the cores `nums`. -/
def execGroupPlacing (s : State) : Host.Outcome State Fault Refusal :=
  let uid := s.arg.n1
  match getLaunch s uid with
  | none => .next s
  | some l =>
    match nextGroup l with
    | none => .next s
    | some (flat, l') =>
      if !ctxRuns (getCtx s l.ctx) || !coresTake s l.kd s.arg.n2 s.arg.nums then .next s
      else .next (placeGroup s uid l' flat s.arg.n2 s.arg.nums)

/-- PLACEMENT_COMPLETE (R141) of group n1, once its slices' cores have given every granule (R146). -/
def execPlacementComplete (s : State) : Host.Outcome State Fault Refusal :=
  match getGroup s s.arg.n1 with
  | none => .next s
  | some g =>
    if g.state != .placing then .next s
    else
      let s := g.slices.foldl (fun s p => if reclaimed s p.1 then s else reclaim s p.1) s
      .next (if g.slices.all fun p => reclaimed s p.1 then completePlacement s s.arg.n1 else s)

/-! ## The end of groups (R141, R151, R152, R154, R156) -/

/-- GROUP_RETIRE (R141) of group n1: DRAINING with no entry left. -/
def execGroupRetire (s : State) : Host.Outcome State Fault Refusal :=
  let gid := s.arg.n1
  match getGroup s gid with
  | some g => if g.state == .draining && !hasEntries s gid then .next (retireGroup s gid) else .next s
  | none => .next s

/-- May the drop a group holds commit (R150, R151)? At a bundle boundary, RUNNING and not masked. -/
def dropDue (s : State) (gid : Nat) : Bool :=
  dropHeld s gid &&
    !(s.bundle.any fun a => match a with | .thread g' _ => g' == gid | _ => false)

/-- DROP_COMMIT (R151, R152) of group n1. -/
def execDropCommit (s : State) : Host.Outcome State Fault Refusal :=
  let gid := s.arg.n1
  if dropDue s gid then .next (commitDrop s gid) else .next s

/-- DROPPED_GROUP_FREE (R152) of group n1: DROPPING with no entry left, and every instruction issued before the commit retired (R151). -/
def execDroppedGroupFree (s : State) : Host.Outcome State Fault Refusal :=
  let gid := s.arg.n1
  match getGroup s gid with
  | some g => if g.state == .dropping && !hasEntries s gid && !(g.threads.any (·.view.isSome)) then .next (freeDropped s gid) else .next s
  | none => .next s

/-- The group of a GSLOT index (R155). -/
def groupAt (s : State) (i : Nat) : Option Nat := (SMap.find (getCore s (i / 64)).slots (i % 64)).map (·.gid)

/-- A command of GSLOT (R156); `none` where it is not allowed. -/
def slotCmd (s : State) (i cmd : Nat) : Option State :=
  match groupAt s i with
  | none => none
  | some gid =>
    match cmd with
    | 1 => some (requestDrop s gid .preempt)
    | 2 => match getGroup s gid with
      | some g => if g.state == .halted then some (killGroup s gid) else none
      | none => none
    | _ => none

/-- GROUP_DROP (R149, R156): command 1 on GSLOT index n1. -/
def execGroupDrop (s : State) : Host.Outcome State Fault Refusal := .next ((slotCmd s s.arg.n1 1).getD s)

/-- GROUP_KILL (R154, R156): command 2 on GSLOT index n1. -/
def execGroupKill (s : State) : Host.Outcome State Fault Refusal := .next ((slotCmd s s.arg.n1 2).getD s)

end Sys2Proof.Machine
end

