-- ==== Sys2Proof/Machine/Context.lean ====
section
/-!
DEFINITION. Contexts and apertures (04_context R71 to R89): the commands of CTXST and APCTL, scrubbing, and the writes of the context
registers that change more than a field. Each operation answers whether it is allowed, and serves both CSRW and the step of the
device of the same name.
-/

namespace Sys2Proof.Machine

/-! ## States -/

/-- The state code of R75. -/
def ctxCode (c : CtxState) : Nat :=
  match c with
  | .free => 0 | .loaded => 1 | .ready => 2 | .active => 3 | .quiescing => 4 | .suspended => 5 | .faulted => 6 | .scrubbing => 7

/-- "LOADED to SUSPENDED" of R79. -/
def ctxHeld (c : CtxState) : Bool := 1 ≤ ctxCode c && ctxCode c ≤ 5

/-- LOADED and SUSPENDED. -/
def ctxIdle (c : CtxState) : Bool := c == .loaded || c == .suspended

/-- The resident groups of a context. -/
def ctxGroups (s : State) (ctx : Nat) : List Nat := (s.groups.filter fun g => g.2.ctx == ctx).map (·.1)

/-- Has a context an engine entry queued or running? -/
def ctxEntries (s : State) (ctx : Nat) : Bool :=
  s.cores.any fun k => k.2.queues.any fun q => q.2.entries.any fun e => e.ctx == ctx

/-- The slots of every core that hold a slice of a context, summed and saturated (R80 RES). -/
def ctxSlices (s : State) (ctx : Nat) : Nat :=
  min 127 ((s.groups.map fun g => if g.2.ctx = ctx then g.2.slices.length else 0).sum)

/-! ## LOAD, START, QUIESCE, RESUME (R76, R77) -/

/-- The buckets of a context at every die are full again (R87). -/
def fillBuckets (s : State) (ctx : Nat) : State :=
  { s with dies := SMap.mapVal s.dies fun _ v => { v with buckets := SMap.del v.buckets ctx } }

/-- LOAD: the registers of R76 take their reset values, the slots are invalid and the counts of the host queue zero (R110). -/
def ctxLoad (s : State) (ctx : Nat) : Option State :=
  if (getCtx s ctx).state != .free then none
  else some (fillBuckets (modCtx s ctx fun c =>
    { c with state := .loaded, halted := false, fcode := 0, key := 0, wclass := 0, lat := false, rate := 0, depth := 0xFFFF, budget := 0,
             cnt := 0, slots := [], tail := 0, head := 0, nextLid := 1, held := [], job := none }) ctx)

/-- START: not while CTXCNT holds its reset value. -/
def ctxStart (s : State) (ctx : Nat) : Option State :=
  let c := getCtx s ctx
  if c.state != .loaded || c.cnt == 0 then none else some (modCtx s ctx fun c => { c with state := .ready })

/-- QUIESCE: no further group becomes resident, and every resident group is asked to drop (R77). -/
def ctxQuiesce (s : State) (ctx : Nat) : Option State :=
  let c := getCtx s ctx
  if c.state != .ready && c.state != .active then none
  else some ((ctxGroups s ctx).foldl (fun s g => requestDrop s g .preempt) (modCtx s ctx fun c => { c with state := .quiescing }))

/-- RESUME. -/
def ctxResume (s : State) (ctx : Nat) : Option State :=
  if (getCtx s ctx).state != .suspended then none else some (modCtx s ctx fun c => { c with state := .ready })

/-! ## FAULT (R76, R352) -/

/-- FAULT: every resident group is halted with cause 0x14; no image is written. -/
def ctxFault (s : State) (ctx : Nat) : Option State :=
  let c := getCtx s ctx
  if !ctxHeld c.state then none
  else some ((ctxGroups s ctx).foldl (fun s g => haltGroup s g 0x14)
    (modCtx s ctx fun c => { c with state := .faulted, halted := false, fcode := 0 }))

/-! ## Scrubbing (R74, R271, R322) -/

/-- The caches lose every line and translation of a tag, dirty bytes being written back; store buffers perform what they hold of it;
fills in flight install nothing. -/
def scrubCaches (s : State) (tag : Nat) : State :=
  let s := drainWhere s fun x => x.tag == tag
  let s := spoilWhere s fun t _ => t == tag
  dropXlats (dropLines s fun c => c.tag == tag) tag 0 0

/-- Scrubbing of a tag begins: its windows are free, and every host window that names it is invalid. -/
def beginScrub (s : State) (tag : Nat) : State :=
  let s := ((s.wins.filter fun w => w.2.state != .free && w.2.tag == tag).map (·.1)).foldl scrubWin s
  scrubCaches { s with hwins := SMap.mapVal s.hwins fun _ h => if 4096 + h.apn = tag then { h with v := false } else h } tag

/-- Is the tag gone from every store buffer and every request under way between dies, and every write-back of it performed? -/
def scrubbed (s : State) (tag : Nat) : Bool :=
  !(anyBuffered s fun x => x.tag == tag) && !(anyPosted s fun t _ => t == tag) && !(s.pends.any fun p => p.tag == tag && !p.host)

/-! ## RELEASE (R76, R112) -/

/-- One valid slot fewer names an aperture, or one more. -/
def mapsDown (s : State) (n : Nat) : State := setAp s n { getAp s n with maps := (getAp s n).maps - 1 }
def mapsUp (s : State) (n : Nat) : State := setAp s n { getAp s n with maps := (getAp s n).maps + 1 }

/-- The aperture a slot value names, where it is valid. -/
def slotAp (v : BitVec 15) : Option Nat := if v.getLsbD 12 then some (field v.toNat 0 12) else none

/-- The slots of a context are dropped. -/
def dropSlots (s : State) (ctx : Nat) : State :=
  let s := (upTo 8).foldl (fun s i => match slotAp (SMap.get (getCtx s ctx).slots i 0) with | some n => mapsDown s n | none => s) s
  modCtx s ctx fun c => { c with slots := [] }

/-- Entries posted and not taken receive ST = 3, in count order, as far as they can be written: whether all have, and the state. Where a host error
posted more than the ring holds, the entries come round again and keep that value. -/
def refuseEntries (s : State) (ctx n : Nat) : Bool × State :=
  match n with
  | 0 => (true, s)
  | n + 1 =>
    let c := getCtx s ctx
    match writeSt s ctx (ringVa c c.head) 3 0 with
    | .error w => (false, devWait s ctx w)
    | .ok s => refuseEntries (modCtx s ctx fun c => { c with head := c.head + 1 }) ctx n

/-- The started entry that a RELEASE has found, if its status is still to be written, receives ST = 5: whether it has, and the state. -/
def endJob (s : State) (ctx : Nat) : Bool × State :=
  match (getCtx s ctx).rel with
  | some (some (va, mrec)) =>
    match writeSt s ctx va 5 mrec with
    | .error w => (false, devWait s ctx w)
    | .ok s => (true, modCtx s ctx fun c => { c with rel := some none })
  | _ => (true, s)

/-- The launches and graph runs of a context are gone. -/
def dropWork (s : State) (ctx : Nat) : State :=
  { s with launches := s.launches.filter (fun l => l.2.ctx != ctx), graphs := s.graphs.filter (fun g => g.2.ctx != ctx) }

/-- The frame slots of a context are FREE (R326). -/
def dropFrames (s : State) (ctx : Nat) : State :=
  { s with dies := SMap.mapVal s.dies fun _ v => { v with frames := SMap.mapVal v.frames fun _ f => if f.st != 0 && f.owner == ctx then {} else f } }

/-- The end of a RELEASE: the slots are dropped, and scrubbing begins. -/
def releaseEnd (s : State) (ctx : Nat) : State :=
  let s := modCtx (leaveReq s fun r => r == .device ctx) ctx fun c => { c with head := c.tail, rel := none }
  beginScrub (dropSlots s ctx) ctx

/-- A RELEASE under way goes on: the status of the started entry, then those of the entries behind it, then its end. What cannot be written now is
written later, and what has been written stays (R90, R112; notes/assumptions 81). -/
def releaseOn (s : State) (ctx : Nat) : State :=
  match endJob s ctx with
  | (false, s) => s
  | (true, s) =>
    let c := getCtx s ctx
    match refuseEntries s ctx (min (c.tail - c.head).toNat (2 ^ (c.hqSize + 4))) with
    | (false, s) => s
    | (true, s) => releaseEnd s ctx

/-- RELEASE: from LOADED, SUSPENDED, or FAULTED with HALTED set. Its groups are killed, its work and its frame slots are gone, and it is SCRUBBING. -/
def ctxRelease (s : State) (ctx : Nat) : Cmd :=
  let c := getCtx s ctx
  if !ctxIdle c.state && !(c.state == .faulted && c.halted) then .bad
  else
    let s := dropFrames (dropWork ((ctxGroups s ctx).foldl killGroup s) ctx) ctx
    .ok (releaseOn (modCtx s ctx fun c =>
      { c with state := .scrubbing, halted := false, job := none, rel := some (c.job.map fun j => (j.entryVa, j.mrec)) }) ctx)

/-- SCRUB_COMPLETE (R74, R76, R84) of tag n1: scrubbing ends on every die, and the context or aperture is FREE. A context then reads
its reset values (R90), and its templates belong to none (R123). Where its RELEASE has statuses still to write, it writes those first. -/
def execScrubComplete (s : State) : Host.Outcome State Fault Refusal :=
  let tag := s.arg.n1
  if tag < 4096 then
    if (getCtx s tag).state != .scrubbing then .next s
    else
      if (getCtx s tag).rel.isSome then .next (releaseOn s tag)
      else
      let s := scrubCaches s tag
      if !scrubbed s tag then .next s
      else
        let s := fillBuckets (setCtx s tag {}) tag
        .next { s with
          repls := s.repls.filter fun r => r.tag != tag
          cores := SMap.mapVal s.cores fun _ k =>
            { k with templates := SMap.mapVal k.templates fun _ t => if t.owner = some tag then { t with owner := none } else t } }
  else if tag < 8192 then
    let a := getAp s (tag - 4096)
    if a.state != .scrubbing then .next s
    else
      let s := scrubCaches s tag
      .next (if scrubbed s tag then setAp { s with repls := s.repls.filter fun r => r.tag != tag } (tag - 4096) { a with state := .free } else s)
  else .next s

/-! ## Steps of the device: the commands of CTXST -/

/-- A command of CTXST (R76), 1 to 6. -/
def ctxCmd (s : State) (ctx cmd : Nat) : Cmd :=
  match cmd with
  | 1 => .of (ctxLoad s ctx)
  | 2 => .of (ctxStart s ctx)
  | 3 => .of (ctxQuiesce s ctx)
  | 4 => .of (ctxResume s ctx)
  | 5 => ctxRelease s ctx
  | 6 => .of (ctxFault s ctx)
  | _ => .bad

/-- CTX_LOAD (R76) of context n1. -/
def execCtxLoad (s : State) : Host.Outcome State Fault Refusal := (ctxCmd s s.arg.n1 1).step s

/-- CTX_START (R76) of context n1. -/
def execCtxStart (s : State) : Host.Outcome State Fault Refusal := (ctxCmd s s.arg.n1 2).step s

/-- CTX_QUIESCE (R76, R77) of context n1. -/
def execCtxQuiesce (s : State) : Host.Outcome State Fault Refusal := (ctxCmd s s.arg.n1 3).step s

/-- CTX_RESUME (R76) of context n1. -/
def execCtxResume (s : State) : Host.Outcome State Fault Refusal := (ctxCmd s s.arg.n1 4).step s

/-- CTX_RELEASE (R76) of context n1. -/
def execCtxRelease (s : State) : Host.Outcome State Fault Refusal := (ctxCmd s s.arg.n1 5).step s

/-- CTX_FAULT (R76) of context n1. -/
def execCtxFault (s : State) : Host.Outcome State Fault Refusal := (ctxCmd s s.arg.n1 6).step s

/-- CTX_QUIESCED (R76) of context n1: no group resident and no engine entry of it. -/
def execCtxQuiesced (s : State) : Host.Outcome State Fault Refusal :=
  let ctx := s.arg.n1
  if (getCtx s ctx).state == .quiescing && (ctxGroups s ctx).isEmpty && !ctxEntries s ctx then
    .next (modCtx s ctx fun c => { c with state := .suspended })
  else .next s

/-- CTX_CAPTURE_DONE (R76) of context n1: every group still resident is HALTED. -/
def execCtxCaptureDone (s : State) : Host.Outcome State Fault Refusal :=
  let ctx := s.arg.n1
  if (getCtx s ctx).state == .faulted && (s.groups.all fun g => g.2.ctx != ctx || g.2.state == .halted) then
    .next (modCtx s ctx fun c => { c with halted := true })
  else .next s

/-! ## Apertures (R84) -/

/-- OPEN: LEN is not 0, and the aperture lies within one placement that exists. -/
def apOpen (s : State) (n : Nat) : Option State :=
  let a := getAp s n
  let first := a.base * 65536
  let last := first + 65536 * a.len - 1
  if a.state != .free || a.len == 0 || !vaOk first || vaPlc first != vaPlc last || last ≥ 2 ^ 56 then none
  else some (setAp s n { a with state := .live })

/-- RELEASE: LIVE, and no slot names it. -/
def apRelease (s : State) (n : Nat) : Option State :=
  let a := getAp s n
  if a.state != .live || a.maps != 0 then none else some (beginScrub (setAp s n { a with state := .scrubbing }) (4096 + n))

/-- A command of APCTL, 1 or 2. -/
def apCmd (s : State) (n cmd : Nat) : Cmd :=
  match cmd with
  | 1 => .of (apOpen s n)
  | 2 => .of (apRelease s n)
  | _ => .bad

/-- AP_OPEN (R84) of aperture n1. -/
def execApOpen (s : State) : Host.Outcome State Fault Refusal := (apCmd s s.arg.n1 1).step s

/-- AP_RELEASE (R84) of aperture n1. -/
def execApRelease (s : State) : Host.Outcome State Fault Refusal := (apCmd s s.arg.n1 2).step s

/-! ## Registers whose write does more -/

/-- Does a write that was checked before, an entry of a store buffer, frozen or not (notes/assumptions 78), or an atomic under way, go to a counter store
(R82)? -/
def counterWrites (s : State) (base : Nat) : Bool :=
  let hits (frame va : Nat) : Bool :=
    let pa := (frame + va % 65536) / 128 * 128
    paRegion frame == 1 && base < pa + 128 && pa < base + 8192
  (anyBuffered s fun x => hits x.frame (128 * x.line)) || (s.cores.any fun c => c.2.frozen.any fun x => hits x.frame (128 * x.line)) ||
    s.pends.any fun p => p.atomic && !p.drop && hits p.frame p.va

/-- CTXCNT (R81, R82): in LOADED, bank memory only. Writes to the store that were checked before it was named are performed first; then it is named and
its 1024 counters are zeroed in one step (R90). -/
def writeCtxcnt (s : State) (ctx v : Nat) : Cmd :=
  let base := field v 13 35 * 2 ^ 13
  if (getCtx s ctx).state != .loaded || !bankOk base then .bad
  else
    let s := if counterWrites s base then drainWhere s fun x => paRegion x.frame == 1 else s
    if counterWrites s base then .wait (.shutter 1024 0) s
    else
    let s := memPut (modCtx s ctx fun c => { c with cnt := base }) base (List.replicate 8192 0)
    .ok ((rangeFrom (base / 128) 64).foldl (fun s l => { s with poison := SMap.del s.poison l }) s)

/-- CTXAP0 to CTXAP7 (R83): in LOADED and SUSPENDED; MAPS follows in one step. -/
def writeCtxap (s : State) (ctx i v : Nat) : Cmd :=
  let now := BitVec.ofNat 15 v
  let c := getCtx s ctx
  let dead : Bool := match slotAp now with | some n => (getAp s n).state != .live | none => false
  if !ctxIdle c.state || dead then .bad
  else
    let s := match slotAp (SMap.get c.slots i 0) with | some n => mapsDown s n | none => s
    let s := match slotAp now with | some n => mapsUp s n | none => s
    .ok (modCtx s ctx fun c => { c with slots := SMap.set c.slots i now })

/-- CTXHQP (R110): TAIL is writable from LOADED to SUSPENDED. -/
def writeCtxhqp (s : State) (ctx v : Nat) : Cmd :=
  if !ctxHeld (getCtx s ctx).state then .bad else .ok (modCtx s ctx fun c => { c with tail := BitVec.ofNat 32 v })

/-- CTXCNT_WRITE (R82) of context n1, value v1. -/
def execCtxcntWrite (s : State) : Host.Outcome State Fault Refusal := (writeCtxcnt s s.arg.n1 s.arg.v1.toNat).step s

/-- CTXAP_WRITE (R83) of slot n2 of context n1, value v1. -/
def execCtxapWrite (s : State) : Host.Outcome State Fault Refusal := (writeCtxap s s.arg.n1 s.arg.n2 s.arg.v1.toNat).step s

/-- CTXHQP_WRITE (R110) of context n1, value v1. -/
def execCtxhqpWrite (s : State) : Host.Outcome State Fault Refusal := (writeCtxhqp s s.arg.n1 s.arg.v1.toNat).step s

/-- TVEC (R347): bits [55:3]; records may be dispatched from then on. -/
def writeTvec (s : State) (core v : Nat) : State :=
  modCore s core fun k => { k with tvec := BitVec.ofNat 64 (field v 3 53 * 8), tvecSet := true }

/-- TVEC_WRITE (R347) of core n1, value v1. -/
def execTvecWrite (s : State) : Host.Outcome State Fault Refusal := .next (writeTvec s s.arg.n1 s.arg.v1.toNat)

/-- Does a host window lie inside its aperture (R322)? -/
def winInside (h : HWin) (a : Ap) : Bool := a.base ≤ h.base && h.base + h.len ≤ a.base + a.len

/-- HWINB (R322): V = 1 needs a length and a LIVE aperture around the window. -/
def writeHwinb (s : State) (w v : Nat) : Cmd :=
  let h : HWin := { getHWin s w with apn := field v 0 12, v := bit v 12, w := bit v 13, hmask := BitVec.ofNat 4 (field v 14 4),
                                     pmask := BitVec.ofNat 6 (field v 18 6) }
  let a := getAp s h.apn
  if h.v && (h.len == 0 || a.state != .live || !winInside h a) then .bad else .ok (setHWin s w h)

/-- HWINB_WRITE (R322) of window n1, value v1. -/
def execHwinbWrite (s : State) : Host.Outcome State Fault Refusal := (writeHwinb s s.arg.n1 s.arg.v1.toNat).step s

/-! ## Other commands -/

/-- SEMST command 1 (R212); `none` while a waiter is queued. -/
def semFreeCmd (s : State) (i : Nat) : Option State :=
  if (getSem (getCore s (i / 32)) (i % 32)).waiters.isEmpty then some (modSem s (i / 32) (i % 32) semFree) else none

/-- SEM_FREE (R212) of SEMST index n1. -/
def execSemFree (s : State) : Host.Outcome State Fault Refusal := .next ((semFreeCmd s s.arg.n1).getD s)

/-- FAULT_POP (R235) on die n1: the oldest record goes. -/
def faultPop (s : State) (d : Nat) : State := modDie s d fun v => { v with faults := v.faults.tail }
def execFaultPop (s : State) : Host.Outcome State Fault Refusal := .next (faultPop s s.arg.n1)

/-- FAULT_CLEAR_OVF (R235) on die n1. -/
def faultClearOvf (s : State) (d : Nat) : State := modDie s d fun v => { v with ovf := false }
def execFaultClearOvf (s : State) : Host.Outcome State Fault Refusal := .next (faultClearOvf s s.arg.n1)

/-- Does an engine entry of queue `q` name a tile: in a tile space of a copy, or as an operand of a matrix operation? -/
def namesTile (q : Nat) (e : Entry) (n : Nat) : Bool :=
  match q with
  | 0 => (tplSpace e.tpl 2 == 2 && tplAddr e.tpl 2 / 4096 == n) || (tplSpace e.tpl 4 == 2 && tplAddr e.tpl 4 / 4096 == n)
  | 1 => (matTiles (matOf e.tpl)).contains n
  | _ => false

/-- Does an entry of a core that has been accepted and has not retired name a tile (R282)? -/
def entryNames (k : Core) (n : Nat) : Bool := k.queues.any fun q => q.2.entries.any fun e => namesTile q.1 e n

/-- TILST command 1 (R280, R282); nothing changes on a FREE tile, and `none` while an entry names the tile. -/
def tileFreeCmd (s : State) (i : Nat) : Option State :=
  let k := getCore s (i / 16)
  if (getTile k (i % 16)).owner.isNone then some s
  else if entryNames k (i % 16) then none
  else some (modTile s (i / 16) (i % 16) fun _ => tileFree)

/-- TILE_FREE (R282) of TILST index n1. -/
def execTileFree (s : State) : Host.Outcome State Fault Refusal := .next ((tileFreeCmd s s.arg.n1).getD s)

/-- ECC_CLEAR (R381) on die n1: both counts are zero. -/
def eccClear (s : State) (d : Nat) : State := modDie s d fun v => { v with ecCorr := 0, ecUncorr := 0 }
def execEccClear (s : State) : Host.Outcome State Fault Refusal := .next (eccClear s s.arg.n1)

end Sys2Proof.Machine
end

