-- ==== Sys2Proof/Machine/Checkpoint.lean ====
section
/-!
DEFINITION. The whole-device checkpoint (18_faults R367): SAVE and LOAD, which stream DRAM and bank memory to and from host space unit by
unit, their end, and ABORT.
-/

namespace Sys2Proof.Machine

/-! ## Commands -/

/-- May a run begin? No run under way, every context FREE, SUSPENDED or FAULTED with HALTED, every stack OWNED, and no core with a frozen
entry. -/
def ckReady (s : State) : Bool :=
  s.dev.ck != .running &&
    (s.ctxs.all fun c => c.2.state == .free || c.2.state == .suspended || (c.2.state == .faulted && c.2.halted)) &&
    (s.stk.all fun k => k.2.state == .owned) && (s.cores.all fun c => c.2.frozen.isEmpty && !c.2.freezing)

/-- A command of CKCTL, 1 to 3. The spec names no STATE after an ABORT: it is IDLE or FAILED, as a free value has it; outside RUNNING,
ABORT has nothing to end. -/
def ckCmd (s : State) (cmd : Nat) : Cmd :=
  match cmd with
  | 1 => if ckReady s then .ok { s with dev := { s.dev with ck := .running, ckLoad := false, ckUnits := 0 } } else .bad
  | 2 => if ckReady s then .ok { s with dev := { s.dev with ck := .running, ckLoad := true, ckUnits := 0 } } else .bad
  | 3 =>
    if s.dev.ck != .running then .ok s
    else
      let (v, s) := freeVal s
      .ok { s with dev := { s.dev with ck := if v.getLsbD 0 then .failed else .idle } }
  | _ => .bad

/-- CK_SAVE (R367). -/
def execCkSave (s : State) : Host.Outcome State Fault Refusal := (ckCmd s 1).step s

/-- CK_LOAD (R367). -/
def execCkLoad (s : State) : Host.Outcome State Fault Refusal := (ckCmd s 2).step s

/-- CK_ABORT (R367). -/
def execCkAbort (s : State) : Host.Outcome State Fault Refusal := (ckCmd s 3).step s

/-! ## Streams -/

/-- What a die's stream holds, in order: for each part its stack id, or 0xFF, its address and its 4 KiB units. -/
def ckParts (s : State) (d : Nat) : List (Nat × Nat × Nat) :=
  ((upTo 32).filter fun k => (getStack s k).owner == d).map (fun k => (k, k * 2 ^ 41, 2 ^ 24)) ++ [(0xFF, 2 ^ 46 + d * 2 ^ 40, 2 ^ 13)]

/-- The units of a die's stream. -/
def ckTotal (s : State) (d : Nat) : Nat := ((ckParts s d).map fun p => p.2.2).sum

/-- The stored form of one unit: its header, then the map and payloads of its sixteen blocks. -/
def ckUnit (s : State) (id pa : Nat) : List Byte :=
  storedImage (padTo 256 (toBytes id 4 ++ toBytes 0 4 ++ toBytes 17 8) :: blocksOf (memBytes s pa 4096) 17)

/-- `n` units from an address, written to host space one after the other; the address after the last. -/
def saveUnits (s : State) (port addr id pa n : Nat) : State × Nat :=
  match n with
  | 0 => (s, addr)
  | n + 1 =>
    let b := ckUnit s id pa
    saveUnits (hostPut s port addr b) port (addr + b.length) id (pa + 4096) n

/-- The parts of a stream, as far as `left` units go. -/
def saveParts (s : State) (port addr left : Nat) (l : List (Nat × Nat × Nat)) : State :=
  match l with
  | [] => s
  | (id, pa, n) :: r =>
    let (s, addr) := saveUnits s port addr id pa (min left n)
    saveParts s port addr (left - n) r

/-- The blocks a code map names, read from host space; none where a code is 11. Answers the address after the last payload. -/
def readBlocks (s : State) (port addr : Nat) (codes : List Nat) (out : List Byte) : Option (List Byte × Nat) :=
  match codes with
  | [] => some (out, addr)
  | c :: r =>
    match c with
    | 0 => readBlocks s port addr r (out ++ List.replicate 256 0)
    | 1 => readBlocks s port (addr + 4) r (out ++ (List.replicate 64 (hostBytes s port addr 4)).flatten)
    | 2 => readBlocks s port (addr + 256) r (out ++ hostBytes s port addr 256)
    | _ => none

/-- Memory with the lines of a range written whole, and so no longer poisoned (R364). -/
def putWhole (s : State) (pa : Nat) (b : List Byte) : State :=
  let s := memPut s pa b
  { s with poison := s.poison.filter fun p => !(pa ≤ 128 * p.1 && 128 * p.1 + 128 ≤ pa + b.length) }

/-- One unit read back; none where the stream is not of the form a SAVE writes. -/
def loadUnit (s : State) (port addr id pa : Nat) : Option (State × Nat) :=
  let h := hostBytes s port addr 256
  let map := hostBytes s port (addr + 256) 256
  if ofBytes (sliceBytes h 0 4) ≠ id ∨ ofBytes (sliceBytes h 8 8) ≠ 17 then none
  else
    let codes := (upTo 16).map fun i => field (ofBytes (sliceBytes map (i / 4) 1)) (2 * (i % 4)) 2
    (readBlocks s port (addr + 512) codes []).map fun r => (putWhole s pa r.1, r.2)

/-- `n` units read back; whether all of them had their form. -/
def loadUnits (s : State) (port addr id pa n : Nat) : Bool × State × Nat :=
  match n with
  | 0 => (true, s, addr)
  | n + 1 =>
    match loadUnit s port addr id pa with
    | none => (false, s, addr)
    | some (s, addr) => loadUnits s port addr id (pa + 4096) n

/-- The parts of a stream read back. -/
def loadParts (s : State) (port addr left : Nat) (l : List (Nat × Nat × Nat)) : Bool × State :=
  match l with
  | [] => (true, s)
  | (id, pa, n) :: r =>
    match loadUnits s port addr id pa (min left n) with
    | (false, s, _) => (false, s)
    | (true, s, addr) => loadParts s port addr (left - n) r

/-! ## The end of a run -/

/-- How many units die `d` moved: those of operand `nums`, all where it names none; not all where its port is not up. -/
def ckMoved (s : State) (d : Nat) : Nat :=
  let all := ckTotal s d
  let p := (getDie s d).ckPort
  min (nthD s.arg.nums d all) (if linkUp s (portLink p) then all else all - 1)

/-- One die's stream is moved: whether it was whole and well formed. -/
def ckMove (s : State) (d moved : Nat) : Bool × State :=
  let v := getDie s d
  let whole := moved == ckTotal s d
  if s.dev.ckLoad then
    let (ok, s) := loadParts s v.ckPort v.ckAddr moved (ckParts s d)
    (ok && whole, if whole then s else raiseErrs s (portLink v.ckPort))
  else
    let s' := saveParts s v.ckPort v.ckAddr moved (ckParts s d)
    (whole, if whole then s' else raiseErrs s' (portLink v.ckPort))

/-- The streams of the dies, one after the other. -/
def ckMoveAll (s : State) (l : List (Nat × Nat)) : Bool × State :=
  match l with
  | [] => (true, s)
  | (d, n) :: r =>
    let (a, s) := ckMove s d n
    let (b, s) := ckMoveAll s r
    (a && b, s)

/-- Every L1 line, L2 line and translation of every die goes. -/
def dropCaches (s : State) : State :=
  { s with
    pends := s.pends.map fun p => { p with install := false }
    asks := s.asks.map fun q => { q with install := false }
    dies := SMap.mapVal s.dies fun _ v => { v with l2 := [], tlb := [] }
    cores := SMap.mapVal s.cores fun _ k => { k with l1 := [], ilines := [] } }

/-- CK_DONE (R367): the run under way has moved its streams, and is DONE, or FAILED where one was not moved whole. Before a SAVE every dirty
byte is in its frame; after a LOAD the caches are empty. While a stack is handed over or frozen its reads and writes are held, and the run goes on
(R303, R387), as while a die has no route to its port's (R14, R314). -/
def execCkDone (s : State) : Host.Outcome State Fault Refusal :=
  if s.dev.ck != .running || s.stk.any (fun k => k.2.state != .owned) || (upTo 16).any (fun d => !reaches s d (portDie (getDie s d).ckPort)) then .next s
  else
    let s := if s.dev.ckLoad then s else cleanL2 s fun _ => true
    if anyPosted s fun _ _ => true then .next s
    else
      let moved := (upTo 16).map fun d => (d, ckMoved s d)
      let (ok, s) := ckMoveAll s moved
      let s := if s.dev.ckLoad then dropCaches s else s
      .next { s with dev := { s.dev with ck := if ok then .done else .failed, ckUnits := (moved.map (·.2)).sum % 2 ^ 32 } }

end Sys2Proof.Machine
end

