-- ==== Sys2Proof/Machine/Hinge.lean ====
section
/-!
DEFINITION. The hinge (15_stack R298 to R309, R387): HINGE, the steps of a hand-over, failed drains and REOPEN.
-/

namespace Sys2Proof.Machine

/-! ## Dies and routes -/

/-- The two dies wired to a stack (R305). -/
def lowerDie (k : Nat) : Nat := k / 2
def upperDie (k : Nat) : Nat := (k / 2 + 1) % 16

/-- A die's route entry for a stack (R306). -/
def routeEntry (s : State) (d k : Nat) : Nat := SMap.get (getDie s d).routes k (k / 2)

/-- Has a hand-over of a stack begun and not ended? -/
def handingOver (k : Stack) : Bool :=
  k.state == .closing || k.state == .drained || k.state == .switching || k.state == .opening

/-! ## Turns (R307, R308) -/

/-- Step 1 of a hand-over (R302): the owner closes admission. -/
def beginHandover (s : State) (k target : Nat) (a : Agent) : State :=
  modStack s k fun v => { v with state := .closing, target := target, began := s.dev.tick, fcause := 0, issuer := some a }

/-- Is a die's controller for a stack marked degraded? -/
def degraded (v : Stack) (k target : Nat) : Bool :=
  (target == lowerDie k && v.degl) || (target == upperDie k && v.degh)

/-- A HINGE whose turn has come: a status at once, or none as its hand-over begins. -/
def hingeTurn (s : State) (k target : Nat) (a : Agent) : Option Nat × State :=
  let v := getStack s k
  if v.state = .frozen then (some 4, s)
  else if v.owner = target then (some 0, s)
  else if degraded v k target then (some 3, s)
  else (none, beginHandover s k target a)

/-- The thread of a HINGE retires with its status, where it still waits. -/
def hingeRetire (s : State) (k st : Nat) (a : Agent) : State :=
  match getThread s a with
  | some t => match t.st with
    | .waiting (.hinge k' _ d) => if k' = k then retire s (envOf s a) (writeX t d (BitVec.ofNat 32 st)) else s
    | _ => s
  | none => s

/-- The target of a waiting HINGE. -/
def hingeTarget (s : State) (a : Agent) : Option Nat :=
  match getThread s a with
  | some t => match t.st with
    | .waiting (.hinge _ target _) => some target
    | _ => none
  | none => none

/-- The HINGEs that wait their turn are served, until one begins a hand-over. -/
def serveHinges (fuel : Nat) (s : State) (k : Nat) : State :=
  match fuel with
  | 0 => s
  | fuel + 1 =>
    match (getStack s k).queue with
    | [] => s
    | a :: r =>
      let s := modStack s k fun v => { v with queue := r }
      match hingeTarget s a with
      | none => serveHinges fuel s k
      | some target =>
        match hingeTurn s k target a with
        | (some st, s) => serveHinges fuel (hingeRetire s k st a) k
        | (none, s) => s

/-- Is a request that was held for a stack, and may be admitted now, still to be admitted? What a hand-over held is admitted by the new owner before
the next hand-over begins (R302 step 8, R303). -/
def carried (s : State) (k : Nat) : Bool := (getStack s k).held.any fun h => admits s k h.die

/-- The HINGEs that wait have their turn, where no hand-over is under way and nothing held has still to be admitted. -/
def nextHinges (s : State) (k : Nat) : State :=
  let v := getStack s k
  if v.queue.isEmpty || handingOver v || carried s k then s else serveHinges (v.queue.length + 1) s k

/-- HINGE (R307). On a sextant core the key check passes. -/
def execHinge (o : OpR) (s : State) : Host.Outcome State Fault Refusal :=
  issue s o.g {} [.dx o.d, .sx o.a, .sx o.b] fun e t =>
    let k := (readX t o.a.toNat).toNat
    let target := (readX t o.b.toNat).toNat
    let done (s : State) (st : Nat) : State := retire s e (writeX t o.d.toNat (BitVec.ofNat 32 st))
    if k > 31 ∨ target > 15 then trap s e.who 0x02
    else if !e.onSextant && !(getCtx s e.ctx).key.getLsbD k then
      (if o.mod.getLsbD 0 then trap s e.who 0x0F else done s 1)
    else if target ≠ lowerDie k ∧ target ≠ upperDie k then done s 2
    else
      let wait (s : State) : State := setThread s e.who { t with st := .waiting (.hinge k target o.d.toNat) }
      if handingOver (getStack s k) || carried s k || !(getStack s k).queue.isEmpty then
        wait (modStack s k fun v => { v with queue := v.queue ++ [e.who] })
      else match hingeTurn s k target e.who with
        | (some st, s) => done s st
        | (none, s) => wait s

/-! ## Ends of a hand-over -/

/-- The stack is OWNED again: what was held goes on in the order received (R302 step 8, R304), the HINGE under way ends, and the next has its turn once
that is admitted. -/
def reopenStack (s : State) (k st : Nat) : State :=
  let issuer := (getStack s k).issuer
  let s := modStack s k fun v => { v with state := .owned, target := v.owner, markers := [], issuer := none }
  let s := moveOn s
  nextHinges (match issuer with | some a => hingeRetire s k st a | none => s) k

/-- The HINGEs of every stack have their turns. -/
def allHinges (s : State) : State := (s.stk.filter fun k => !k.2.queue.isEmpty).foldl (fun s k => nextHinges s k.1) s

/-- The stack freezes (R304): every waiting HINGE ends with status 4. -/
def freezeStack (s : State) (k cause : Nat) : State :=
  let v := getStack s k
  let s := modStack s k fun v => { v with state := .frozen, target := v.owner, fcause := cause, issuer := none, queue := [] }
  moveOn ((v.issuer.toList ++ v.queue).foldl (fun s a => hingeRetire s k 4 a) s)

/-- Does a request that the stack's owner has admitted wait for its token (R87)? -/
def waitsForToken (s : State) (k : Nat) : Bool := (getDie s (getStack s k).owner).tokq.any fun x => x.stack == k

/-! ## Steps of the device -/

/-- HANDOVER_DRAINED (R301, R302 steps 2 to 4) of stack n1: CLOSING becomes DRAINED once every admitted read and write is performed, unless the drain has
failed (R304); and DRAINED becomes SWITCHING as step 4 begins. -/
def execHandoverDrained (s : State) : Host.Outcome State Fault Refusal :=
  let k := s.arg.n1
  let v := getStack s k
  match v.state with
  | .closing =>
    if v.err || s.dev.tick > v.began + 1000000 || v.posted.any (·.adm) || waitsForToken s k then .next (performStack s k)
    else .next (modStack s k fun v => { v with state := .drained })
  | .drained => .next (modStack s k fun v => { v with state := .switching })
  | _ => .next s

/-- HANDOVER_SWITCHED (R302 steps 5 to 7) of stack n1: OWNER becomes the target, every die sets its route and sends its marker to the
old owner. -/
def execHandoverSwitched (s : State) : Host.Outcome State Fault Refusal :=
  let k := s.arg.n1
  let v := getStack s k
  if v.state != .switching then .next s
  else
    let s := modStack s k fun v => { v with state := .opening, owner := v.target, markers := [] }
    let s := (upTo 16).foldl (fun s d => modDie s d fun x => { x with routes := SMap.set x.routes k v.target }) s
    .next ((upTo 16).foldl (fun s d => sendMsg s d v.owner false (.marker k d)) s)

/-- ROUTE_MARKER (R302 steps 7 and 8, R303): the marker of message n1 reaches the old owner, which forwards it, or the new owner, which
then performs its die's posted writes and admits its requests; the last ends the hand-over. -/
def execRouteMarker (s : State) : Host.Outcome State Fault Refusal :=
  match findMsg s s.arg.n1 with
  | none => .next s
  | some m =>
    match m.body with
    | .marker k d =>
      if !arrived s m then .next s
      else
        let s := takeMsg s m.id
        let v := getStack s k
        if m.dst ≠ v.owner then .next (sendMsg s m.dst v.owner false (.marker k d))
        else
          let s := modStack s k fun v => { v with markers := d :: v.markers }
          if (getStack s k).markers.length ≥ 16 then
            .next (reopenStack (modStack s k fun v => { v with hcnt := (v.hcnt + 1) % 2 ^ 16 }) k 0)
          else .next (moveOn s)
    | _ => .next s

/-- DRAIN_TIMEOUT (R304) of stack n1: 1,000,000 ticks after step 1, or (flag) at an error of the owner's controller, which stands until it
is repaired. -/
def execDrainTimeout (s : State) : Host.Outcome State Fault Refusal :=
  let k := s.arg.n1
  let v := getStack s k
  if v.state != .closing then .next s
  else if s.arg.flag then .next (freezeStack (modStack s k fun v => { v with err := true }) k 2)
  else if s.dev.tick ≥ v.began + 1000000 then .next (freezeStack s k 1)
  else .next s

/-- REOPEN (R304, R305); `none` in any state but FROZEN. A controller error that still stands freezes the stack again. -/
def stackReopen (s : State) (k : Nat) : Option State :=
  let v := getStack s k
  if v.state != .frozen then none
  else if v.err then some (modStack s k fun v => { v with fcause := 2 })
  else some (reopenStack s k 0)

/-- STACK_REOPEN (R304) of stack n1. -/
def execStackReopen (s : State) : Host.Outcome State Fault Refusal := .next ((stackReopen s s.arg.n1).getD s)

end Sys2Proof.Machine
end

