-- ==== Sys2Proof/Machine/Links.lean ====
section
/-!
DEFINITION. Links and ports (16_link R310 to R317): flits, replay, training, links that go down, and the commands of LNKST. A flit carries
one message (notes/assumptions 10).
-/

namespace Sys2Proof.Machine

/-! ## After a change -/

/-- Is an index one of the 22 links, one of a host port, or one of a peer port (R317)? -/
def isLink (l : Nat) : Bool := l < 22
def isHostPort (l : Nat) : Bool := 22 ≤ l && l ≤ 25
def isPeerPort (l : Nat) : Bool := 26 ≤ l && l ≤ 31

/-- Modules of a link, lanes of a port (R310, R321). -/
def fullWidth (l : Nat) : Nat := if isLink l then 4 else 16

/-- A link whose OFF waits goes OFF once no message goes over it (R313, R316). -/
def settleOff (s : State) (l : Nat) : State :=
  if (getLink s l).offPend && !(s.msgs.any fun m => m.at_ != m.dst && m.path.any fun h => h.1 == l) then
    modLink s l fun k => { k with state := .off, offPend := false, width := 0 }
  else s

/-- Requests without a route, posted writes and messages go on where they can. -/
def linksChanged (s : State) : State := (upTo 22).foldl settleOff (pushMsgs (moveOn s))

/-- Messages that wait to cross a link that is to go OFF, and are not on it, take another route. -/
def rerouteFrom (s : State) (l : Nat) : State :=
  { s with msgs := s.msgs.map fun m =>
      if !m.wire && m.at_ == m.src && m.path.any (fun h => h.1 == l) then { m with path := [] } else m }

/-- A direction of a link that goes DOWN loses what is on the wire. -/
def LinkDir.cut (v : LinkDir) : LinkDir := { v with wire := [], nak := false }

/-- A link or port enters DOWN: what is on the wire is lost. A message received whole is acted on all the same, and what the other end has not received is
sent again: on other routes by R315, and at a peer port, which has none, once it has trained. -/
def linkDown (s : State) (l : Nat) : State :=
  modLink s l fun k => { k with state := .down, width := 0, fwd := k.fwd.cut, bwd := k.bwd.cut }

/-! ## Flits (R315) -/

/-- Is a message of a reserved OP, for the die it reaches (R312)? -/
def Msg.reservedAt (m : Msg) (d : Nat) : Bool :=
  match m.body with
  | .reserved _ => m.dst == d
  | _ => false

/-- The message of a flit that was received good moves to the far end; its receiver drops one of a reserved OP and counts it (R312). -/
def landMsg (s : State) (l : Nat) (up : Bool) (id : Nat) : State :=
  if s.msgs.any fun m => m.id == id && m.reservedAt (farEnd l up) then
    raiseErrs { s with msgs := s.msgs.filter fun m => m.id != id } l
  else modMsg s id fun m => { m with at_ := farEnd l up, path := m.path.tail, wire := false }

/-- A flit from a peer arrives at its port (R315, R324): taken where its CRC is good and its SEQ, `seq`, the next, and its message may then be acted
on; else the port sends a NAK. -/
def peerFlit (s : State) (l seq : Nat) (good : Bool) : State :=
  modLink s l fun k =>
    let v := k.bwd
    if !good then { k with bwd := { v with nak := true }, crce := sat16 (k.crce + 1) }
    else if seq ≠ v.expect then { k with bwd := { v with nak := true } }
    else { k with bwd := { v with expect := (v.expect + 1) % 4096, replays := 0 }, rx := k.rx + 1 }

/-- FLIT_RECEIVE (R315) on link n1, from its lower end where n2 is not 0: the next flit arrives, with a good CRC (flag) or a bad one. On a peer
port (R324) a nonzero n2 is a flit that the peer receives, and 0 one it sends, of SEQ n3. On a host port, in Flit Mode (R321), a flit with a bad CRC is
counted, and PCIe replays it. -/
def execFlitReceive (s : State) : Host.Outcome State Fault Refusal :=
  let l := s.arg.n1
  let up := s.arg.n2 != 0
  let v := dirOf (getLink s l) up
  if l > 31 || !linkUp s l then .next s
  else if isHostPort l then .next (if s.arg.flag then s else modLink s l fun k => { k with crce := sat16 (k.crce + 1) })
  else if isPeerPort l && !up then .next (peerFlit s l s.arg.n3 s.arg.flag)
  else match v.wire with
    | [] => .next s
    | f :: r =>
      if !s.arg.flag then
        .next (modLink s l fun k =>
          { setDir k up { v with wire := r, nak := true } with crce := if isLink l then sat16 (k.crce + 1) else k.crce })
      else if f.seq ≠ v.expect then .next (modLink s l fun k => setDir k up { v with wire := r, nak := true })
      else
        let keep := (v.replay.dropWhile fun x => x != f).drop 1
        let now : LinkDir := { v with wire := r, expect := (v.expect + 1) % 4096, replay := keep, replays := 0 }
        let s := modLink s l fun k => setDir k up (now.flush now.queue)
        .next (if isLink l then linksChanged (landMsg s l up f.msg) else s)

/-- FLIT_REPLAY (R315) on link or peer port n1, from its lower end where n2 is not 0: a NAK makes the transmitter send again every flit not
acknowledged; sixteen such replays move the link to RETRAIN. ERRS counts replays of links only (R317). -/
def execFlitReplay (s : State) : Host.Outcome State Fault Refusal :=
  let l := s.arg.n1
  let up := s.arg.n2 != 0
  let v := dirOf (getLink s l) up
  if !(isLink l || isPeerPort l) || !linkUp s l || !v.nak then .next s
  else
    let spent := v.replays + 1 ≥ 16
    .next (modLink s l fun k =>
      { setDir k up { v with wire := v.replay, nak := false, replays := if spent then 0 else v.replays + 1 } with
        errs := if isLink l then sat16 (k.errs + 1) else k.errs, state := if spent then .retrain else k.state })

/-! ## Training (R316) -/

/-- The width that trained modules or lanes give: a host port trains to x16, x8 or x4 (R321; notes/assumptions 55). -/
def trainedWidth (l n : Nat) : Nat :=
  if isHostPort l then (if n ≥ 16 then 16 else if n ≥ 8 then 8 else if n ≥ 4 then 4 else 0) else min n (fullWidth l)

/-- The state a width gives. -/
def widthState (l w : Nat) (slow : Bool) : LinkState :=
  if w = 0 then .down else if w ≥ fullWidth l ∧ ¬ slow then .up else .degraded

/-- LINK_TRAINED (R316) of link or port n1: n2 modules or lanes trained. On a link n3 lanes were remapped; on a port a nonzero n3 means
below 64 GT/s. A failed attempt (flag) is the last one where it is the third. -/
def execLinkTrained (s : State) : Host.Outcome State Fault Refusal :=
  let l := s.arg.n1
  let k := getLink s l
  if l > 31 ∨ (k.state ≠ .training ∧ k.state ≠ .retrain) then .next s
  else if s.arg.flag ∧ k.state = .training ∧ k.fails < 2 then .next (modLink s l fun k => { k with fails := k.fails + 1 })
  else
    let w := if s.arg.flag then 0 else trainedWidth l s.arg.n2
    let st := widthState l w (!isLink l && s.arg.n3 != 0)
    if st = .down then .next (linksChanged (linkDown s l))
    else
      .next (linksChanged (modLink s l fun k =>
        { k with state := st, width := w, fails := 0, lrep := if isLink l then s.arg.n3 % 256 else k.lrep,
                 fwd := { k.fwd with wire := k.fwd.replay, nak := false },
                 bwd := { k.bwd with wire := k.bwd.replay, nak := false } }))

/-! ## Links that go down (R315) -/

/-- Is the control message of a direction of a link on its way? -/
def controlSent (s : State) (l : Nat) (up : Bool) : Bool :=
  s.msgs.any fun m => match m.body with | .control l' up' _ => l' == l && up' == up | _ => false

/-- The receiver of a direction tells the sender the last SEQ it received good, over a route that avoids the link. -/
def sendControl (s : State) (l : Nat) (up : Bool) : State :=
  let v := dirOf (getLink s l) up
  if v.replay.isEmpty || controlSent s l up || !reaches s (farEnd l up) (farEnd l (!up)) then s
  else sendMsg s (farEnd l up) (farEnd l (!up)) false (.control l up v.expect)

/-- LINK_DOWN_RESEND (R315) of link n1, which is DOWN. -/
def execLinkDownResend (s : State) : Host.Outcome State Fault Refusal :=
  let l := s.arg.n1
  if !isLink l || (getLink s l).state != .down then .next s
  else .next (sendControl (sendControl s l true) l false)

/-- The sender of a direction takes back the messages of the flits not received, to send them again on new routes. -/
def takeBack (s : State) (l : Nat) (up : Bool) (seq : Nat) : State :=
  let v := dirOf (getLink s l) up
  let cut := v.replay.dropWhile fun f => f.seq != seq
  let s := modLink s l fun k => setDir k up { v with replay := [], wire := [], next := seq, expect := seq }
  { s with msgs := s.msgs.map fun m => if cut.any (fun f => f.msg == m.id) then { m with wire := false, path := [] } else m }

/-- DAOFT_CONTROL (R312, R315): control message n1 arrives. One for a link that carries traffic again is dropped, as the link's own
replay has taken its place. -/
def execDaoftControl (s : State) : Host.Outcome State Fault Refusal :=
  match findMsg s s.arg.n1 with
  | none => .next s
  | some m =>
    match m.body with
    | .control l up seq =>
      if !arrived s m then .next s
      else
        let s := takeMsg s m.id
        let k := getLink s l
        .next (if k.state = .down ∨ k.state = .off then linksChanged (takeBack s l up seq) else s)
    | _ => .next s

/-! ## Commands of LNKST (R316, R317) -/

/-- A command of LNKST; `none` where R316 does not allow it. -/
def linkCmd (s : State) (l cmd : Nat) : Option State :=
  let st := (getLink s l).state
  match cmd with
  | 1 => if st = .up ∨ st = .degraded then some (modLink s l fun k => { k with state := .retrain }) else none
  | 2 =>
    if st = .off then none
    else if isLink l then some (linksChanged (rerouteFrom (modLink s l fun k => { k with offPend := true }) l))
    else some (modLink (linkDown s l) l fun k => { k with state := .off })
  | 3 => if st = .down ∨ st = .off then some (modLink s l fun k => { k with state := .training, fails := 0 }) else none
  | _ => none

/-- LINK_RETRAIN (R316) of link or port n1. -/
def execLinkRetrain (s : State) : Host.Outcome State Fault Refusal := .next ((linkCmd s s.arg.n1 1).getD s)

/-- LINK_OFF (R316) of link or port n1. -/
def execLinkOff (s : State) : Host.Outcome State Fault Refusal := .next ((linkCmd s s.arg.n1 2).getD s)

/-- LINK_ON (R316) of link or port n1. -/
def execLinkOn (s : State) : Host.Outcome State Fault Refusal := .next ((linkCmd s s.arg.n1 3).getD s)

/-- HOST_LINK_LOST (R316) of host port n1: its PCIe link drops into retraining (flag) or is lost. -/
def execHostLinkLost (s : State) : Host.Outcome State Fault Refusal :=
  let l := portLink s.arg.n1
  if s.arg.n1 > 3 || !linkUp s l then .next s
  else if s.arg.flag then .next (modLink s l fun k => { k with state := .retrain })
  else .next (linkDown s l)

end Sys2Proof.Machine
end

