-- ==== Sys2Proof/Machine/Csr.lean ====
section
/-!
DEFINITION. CSRR and CSRW (04_context R79 to R90) over every control register of the device: its number and index range, its value as it reads,
and what a write does.
-/

namespace Sys2Proof.Machine

/-! ## Numbers and indexes -/

/-- How a number is assigned: unassigned, not indexed, or indexed with so many indexes. -/
inductive CsrKind where
  | none
  | plain
  | indexed (n : Nat)
  deriving DecidableEq, Repr

/-- The control registers of the manual. -/
def csrKind (n : Nat) : CsrKind :=
  if n < 0x0100 then .none
  else if n ≤ 0x0111 then .indexed 4096
  else if 0x0200 ≤ n ∧ n ≤ 0x0203 then .indexed 4096
  else if n = 0x0300 then .indexed 16
  else if 0x0400 ≤ n ∧ n ≤ 0x0403 then .indexed 2560
  else if n = 0x0500 then .indexed 40960
  else if n = 0x0600 then .indexed 20480
  else if n = 0x0700 ∨ n = 0x0701 then .indexed 16
  else if n = 0x0800 then .indexed 10240
  else if n = 0x0900 ∨ n = 0x0901 ∨ n = 0x0A00 then .indexed 32
  else if n = 0x0A01 ∨ n = 0x0A02 then .indexed 64
  else if n = 0x0B00 then .indexed 1024
  else if n = 0x0C00 ∨ n = 0x0C05 then .indexed 640
  else if 0x0C01 ≤ n ∧ n ≤ 0x0C03 then .plain
  else if n = 0x0C04 then .indexed (2 ^ 29)
  else if n = 0x0C06 ∨ n = 0x0C09 then .indexed 16
  else if n = 0x0C07 then .indexed 40960
  else if n = 0x0C08 then .plain
  else if 0x0D00 ≤ n ∧ n ≤ 0x0D02 then .plain
  else if n = 0x0D03 then .indexed 16
  else .none

/-- The number a word names (R90): B × 256 + C. -/
def csrNumber (o : OpR) : Nat := o.b.toNat * 256 + o.c.toNat

/-- A further ground of trap 0x01: an unassigned number, or a nonzero A for a register that is not indexed. -/
def csrIll (o : OpR) (_ : Env) : Bool :=
  match csrKind (csrNumber o) with
  | .none => true
  | .plain => o.a != 0
  | .indexed _ => false

/-- Is the index in range? -/
def csrIndexOk (o : OpR) (i : Nat) : Bool :=
  match csrKind (csrNumber o) with
  | .indexed n => i < n
  | _ => true

/-! ## Registers that only some threads reach -/

/-- The record of a dispatched lane (R347). -/
def laneRec (s : State) (e : Env) : Option TrapRec :=
  match e.who with
  | .lane c l => (getLane (getCore s c) l).trec
  | _ => none

/-- The thread that a TXREG index names for a lane, with its group and register: on its own core, TRAPPED, PARKED or in a HALTED group, and
the register declared (R348). -/
def txThread (s : State) (e : Env) (i : Nat) : Option (Agent × Thread × Nat) :=
  let r := i % 512
  let tid := i / 512 % 16384
  match e.core.bind fun c => SMap.find (getCore s c).slots (i / 2 ^ 23) with
  | none => none
  | some v =>
    match getGroup s v.gid, getThread s (.thread v.gid tid) with
    | some g, some t =>
      let stands := g.state == .halted || (match t.st with | .trapped => true | .parked _ => true | _ => false)
      if rankOf g tid == v.rank && stands && (r == 256 || (r < 256 && r ≤ g.regs)) then some (.thread v.gid tid, t, r) else none
    | _, _ => none

/-! ## Values as they read -/

def gstateCode (g : GState) : Nat :=
  match g with
  | .placing => 1 | .running => 2 | .draining => 3 | .dropping => 4 | .halted => 5

def stackCode (k : StackState) : Nat :=
  match k with
  | .owned => 0 | .closing => 1 | .drained => 2 | .switching => 3 | .opening => 4 | .frozen => 5

def linkCode (k : LinkState) : Nat :=
  match k with
  | .reset => 0 | .training => 1 | .up => 2 | .degraded => 3 | .retrain => 4 | .down => 5 | .off => 6

def apCode (a : ApState) : Nat := match a with | .free => 0 | .live => 1 | .scrubbing => 2

def ckCode (k : CkState) : Nat := match k with | .idle => 0 | .running => 1 | .done => 2 | .failed => 3

/-- CTXST (R80). -/
def readCtxst (s : State) (i : Nat) : Nat :=
  let c := getCtx s i
  ctxCode c.state + 2 ^ 3 * ofBool c.halted + 2 ^ 8 * c.fcode + 2 ^ 16 * ctxSlices s i

/-- GSLOT (R155); a FREE slot reads 0. PEND reads 1 for every drop request not yet committed, of an unmasked group too (notes/assumptions 56). -/
def readGslot (s : State) (i : Nat) : Nat :=
  match SMap.find (getCore s (i / 64)).slots (i % 64) with
  | none => 0
  | some v =>
    match getGroup s v.gid with
    | none => 0
    | some g =>
      gstateCode g.state + 2 ^ 3 * ofBool v.active.isSome + 2 ^ 4 * ofBool g.drop.isSome + 2 ^ 5 * ofBool (isMasked g) + 2 ^ 12 * v.rank +
        2 ^ 15 * g.slices.length + 2 ^ 20 * g.ctx + 2 ^ 32 * g.lid.toNat

/-- SEMST (R212). -/
def readSemst (m : Sem) : Nat :=
  m.value + 2 ^ 16 * m.ceil + (match m.owner with | some c => 2 ^ 32 * c + 2 ^ 44 | none => 0) + 2 ^ 45 * ofBool (!m.waiters.isEmpty)

/-- XFLTA and XFLTB (R235). -/
def readXflta (v : Die) : Nat := match v.faults with | r :: _ => r.va + 2 ^ 56 * r.code | [] => 0
def readXfltb (v : Die) : Nat :=
  (match v.faults with
    | r :: _ => r.tag + 2 ^ 16 * r.kind + 2 ^ 18 * ofBool r.eng + 2 ^ 19 + 2 ^ 20 * r.cause + 2 ^ 24 * r.level
    | [] => 0) + 2 ^ 26 * ofBool v.ovf + 2 ^ 32 * v.faults.length

/-- The requests held for a stack (R305, R387): those of threads, engines, messages, store buffers, hosts and peers, and write-backs not admitted. An
admitted write is posted and not held (R304). -/
def stackHeld (s : State) (k : Nat) : Nat :=
  sat16 ((getStack s k).held.length + ((getStack s k).posted.filter fun p => !p.adm).length)

/-- STKST (R305). -/
def readStkst (s : State) (k : Nat) : Nat :=
  let v := getStack s k
  stackCode v.state + 2 ^ 4 * v.owner + 2 ^ 8 * v.target + 2 ^ 12 * ofBool v.degl + 2 ^ 13 * ofBool v.degh + 2 ^ 20 * v.fcause +
    2 ^ 32 * stackHeld s k + 2 ^ 48 * v.hcnt

/-- STKRT (R306). -/
def readStkrt (s : State) (i : Nat) : Nat :=
  ((upTo 16).map fun j => 2 ^ (4 * j) * routeEntry s (i / 2) (16 * (i % 2) + j)).sum

/-- LNKST (R317). -/
def readLnkst (k : Link) : Nat :=
  linkCode k.state + 2 ^ 4 * k.width + 2 ^ 16 * k.lrep + 2 ^ 32 * k.errs + 2 ^ 48 * k.crce

/-- HWINA and HWINB (R322). -/
def readHwina (h : HWin) : Nat := h.base + 2 ^ 40 * h.len
def readHwinb (h : HWin) : Nat :=
  h.apn + 2 ^ 12 * ofBool h.v + 2 ^ 13 * ofBool h.w + 2 ^ 14 * h.hmask.toNat + 2 ^ 18 * h.pmask.toNat

/-- FRMST (R333). -/
def readFrmst (s : State) (f : Frame) : Nat := f.st + (if f.st = 0 then 0 else 2 ^ 8 * f.owner) + 2 ^ 32 * (spillsOf s f).length

/-- TRECA, TRECB and TRECC (R347). -/
def readTreca (r : TrapRec) : Nat := r.epc.toNat % 2 ^ 56 + 2 ^ 56 * r.code
def readTrecb (r : TrapRec) : Nat := r.arg.toNat + 2 ^ 32 * r.slot + 2 ^ 38 * r.tid + 2 ^ 52 * r.kind + 2 ^ 54 * r.q
def readTrecc (r : TrapRec) : Nat := if r.kind = 1 ∨ (r.kind = 0 ∧ codeHasVa r.code) then r.va % 2 ^ 56 else 0

/-- CORST (R361). -/
def readCorst (k : Core) : Nat :=
  ofBool k.halted + 2 * ofBool k.hb + 2 ^ 8 * k.frozen.length + 2 ^ 32 * (k.lastBeat % 2 ^ 32)

/-- SXCAUSE (R380). -/
def readSxcause (x : Sextant) : Nat := x.causeCode + 2 ^ 8 * x.causeCore + 2 ^ 14 * x.causeKind + 2 ^ 16 * x.events.length

/-- The registers of a context and of an aperture (R79 to R89, R110, R319). -/
def readCtxCsr (s : State) (n i : Nat) : Nat :=
  let c := getCtx s i
  let a := getAp s i
  match n with
  | 0x0100 => readCtxst s i
  | 0x0101 => c.root
  | 0x0102 => c.splBase + 2 ^ 48 * c.splSize
  | 0x0103 => c.key.toNat
  | 0x0104 => c.wclass + 2 ^ 2 * ofBool c.lat + 2 ^ 8 * c.rate + 2 ^ 24 * c.depth
  | 0x0105 => c.budget
  | 0x0106 => c.cnt
  | 0x0107 => c.hqBase + 2 ^ 44 * c.hqSize
  | 0x0110 => c.tail.toNat + 2 ^ 32 * c.head.toNat
  | 0x0111 => c.hport
  | 0x0200 => a.base + 2 ^ 40 * a.len
  | 0x0201 => a.root
  | 0x0202 => a.splBase + 2 ^ 48 * a.splSize
  | 0x0203 => apCode a.state + 2 ^ 16 * a.maps
  | _ => (SMap.get c.slots (n - 0x0108) 0).toNat

/-- The value of a control register, CMD fields as 0; none where the thread may not reach it (trap 0x02). -/
def csrRead (s : State) (e : Env) (n i : Nat) : Option Nat :=
  if n < 0x0300 then some (readCtxCsr s n i)
  else match n with
    | 0x0300 => some (((upTo 4).map fun w => 2 ^ (8 * w) * quotaOf (getDie s i) w).sum)
    | 0x0400 => some (readQctl (getQueue (getCore s (i / 4)) (i % 4)))
    | 0x0401 => some (readQseq (getQueue (getCore s (i / 4)) (i % 4)))
    | 0x0402 => some (readQflt (getQueue (getCore s (i / 4)) (i % 4)))
    | 0x0403 => some (readQfva (getQueue (getCore s (i / 4)) (i % 4)))
    | 0x0500 => some (readGslot s i)
    | 0x0600 => some (readSemst (getSem (getCore s (i / 32)) (i % 32)))
    | 0x0700 => some (readXflta (getDie s i))
    | 0x0701 => some (readXfltb (getDie s i))
    | 0x0800 => some (readTilst (getTile (getCore s (i / 16)) (i % 16)))
    | 0x0900 => some (readStkst s i)
    | 0x0901 => some (readStkrt s i)
    | 0x0A00 => some (readLnkst (getLink s i))
    | 0x0A01 => some (readHwina (getHWin s i))
    | 0x0A02 => some (readHwinb (getHWin s i))
    | 0x0B00 => some (readFrmst s (getFrame s (i / 64) (i % 64)))
    | 0x0C00 => some (getCore s i).tvec.toNat
    | 0x0C01 => (laneRec s e).map readTreca
    | 0x0C02 => (laneRec s e).map readTrecb
    | 0x0C03 => (laneRec s e).map readTrecc
    | 0x0C04 => (txThread s e i).map fun v =>
        if v.2.2 = 256 then predByte v.2.1 + 2 ^ 8 * ofBool v.2.1.idemOff else (readX v.2.1 v.2.2).toNat
    | 0x0C05 => some (readCorst (getCore s i))
    | 0x0C06 => some (getDie s i).period
    | 0x0C07 =>
      let v := SMap.get (getCore s (i / 64)).dbg (i % 64) (0, false)
      some (v.1 + 2 ^ 14 * ofBool v.2)
    | 0x0C08 => some (ckCode s.dev.ck + 2 ^ 16 * s.dev.ckUnits)
    | 0x0C09 => some ((getDie s i).ckAddr + 2 ^ 44 * (getDie s i).ckPort)
    | 0x0D00 => if e.onSextant then some (getDie s e.die).sx.vec.toNat else none
    | 0x0D01 => if e.onSextant then some (getDie s e.die).sx.epc.toNat else none
    | 0x0D02 => if e.onSextant then some (readSxcause (getDie s e.die).sx) else none
    | _ => some ((getDie s i).ecCorr + 2 ^ 32 * (getDie s i).ecUncorr)

/-! ## Writes -/

/-- A write that a state allows. -/
def allow (b : Bool) (s : State) : Cmd := if b then .ok s else .bad

/-- A CMD field: 0 does nothing. -/
def cmdField (s : State) (cmd : Nat) (f : Nat → Cmd) : Cmd := if cmd = 0 then .ok s else f cmd

/-- A root or pool base in DRAM (R81). -/
def rootOf (v : Nat) : Nat := field v 13 35 * 2 ^ 13
def splOf (v : Nat) : Nat := field v 16 32 * 2 ^ 16

/-- Buckets hold no more than DEPTH. -/
def clampBuckets (s : State) (ctx depth : Nat) : State :=
  { s with dies := SMap.mapVal s.dies fun _ v =>
      { v with buckets := SMap.mapVal v.buckets fun c n => if c = ctx then min n depth else n } }

/-- CTXQOS (R86). R87 does not say what a new RATE or DEPTH does to the time already passed and to the tokens held: the model credits that time at the
new RATE, cuts what a bucket holds to the new DEPTH, and a bucket from which nothing was taken is full at the new DEPTH at once (DESIGN CHOICE,
notes/assumptions 67). -/
def writeCtxqos (s : State) (i v : Nat) : Cmd :=
  let depth := field v 24 16
  if !ctxHeld (getCtx s i).state || depth == 0 then .bad
  else .ok (moveOn (clampBuckets (modCtx s i fun c => { c with wclass := field v 0 2, lat := bit v 2, rate := field v 8 16, depth := depth }) i depth))

/-- The registers of a context. -/
def writeCtxCsr (s : State) (n i v : Nat) : Cmd :=
  let st := (getCtx s i).state
  match n with
  | 0x0100 => cmdField s (field v 4 4) (ctxCmd s i)
  | 0x0101 => allow (ctxIdle st && dramOk (rootOf v)) (modCtx s i fun c => { c with root := rootOf v })
  | 0x0102 => allow (ctxIdle st && dramOk (splOf v)) (modCtx s i fun c => { c with splBase := splOf v, splSize := field v 48 16 })
  | 0x0103 => allow (ctxHeld st || st == .faulted) (modCtx s i fun c => { c with key := BitVec.ofNat 32 v })
  | 0x0104 => writeCtxqos s i v
  | 0x0105 => allow (ctxHeld st) (modCtx s i fun c => { c with budget := field v 0 48 })
  | 0x0106 => writeCtxcnt s i v
  | 0x0107 => allow (ctxIdle st && field v 44 4 ≤ 11) (modCtx s i fun c => { c with hqBase := field v 0 44, hqSize := field v 44 4 })
  | 0x0110 => writeCtxhqp s i v
  | 0x0111 => allow (ctxIdle st) (modCtx s i fun c => { c with hport := field v 0 2 })
  | _ => writeCtxap s i (n - 0x0108) v

/-- The registers of an aperture; LEN is at least 1 (R84). -/
def writeApCsr (s : State) (n i v : Nat) : Cmd :=
  let a := getAp s i
  let free := a.state == .free
  match n with
  | 0x0200 => allow (free && 1 ≤ field v 40 24) (setAp s i { a with base := field v 0 40, len := field v 40 24 })
  | 0x0201 => allow (free && dramOk (rootOf v)) (setAp s i { a with root := rootOf v })
  | 0x0202 => allow (free && dramOk (splOf v)) (setAp s i { a with splBase := splOf v, splSize := field v 48 16 })
  | _ => cmdField s (field v 4 4) (apCmd s i)

/-- L2QUOTA (R88): each quota from 1 to 16. -/
def writeL2quota (s : State) (d v : Nat) : Cmd :=
  let q := (upTo 4).map fun w => field v (8 * w) 5
  allow (q.all fun n => 1 ≤ n && n ≤ 16) (modDie s d fun x => { x with quota := q })

/-- XFLTB (R235). -/
def writeXfltb (s : State) (d v : Nat) : Cmd :=
  cmdField s (field v 44 4) fun cmd => match cmd with | 1 => .ok (faultPop s d) | 2 => .ok (faultClearOvf s d) | _ => .bad

/-- STKST (R305): DEGL, DEGH, and REOPEN. -/
def writeStkst (s : State) (k v : Nat) : Cmd :=
  let s' := modStack s k fun x => { x with degl := bit v 12, degh := bit v 13 }
  cmdField s' (field v 16 4) fun cmd => if cmd = 1 then .of (stackReopen s' k) else .bad

/-- HWINA (R322): only while V = 0, and LEN from 1 to 0x100000. -/
def writeHwina (s : State) (w v : Nat) : Cmd :=
  let h := getHWin s w
  allow (!h.v && 1 ≤ field v 40 21 && field v 40 21 ≤ 0x100000) (setHWin s w { h with base := field v 0 40, len := field v 40 21 })

/-- TXREG (R348). -/
def writeTxreg (s : State) (e : Env) (i v : Nat) : Cmd :=
  match txThread s e i with
  | none => .bad
  | some (a, t, r) =>
    .ok (setThread s a (if r = 256 then { t with p := BitVec.ofNat 8 (field v 0 7), idemOff := bit v 8 } else writeX t r (BitVec.ofNat 32 v)))

/-- CORST (R361, R363). -/
def writeCorst (s : State) (r : Req) (c v : Nat) : Cmd :=
  cmdField s (field v 16 4) fun cmd => match cmd with | 1 => sbMerge s r c | 2 => sbDiscard s c | _ => .bad

/-- HBCFG (R358): 1 to 100. A deadline that a shorter period brings into the past has come. -/
def writeHbcfg (s : State) (d v : Nat) : Cmd :=
  let p := field v 0 7
  allow (1 ≤ p && p ≤ 100) (expireDue (modDie s d fun x => { x with period := p }) d)

/-- DBGST (R365). -/
def writeDbgst (s : State) (i v : Nat) : Cmd :=
  .ok (modCore s (i / 64) fun k => { k with dbg := SMap.set k.dbg (i % 64) (field v 0 14, bit v 14) })

/-- CKADR (R367): a multiple of 4 KiB. -/
def writeCkadr (s : State) (d v : Nat) : Cmd :=
  allow (field v 0 12 == 0) (modDie s d fun x => { x with ckAddr := field v 0 44, ckPort := field v 44 2 })

/-- A virtual address in bits [55:3]. -/
def vecOf (v : Nat) : DWord := BitVec.ofNat 64 (field v 3 53 * 8)

/-- A write to a control register. A register whose fields are all RO keeps its value. -/
def csrWrite (s : State) (e : Env) (n i v : Nat) : Cmd :=
  if n < 0x0200 then writeCtxCsr s n i v
  else if n < 0x0300 then writeApCsr s n i v
  else match n with
    | 0x0300 => writeL2quota s i v
    | 0x0400 => cmdField s (field v 4 4) fun cmd => queueCmd s (i / 4) (i % 4) cmd
    | 0x0500 => cmdField s (field v 8 4) fun cmd => .of (slotCmd s i cmd)
    | 0x0600 => cmdField s (field v 48 4) fun cmd => if cmd = 1 then .of (semFreeCmd s i) else .bad
    | 0x0701 => writeXfltb s i v
    | 0x0800 => cmdField s (field v 36 4) fun cmd => if cmd = 1 then .of (tileFreeCmd s i) else .bad
    | 0x0900 => writeStkst s i v
    | 0x0A00 => cmdField s (field v 12 4) fun cmd => .of (linkCmd s i cmd)
    | 0x0A01 => writeHwina s i v
    | 0x0A02 => writeHwinb s i v
    | 0x0B00 => cmdField s (field v 4 4) fun cmd => if cmd = 1 then .ok (frameFree s i) else .bad
    | 0x0C00 => .ok (writeTvec s i v)
    | 0x0C01 | 0x0C02 | 0x0C03 => allow (laneRec s e).isSome s
    | 0x0C04 => writeTxreg s e i v
    | 0x0C05 => writeCorst s (.agent e.who) i v
    | 0x0C06 => writeHbcfg s i v
    | 0x0C07 => writeDbgst s i v
    | 0x0C08 => cmdField s (field v 4 4) (ckCmd s)
    | 0x0C09 => writeCkadr s i v
    | 0x0D00 => allow e.onSextant (modDie s e.die fun x => { x with sx := { x.sx with vec := vecOf v } })
    | 0x0D01 => allow e.onSextant (modDie s e.die fun x => { x with sx := { x.sx with epc := vecOf v } })
    | 0x0D02 => allow e.onSextant s
    | 0x0D03 => cmdField s (field v 48 4) fun cmd => if cmd = 1 then .ok (eccClear s i) else .bad
    | _ => .ok s

/-! ## CSRR and CSRW (R90) -/

/-- What R22 checks of both: privilege, and the number. -/
def csrPolicy (o : OpR) : Policy := { right := .sup, ill := csrIll o }

/-- The fence before and after (R90): the earlier accesses of the thread are performed, then the rest, which ends with an acquire. -/
def csrFence (s : State) (e : Env) (t : Thread) (k : State → State) : State :=
  if hasPend s e.who then waitAt s e.who .pending else releaseThen s e t 5 k

/-- CSRR (R90). -/
def execCsrr (o : OpR) (s : State) : Host.Outcome State Fault Refusal :=
  issue s o.g (csrPolicy o) [.dp o.d, .sx o.a] fun e t =>
    let i := (readX t o.a.toNat).toNat
    if !csrIndexOk o i then trap s e.who 0x02
    else csrFence s e t fun s =>
      match csrRead s e (csrNumber o) i with
      | none => trap s e.who 0x02
      | some v => retire (acquire s e 5) e (writePair t o.d.toNat (BitVec.ofNat 64 v))

/-- CSRW (R90). -/
def execCsrw (o : OpR) (s : State) : Host.Outcome State Fault Refusal :=
  issue s o.g (csrPolicy o) [.sp o.d, .sx o.a] fun e t =>
    let i := (readX t o.a.toNat).toNat
    if !csrIndexOk o i then trap s e.who 0x02
    else csrFence s e t fun s =>
      match csrWrite s e (csrNumber o) i (readPair t o.d.toNat).toNat with
      | .bad => trap s e.who 0x02
      | .wait w s => takeStop s e.who (.wait w)
      | .ok s => retire (acquire s e 5) e t

end Sys2Proof.Machine
end

