-- ==== Sys2Proof/Machine/Daoft.lean ====
section
/-!
DEFINITION. Messages served (16_link R312, R320), and the other steps of the memory system: store-buffer drains, fills, block and
replicated updates (11_page R223, R228, R233, 12_ordering R239), and tokens (04_context R87).
-/

namespace Sys2Proof.Machine

/-! ## Held messages (R303) -/

/-- A served message is held no more, and leaves; what it stood before may go on. -/
def servedMsg (s : State) (id : Nat) : State :=
  let mine (r : Req) : Bool := r == .msg id
  let held := placed s mine
  let s := takeMsg (if held then leaveReq s mine else s) id
  if held then moveOn s else s

/-- A message that has to wait. -/
def waitMsg (s : State) (id : Nat) (p : Stop) : State :=
  match p with
  | .wait w => joinWait s (.msg id) w
  | .fault _ => s

/-- A pending request by its identity. -/
def findPend (s : State) (id : Nat) : Option Pend := s.pends.find? fun p => p.id == id

/-- A pending request is over; writes that waited for it may go on (R250). -/
def dropPend (s : State) (id : Nat) : State :=
  wakeWhere { s with pends := s.pends.filter fun p => p.id != id } fun _ w => w == .isolation

/-! ## Reads -/

/-- The value of a load at byte `va` of a line. -/
def lineValue (l : Line) (va n : Nat) : Nat := ofBytes (lineBytes l (va % 128) n)

/-- The L1 line a response carries. -/
def responseLine (p : Pend) (l : Line) : CLine :=
  { tag := p.tag, line := p.va / 128, gen := p.gen, frame := p.frame, attr := p.attr, data := l, nt := p.nt }

/-- What a request meets at its home that it traps on: poison, or stranded data, which a RED passes over (R362, R364). -/
def pendFault (s : State) (p : Pend) : Option Nat :=
  if p.red && p.bank.isSome then none
  else match dataFault s p.target with
  | some f => if f.code = 9 ∧ p.red then none else some f.code
  | none => none

/-- A request is answered with a trap. -/
def failMsg (s : State) (m : Msg) (p : Pend) (code : Nat) : State :=
  sendMsg (servedMsg s m.id) m.dst m.src true (.failResp p.id code)

/-- DAOFT_READ (R312): read message n1 is served at the home, and its response sent. A request whose thread is no more is dropped. -/
def execDaoftRead (s : State) : Host.Outcome State Fault Refusal :=
  match findMsg s s.arg.n1 with
  | none => .next s
  | some m =>
    match m.body with
    | .read id =>
      if !arrived s m then .next s
      else match findPend s id with
        | none => .next (servedMsg s m.id)
        | some p =>
          if p.drop then .next (dropPend (servedMsg s m.id) id)
          else match pendFault s p with
            | some code => .next (failMsg s m p code)
            | none =>
              match homeLine s (.msg m.id) p.ctx true p.nt p.target !p.stale with
              | .error x => .next (waitMsg s m.id x)
              | .ok (l, s) =>
                .next (sendMsg (servedMsg s m.id) m.dst m.src true
                  (.readResp id (lineValue l p.va (widthBytes p.width)) (some (responseLine p l))))
    | _ => .next s

/-- The oldest request of an agent that is not over. -/
def oldestPend (s : State) (a : Agent) : Option Pend := s.pends.find? fun p => p.who == a && !p.drop

/-- A request that meets stranded or poisoned data, or a port that fails, traps its thread at the instruction, precisely (R319, R362, R364): once every
older request of the thread has returned, and with nothing later done. -/
def settleFail (s : State) (a : Agent) : State :=
  match oldestPend s a with
  | none => s
  | some p =>
    match p.fail, getThread s a with
    | some code, some _ =>
      let mine (r : Req) : Bool := r == .agent a
      let s := if placed s mine then moveOn (leaveReq s mine) else s
      trap (dropPend (rewind s p) p.id) a code 0 p.va
    | _, _ => s

/-- The answer to a request brings a trap; one whose thread is no more, or is discarded, is over (R152). -/
def failPend (s : State) (p : Pend) (code : Nat) : State :=
  if p.drop || discarded s p.who then dropPend s p.id
  else settleFail { s with pends := s.pends.map fun q => if q.id = p.id then { q with fail := some code } else q } p.who

/-- The registers of a result written, which await it no more. -/
def Thread.take (t : Thread) (regs : List Nat) (f : Thread → Thread) : Thread := f { t with await := t.await.filter fun r => !regs.contains r }

/-- A result reaches its thread (R159), and the thread as it stood at every later request of its that is under way (R345, R352). -/
def deliverTo (s : State) (p : Pend) (f : Thread → Thread) : State :=
  let regs := widthRegs p.d.toNat p.width
  let s := { s with pends := s.pends.map fun q => if q.who == p.who && q.id > p.id then { q with save := q.save.take regs f } else q }
  wakePend (settleFail (modThread s p.who fun t => t.take regs f) p.who) p.who

/-- The line of a response enters the core's L1 with the store buffer's bytes over it, unless a fill of it was spoilt or its generation is past (R239, R244, R250,
R383). The response of an L1-served load that enters no line leaves none either, so that no later read there is older (R244, R255). -/
def fillFrom (s : State) (p : Pend) (c : CLine) : State :=
  let now := (viewOf s p.tag (p.va / 128 * 128)).gen
  let there := (findLine (getCore s p.core).l1 p.tag (p.va / 128) p.gen).isSome
  if p.install && now == p.gen && !there && p.core < 640 then
    installL1 s p.core { c with data := overlay c.data (sbLine s (some p.core) p.target) }
  else if p.l1 && p.core < 640 then dropL1Line s (some p.core) p.tag (p.va / 128) p.frame
  else s

/-- DAOFT_READ_RESPONSE (R312): read response n1 reaches its requester. -/
def execDaoftReadResponse (s : State) : Host.Outcome State Fault Refusal :=
  match findMsg s s.arg.n1 with
  | none => .next s
  | some m =>
    match m.body with
    | .readResp id v line =>
      if !arrived s m then .next s
      else match findPend s id with
        | none => .next (servedMsg s m.id)
        | some p =>
          let s := dropPend (servedMsg s m.id) id
          if p.drop then .next s
          else
            let s := match line with | some c => fillFrom s p c | none => s
            .next (wakeDrains
              (deliverTo s p fun t => writeWidth t p.d.toNat p.width v) p.core)
    | .failResp id code =>
      if !arrived s m then .next s
      else match findPend s id with
        | none => .next (servedMsg s m.id)
        | some p => .next (wakeDrains (failPend (servedMsg s m.id) p code) p.core)
    | _ => .next s

/-! ## Writes -/

/-- DAOFT_WRITE (R312): write message n1 is performed at the home, which ends its store-buffer entry (R239, R385), and acknowledged. -/
def execDaoftWrite (s : State) : Host.Outcome State Fault Refusal :=
  match findMsg s s.arg.n1 with
  | none => .next s
  | some m =>
    match m.body with
    | .write core e =>
      if !arrived s m then .next s
      else match performWrite s { e.write core with req := .msg m.id } with
        | .error x => .next (waitMsg s m.id x)
        | .ok s => .next (sendMsg (servedMsg (dropEntry s core e) m.id) m.dst m.src true (.writeAck core e.id))
    | _ => .next s

/-- DAOFT_WRITE_ACK (R312): write acknowledgement n1 reaches the writer, and what waited for the write goes on. -/
def execDaoftWriteAck (s : State) : Host.Outcome State Fault Refusal :=
  match findMsg s s.arg.n1 with
  | none => .next s
  | some m =>
    match m.body with
    | .writeAck core _ => if !arrived s m then .next s else .next (wakeDrains (servedMsg s m.id) core)
    | _ => .next s

/-! ## Atomics -/

/-- The atomic, or bank operation, of a pending request performed at its home: the value it answers. The issuing core's L1 line goes at the instant
of an atomic or a bank operation (R244, R246, R263). -/
def pendAtomic (s : State) (r : Req) (p : Pend) : Except Stop (Nat × State) :=
  let n := if p.wide then 8 else 4
  let left (s : State) : State := dropL1Line s (if p.core < 640 then some p.core else none) p.tag (p.va / 128) p.frame
  match p.bank with
  | some q => (bankStep s r p.who p.ctx p.target q p.launch).map fun x => (x.1, left x.2)
  | none =>
  match homeUpdate s r p.who p.ctx true p.target n (atomicBytes p.op n p.b.toNat p.c.toNat) (!p.stale) p.launch with
  | .error x => .error x
  | .ok (old, s) => .ok (ofBytes old, left s)

/-- DAOFT_ATOMIC (R312, R320): atomic message n1 is performed at the home. -/
def execDaoftAtomic (s : State) : Host.Outcome State Fault Refusal :=
  match findMsg s s.arg.n1 with
  | none => .next s
  | some m =>
    match m.body with
    | .atomic id =>
      if !arrived s m then .next s
      else match findPend s id with
        | none => .next (servedMsg s m.id)
        | some p =>
          if p.drop then .next (dropPend (servedMsg s m.id) id)
          else match pendFault s p with
            | some code => .next (failMsg s m p code)
            | none =>
              match pendAtomic s (.msg m.id) p with
              | .error x => .next (waitMsg s m.id x)
              | .ok (v, s) => .next (sendMsg (servedMsg s m.id) m.dst m.src true (.atomicResp id v))
    | _ => .next s

/-- DAOFT_ATOMIC_RESPONSE (R312): atomic response n1 reaches its requester. -/
def execDaoftAtomicResponse (s : State) : Host.Outcome State Fault Refusal :=
  match findMsg s s.arg.n1 with
  | none => .next s
  | some m =>
    match m.body with
    | .atomicResp id v =>
      if !arrived s m then .next s
      else match findPend s id with
        | none => .next (servedMsg s m.id)
        | some p =>
          let s := dropPend (servedMsg s m.id) id
          if p.drop then .next s
          else
            .next (wakeDrains
              (deliverTo s p fun t => writeWidth t p.d.toNat p.width v) p.core)
    | .failResp id code =>
      if !arrived s m then .next s
      else match findPend s id with
        | none => .next (servedMsg s m.id)
        | some p => .next (wakeDrains (failPend (servedMsg s m.id) p code) p.core)
    | _ => .next s

/-! ## Store-buffer entries -/

/-- May an entry of a core's store buffer go out: it is ready, and where it goes to a port, there is a way there and the port is up (R14, R319)? -/
def entryGoes (s : State) (c : Nat) (x : SbEntry) : Bool :=
  entryReady s c x && (paRegion x.frame != 3 || (portStop s x.home (portOf s x.ctx x.frame) 0).isNone)

/-- An entry of a core's store buffer goes out as a write message, or to its port; it leaves the buffer when the answer comes. -/
def sendEntry (s : State) (c : Nat) (x : SbEntry) : State :=
  if paRegion x.frame = 3 then sendEntryPort s c x
  else
    sendMsg (modCore s c fun k => { k with sb := k.sb.map fun y => if y.id = x.id then { y with sent := true } else y }) (dieOf c) x.home false
      (.write c x)

/-- The store buffer of a core after an attempt at an entry: what waits for it, or behind it, may go on. -/
def afterDrain (s s' : State) (c : Nat) (x : SbEntry) : State :=
  let held := waitsAt s fun r => r == .entry c x.id
  wakeDrains (if held && !(waitsAt s' fun r => r == .entry c x.id) then moveOn s' else s') c

/-- STORE_DRAIN (R239) of entry n2 of core n1's store buffer: performed at its home, or (flag) sent there. -/
def execStoreDrain (s : State) : Host.Outcome State Fault Refusal :=
  let c := s.arg.n1
  match (getCore s c).sb[s.arg.n2]? with
  | none => .next (wakeDrains s c)
  | some x =>
    if s.arg.flag && entryGoes s c x then .next (sendEntry (leaveReq s fun r => r == .entry c x.id) c x)
    else .next (afterDrain s (drainEntry s c x) c x)

/-- BLOCK_UPDATE (R233) for entry n2 of core n1's store buffer, a write to a converting page: read, requantised and written as one step. -/
def execBlockUpdate (s : State) : Host.Outcome State Fault Refusal :=
  let c := s.arg.n1
  match (getCore s c).sb[s.arg.n2]? with
  | none => .next s
  | some x => if x.attr.df = 0 then .next s else .next (afterDrain s (drainEntry s c x) c x)

/-! ## Fills and copies -/

/-- L2_FILL (R223): on die n1, the line of tag n2 at address v1 that a read under way asks for is filled, on behalf of its message. -/
def execL2Fill (s : State) : Host.Outcome State Fault Refusal :=
  let va := s.arg.v1.toNat
  match s.pends.find? fun p =>
      !p.drop && !p.stale && !p.host && p.home == s.arg.n1 && p.tag == s.arg.n2 && p.va / 128 == va / 128 with
  | none => .next s
  | some p =>
    match s.msgs.find? fun m => m.body == .read p.id with
    | none => .next s
    | some m =>
      if (pendFault s p).isSome then .next s
      else match homeLine s (.msg m.id) p.ctx true p.nt p.target with
        | .ok (_, s) => .next s
        | .error _ => .next s

/-- REPLICATED_UPDATE (R228) of replicated write n1 on die n2: that die's copy of its frame is updated; with the last, waiting releases go on. -/
def execReplicatedUpdate (s : State) : Host.Outcome State Fault Refusal :=
  let d := s.arg.n2
  match s.repls[s.arg.n1]? with
  | none => .next s
  | some r =>
    let earlier := (s.repls.take s.arg.n1).any fun x => x.tag == r.tag && x.line == r.line && x.dies.contains d
    if !r.dies.contains d || earlier then .next s
    else
      let s := modDie s d fun v => { v with l2 := v.l2.map fun c =>
        if c.tag == r.tag && c.line == r.line && c.frame == r.frame then { c with data := mergeLine c.data r.data r.mask } else c }
      let left := r.dies.filter (· != d)
      let s := { s with repls :=
        (s.repls.map fun x => if x.id = r.id then { x with dies := left } else x).filter fun x => !x.dies.isEmpty }
      .next (wakeWhere s fun a w => left.isEmpty && match w with | .drain _ => a == r.who | .shutter n _ => n ≥ 1024 | _ => false)

/-! ## Tokens (R87) -/

/-- TOKEN_ARRIVAL (R87) on die n1 for context n2: RATE tokens for each microsecond since they were last counted, up to DEPTH; requests that wait
look again. -/
def execTokenArrival (s : State) : Host.Outcome State Fault Refusal :=
  let d := s.arg.n1
  let c := getCtx s s.arg.n2
  let us := (s.dev.tick - SMap.get (getDie s d).lastToken s.arg.n2 0) / 1000
  if d > 15 ∨ s.arg.n2 > 4095 ∨ us = 0 ∨ c.rate = 0 then .next s
  else
    let s := accrue s d s.arg.n2
    .next (if (getDie s d).tokq.isEmpty then s else moveOn s)

end Sys2Proof.Machine
end

