-- ==== Sys2Proof/Machine/Window.lean ====
section
/-!
DEFINITION. Accesses of the host and of peers to host windows (16_link R320 to R324), the completions the device receives for its own
accesses to host and peer space (R318, R319), and the effect of a doorbell (19_bringup R376).
-/

namespace Sys2Proof.Machine

/-! ## Windows (R322, R324) -/

/-- The window and the offset in it of an access at a port: BAR2 of a host port, or the windows a peer reaches. -/
def winOf (port off : Nat) : Nat × Nat := if port < 4 then (field off 36 6, field off 0 36) else (field off 36 4, field off 0 36)

/-- Does a window expose a port? -/
def exposes (h : HWin) (port : Nat) : Bool := if port < 4 then h.hmask.getLsbD port else h.pmask.getLsbD (port - 4)

/-- The window that serves an access, with the address; none where it completes with Unsupported Request. -/
def winServe (s : State) (port off n : Nat) : Option (HWin × Nat) :=
  let (w, f) := winOf port off
  let h := getHWin s w
  if h.v && exposes h port && f < 65536 * h.len && f + n ≤ 65536 * h.len then some (h, h.base * 65536 + f) else none

/-- The party that a port is, in what its writes leave behind (R241, R323): no agent of the device has its name. -/
def portParty (port : Nat) : Agent := .sextant (16 + port)

/-- The access of a host or peer: of no context, as a user, under the window's tag and its W bit. -/
def hostAcc (s : State) (q : HostReq) (h : HWin) (va n : Nat) : Acc :=
  { die := portDie q.port, core := none, ctx := 4096, sup := false, eng := true, va := va, n := n, space := some (apSpace s h.apn h.w false),
    req := .host q.id, view := some q.view }

/-- A completion goes to the port (R322), as a flit to a peer (R324). -/
def complete (s : State) (port id status : Nat) (data : List Byte) : State :=
  sendPort { s with outs := s.outs ++ [{ port := port, id := id, status := status, data := data }] } port id

/-- A host access faults: a record where the fault makes one, and ERRS rises. -/
def hostFault (s : State) (port : Nat) (f : AFault) : State :=
  raiseErrs (postFault s f) (portLink port)

/-- The end of an access that was served, or that completes with a status; one that waits has its reason. -/
def hostEnd (s : State) (port id : Nat) (r : Except Stop State) : Except Stop State :=
  match r with
  | .error (.fault f) => .ok (complete (hostFault s port f) port id 2 [])
  | r => r

/-- A read through a window. -/
def hostRead (s : State) (q : HostReq) (off n id : Nat) : Except Stop State :=
  match winServe s q.port off n with
  | none => .ok (complete s q.port id 1 [])
  | some (h, va) =>
    hostEnd s q.port id ((readRange s (hostAcc s q h va n) { charge := false }).map fun r => complete r.2 q.port id 0 r.1)

/-- The pieces of a write performed at their homes. -/
def hostPieces (s : State) (q : HostReq) (l : List (Target × Nat)) (b : List Byte) : Except Stop State :=
  match l with
  | [] => .ok s
  | (t, n) :: r =>
    let w : HomeWrite :=
      { req := .host q.id, who := portParty q.port, ctx := 4096, tag := t.tag, line := t.va / 128, gen := t.gen, home := t.home, frame := t.frame,
        attr := t.attr, mask := maskOf (t.va % 128) n, data := placeBytes (t.va % 128) (b.take n) }
    match performWrite s w false with
    | .ok s => hostPieces s q r (b.drop n)
    | .error e => .error e

/-- A peer's write is acknowledged, as OP 3 (R312), with the status of its end; a host's is posted and has no completion. -/
def ackPeer (s : State) (port id status : Nat) : State := if port < 4 then s else complete s port id status []

/-- A write through a window: discarded whole where any part of it faults. -/
def hostWrite (s : State) (q : HostReq) (off : Nat) (b : List Byte) (id : Nat) : Except Stop State :=
  match winServe s q.port off b.length with
  | none => .ok (ackPeer s q.port id 1)
  | some (h, va) =>
    let a : Acc := { hostAcc s q h va b.length with kind := 1, write := true }
    match checkPieces s a (piecesOf va b.length) [] with
    | .error (.fault f) => .ok (ackPeer (hostFault s q.port f) q.port id 2)
    | .error e => .error e
    | .ok (ts, s) => (hostPieces s q ts b).map fun s => ackPeer s q.port id 0

/-- Is an atomic of a host one that PCIe carries (R320)? A peer's is any of R262. -/
def portAtomic (port : Nat) (op : AtomOp) : Bool := port ≥ 4 || portCarries false op

/-- What stops an atomic of the host or a peer after its checks: an operation that no host port carries, on a host frame (R320), or the line's data
(R362, R364). -/
def hostAtomFault (s : State) (op : AtomOp) (t : Target) : Option AFault :=
  if paRegion t.frame == 3 && field t.frame 44 2 == 0 && !portCarries false op then some { code := 5, va := t.va } else dataFault s t

/-- An atomic through a window, performed at the location's home. -/
def hostAtomicAt (s : State) (q : HostReq) (off : Nat) (op : AtomOp) (wide : Bool) (b c : DWord) (id : Nat) : Except Stop State :=
  let n := if wide then 8 else 4
  match winServe s q.port off n with
  | none => .ok (complete s q.port id 1 [])
  | some (h, va) =>
    if !portAtomic q.port op || va % n ≠ 0 then .ok (complete s q.port id 1 [])
    else
      let a : Acc := { hostAcc s q h va n with kind := 3, write := true, plain := true, l1 := false }
      hostEnd s q.port id (match check s a with
        | .error e => .error e
        | .ok (t, s) =>
          match hostAtomFault s op t with
          | some f => .error (.fault f)
          | none =>
            (homeUpdate s a.req (portParty q.port) 4096 false t n
              (atomicBytes op n (b.toNat % 2 ^ (8 * n)) (c.toNat % 2 ^ (8 * n)))).map fun r => complete r.2 q.port id 0 r.1)

/-- May a port carry traffic? -/
def portOpen (s : State) (port : Nat) : Bool := linkUp s (portLink port)

/-! ## Doorbells (R376) -/

/-- A doorbell write: TAIL is replaced whole, or the write is discarded. -/
def doorbell (s : State) (port ctx : Nat) (v : Word) : State :=
  let c := getCtx s ctx
  if s.dev.state != .running || c.state == .free || c.state == .scrubbing then raiseErrs s (portLink port)
  else modCtx s ctx fun c => { c with tail := v }

/-! ## Completions for the device (R318, R319) -/

/-- The port and address of a pending request to host or peer space. -/
def pendPort (s : State) (p : Pend) : Nat := portOf s p.ctx p.frame
def pendAddr (p : Pend) : Nat := portAddr p.frame + p.va % 65536

/-- Does the thread of a request still wait for it? -/
def portWaits (s : State) (p : Pend) : Bool :=
  match getThread s p.who with
  | some t => t.st == .waiting (.port p.id)
  | none => false

/-- A load's completion: its bytes, its line into L1, and the thread goes on. -/
def loadCompletes (s : State) (p : Pend) (b : List Byte) : State :=
  let s := hostPut s (pendPort s p) (pendAddr p) b
  let l := lineOf (hostBytes s (pendPort s p) (pendAddr p / 128 * 128) 128)
  if p.drop || !portWaits s p then s
  else finishWait (fillFrom s p (responseLine p l)) p.who fun t => writeWidth t p.d.toNat p.width (ofBytes b)

/-- An atomic's completion: what the operation leaves at the port, whether its thread still stands or not (R320), the old value, and the acquire. -/
def atomCompletes (s : State) (p : Pend) (old : List Byte) : State :=
  let n := if p.wide then 8 else 4
  let now := (atomicBytes p.op n p.b.toNat p.c.toNat old).getD old
  let s := dropL1Line (hostPut s (pendPort s p) (pendAddr p) now) (if p.core < 640 then some p.core else none) p.tag (p.va / 128) p.frame
  if p.drop || !portWaits s p then s
  else
    finishWait (if p.acq = 0 then s else acquire s (envOf s p.who) p.acq) p.who fun t =>
      if p.red then t else writeWidth t p.d.toNat p.width (ofBytes old)

/-- A request completes, or fails: a read or atomic that fails traps 0x08 (R319). -/
def pendCompletes (s : State) (p : Pend) (ok : Bool) (data : List Byte) : State :=
  let n := widthBytes p.width
  let b := if data.length = n then data else hostBytes s (pendPort s p) (pendAddr p) n
  wakeCaptures
    (if !ok then failPend (raiseErrs s (portLink (pendPort s p))) p 0x08
     else if p.atomic then atomCompletes (dropPend s p.id) p b else loadCompletes (dropPend s p.id) p b)

/-- A store-buffer entry under way at a port is acknowledged: performed, or discarded with ERRS raised (R318, R319). -/
def entryCompletes (s : State) (c : Nat) (x : SbEntry) (ok : Bool) : State :=
  wakeDrains (dropEntry (if ok then hostMasked s (x.write c) else raiseErrs s (portLink (portOf s x.ctx x.frame))) c x) c

/-- What was asked of a port is answered, or fails; who asked looks again (R318, R319). -/
def askCompletes (s : State) (q : PortAsk) (ok : Bool) (data : List Byte) : State :=
  let s := if ok then (if !q.write && data.length = 128 then hostPut s q.port q.addr data else s) else raiseErrs s (portLink q.port)
  let s := { s with asks := s.asks.map fun x => if x.id = q.id then { x with done := true, ok := ok } else x }
  match q.req with
  | .agent a => wakeWhere s fun b w => b == a && w == .ask q.port q.addr q.write
  | _ => wakeCaptures s

/-- The entry of an identity that is under way at a port, with its core. -/
def findSent (s : State) (id : Nat) : Option (Nat × SbEntry) :=
  (s.cores.filterMap fun c => (c.2.sb.find? fun x => x.id == id && x.sent && paRegion x.frame == 3).map fun x => (c.1, x)).head?

/-- The request of an identity to host or peer space that waits for its completion. -/
def findHost (s : State) (id : Nat) : Option Pend := s.pends.find? fun p => p.id == id && p.host && p.fail.isNone

/-- What was asked of a port under an identity and is not answered. -/
def findAsk (s : State) (id : Nat) : Option PortAsk := s.asks.find? fun q => q.id == id && !q.done

/-- What a completion, good or failed, does. -/
def completionFor (s : State) (id : Nat) (ok : Bool) (data : List Byte) : State :=
  match findHost s id with
  | some p => pendCompletes s p ok data
  | none =>
    match findSent s id with
    | some (c, x) => entryCompletes s c x ok
    | none =>
      match findAsk s id with
      | some q => askCompletes s q ok data
      | none => s

/-- The port at which a completion for an identity arrives. -/
def answerPort (s : State) (id : Nat) : Option Nat :=
  match findHost s id with
  | some p => some (pendPort s p)
  | none =>
    match findSent s id with
    | some (_, x) => some (portOf s x.ctx x.frame)
    | none => (findAsk s id).map (·.port)

/-- Has a request of the device left at a port and reached the other side: at a peer port its flit is no longer kept (R315, R324)? -/
def requestOut (s : State) (port id : Nat) : Bool :=
  let v := (getLink s (portLink port)).fwd
  port < 4 || !(v.queue.contains id || v.replay.any fun f => f.msg == id)

/-- Can a message from outside be taken at a port: traffic crosses it (R316), and at a peer port a flit has brought it (R324)? -/
def portBrings (s : State) (port : Nat) : Bool := portOpen s port && (port < 4 || (getLink s (portLink port)).rx != 0)

/-- The flit that brought a message to a peer port is used up. -/
def takeRx (s : State) (port : Nat) : State := if port < 4 then s else modLink s (portLink port) fun k => { k with rx := k.rx - 1 }

/-- HOST_COMPLETION (R318, R319) for request n1: successful (flag) with its bytes, or failed. One from peer port n2 that nothing waits for any more is
dropped with its flit. -/
def execHostCompletion (s : State) : Host.Outcome State Fault Refusal :=
  match answerPort s s.arg.n1 with
  | none => .next (if 4 ≤ s.arg.n2 ∧ s.arg.n2 ≤ 9 ∧ portBrings s s.arg.n2 then takeRx s s.arg.n2 else s)
  | some port =>
    if portBrings s port && requestOut s port s.arg.n1 then .next (completionFor (takeRx s port) s.arg.n1 s.arg.flag s.arg.bytes) else .next s

/-- COMPLETION_TIMEOUT (R319) of request n1. -/
def execCompletionTimeout (s : State) : Host.Outcome State Fault Refusal := .next (completionFor s s.arg.n1 false [])

end Sys2Proof.Machine
end

