-- ==== Sys2Proof/Machine/Bringup.lean ====
section
/-!
DEFINITION. Reset, the firmware image, BAR0, attestation, clamps and SRAM errors (19_bringup R368 to R381, 18_faults R364).
-/

namespace Sys2Proof.Machine

/-! ## Cold reset (R369) -/

/-- The controllers of operand `nums` failed training: 2 × stack for the lower die's, one more for the upper's. -/
def markDegraded (s : State) (l : List Nat) : State :=
  l.foldl (fun s n =>
    modStack s (n / 2 % 32) fun k => if n % 2 = 0 then { k with degl := true } else { k with degh := true }) s

/-- COLD_RESET (R369): everything at its reset value. What stands outside the device, and the model's own counters, stay. -/
def execColdReset (s : State) : Host.Outcome State Fault Refusal :=
  .next (markDegraded
    { State.reset with host := s.host, outs := s.outs, agenda := s.agenda, arg := s.arg, turn := s.turn, free := s.free, uid := s.uid } s.arg.nums)

/-! ## The device registers of BAR0 (R368, R375) -/

def devCode (d : DevState) : Nat :=
  match d with
  | .reset => 0 | .rom => 1 | .loading => 2 | .verify => 3 | .running => 4 | .failed => 5

/-- DEVST (R368). -/
def devst (d : Dev) : Nat := devCode d.state + 2 ^ 4 * d.fcode + 2 ^ 16 * (if d.state = .running then d.fwver else 0) + 2 ^ 32 * d.loads

/-- MEAS: zero until an image has started. -/
def measBytes (d : Dev) : List Byte := padTo 64 (d.meas.take 64 ++ if d.meas.isEmpty then List.replicate 64 0 else [])

def keyHashBytes : List Byte := (upTo 64).map Config.keyHash
def identityKeyBytes : List Byte := (upTo 64).map Config.identityKey

/-- A byte of a register, of `n` bytes from `base`. -/
def regByte (base n off : Nat) (l : List Byte) : Option Byte := if base ≤ off ∧ off < base + n then some (nthD l (off - base) 0) else none

/-- A byte of BAR0 as it reads; offsets not listed read 0. -/
def bar0Byte (s : State) (off : Nat) : Byte :=
  let d := s.dev
  let w := getHWin s ((off - 0x2000) / 16)
  ((regByte 0 8 off (toBytes (devst d) 8)).orElse fun _ =>
   (regByte 0x8 8 off (toBytes d.fwadr.toNat 8)).orElse fun _ =>
   (regByte 0x10 4 off (toBytes d.fwlen 4)).orElse fun _ =>
   (regByte 0x400 64 off (measBytes d)).orElse fun _ =>
   (regByte 0x440 64 off keyHashBytes).orElse fun _ =>
   (regByte 0x480 64 off identityKeyBytes).orElse fun _ =>
   (regByte 0x500 32 off d.nonce).orElse fun _ =>
   (regByte 0x520 4 off (toBytes (ofBool d.qbusy) 4)).orElse fun _ =>
   (regByte 0x1000 256 off d.mbreq).orElse fun _ =>
   (regByte 0x1200 256 off d.mbrsp).orElse fun _ =>
   (regByte 0x1300 4 off (toBytes (ofBool d.mbbusy) 4)).orElse fun _ =>
   (regByte 0x2000 0x400 off (List.replicate (off - 0x2000) 0 ++
      [nthD (toBytes (readHwina w) 8 ++ toBytes (readHwinb w) 8) ((off - 0x2000) % 16) 0])).orElse fun _ =>
   regByte 0x8000 0x8000 off d.qbuf).getD 0

/-- Bytes replaced in a register of `n` bytes. -/
def putByte (l : List Byte) (n i : Nat) (v : Byte) : List Byte := (upTo n).map fun k => if k = i then v else nthD l k 0

/-- A byte written to BAR0: FWADR, FWLEN, QNONCE while no quote is under way, MBREQ while BUSY is 0. Other offsets ignore it. -/
def bar0Put (s : State) (off : Nat) (v : Byte) : State :=
  let d := s.dev
  if 8 ≤ off ∧ off < 0x10 then
    { s with dev := { d with fwadr := BitVec.ofNat 64 (ofBytes (putByte (toBytes d.fwadr.toNat 8) 8 (off - 8) v)) } }
  else if 0x10 ≤ off ∧ off < 0x14 then { s with dev := { d with fwlen := ofBytes (putByte (toBytes d.fwlen 4) 4 (off - 0x10) v) } }
  else if 0x500 ≤ off ∧ off < 0x520 ∧ ¬ d.qbusy then { s with dev := { d with nonce := putByte d.nonce 32 (off - 0x500) v } }
  else if 0x1000 ≤ off ∧ off < 0x1100 ∧ ¬ d.mbbusy then { s with dev := { d with mbreq := putByte d.mbreq 256 (off - 0x1000) v } }
  else s

/-- Bytes written to BAR0. -/
def bar0Write (s : State) (off : Nat) (l : List Byte) : State :=
  match l with
  | [] => s
  | v :: r => bar0Write (bar0Put s off v) (off + 1) r

/-- A read of BAR0 completes at its port. -/
def bar0Read (s : State) (port off n id : Nat) : State := complete s port id 0 ((rangeFrom off n).map (bar0Byte s))

/-- May firmware answer in the mailbox: there is a request, and die 0's sextant core runs it (R377)? -/
def mayReply (s : State) : Bool := s.dev.mbbusy && s.dev.state == .running && (getDie s 0).sx.running && !(getDie s 0).sx.rom

/-- The firmware's answer in the mailbox (R377): MBRSP, then BUSY clear, then vector 0 raised on every host port. -/
def mailboxReply (s : State) (l : List Byte) : State :=
  if !mayReply s then s
  else { s with dev := { s.dev with mbrsp := (padTo 256 l).take 256, mbbusy := false, msix := s.dev.msix + 1 } }

/-! ## Loading an image (R370) -/

/-- Is any hand-over under way? -/
def anyHandover (s : State) : Bool := s.stk.any fun k => handingOver k.2

/-- A load begins through a port: STATE is LOADING, with the image's address and length as they stand. -/
def beginLoad (s : State) (port : Nat) : State :=
  { s with dev := { s.dev with state := .loading, fcode := 0, fwver := 0, fwport := port, ldAdr := s.dev.fwadr.toNat, ldLen := s.dev.fwlen } }

/-- A store of a stopped core is performed; where it cannot be, a plain one is posted to its frame, and any other stays in the buffer until it can, as
does one with no route to its home (R314, R374, R387). -/
def stopStore (s : State) (c : Nat) (x : SbEntry) : State :=
  if !reaches s (dieOf c) x.home then s
  else match performWrite s (x.write c) false with
  | .ok s => dropEntry s c x
  | .error _ =>
    if x.attr.df = 0 ∧ paRegion x.frame = 0 ∧ vaPlc (128 * x.line) ≠ 33 then
      dropEntry (dramWrite s x.home x.ctx x.tag x.line (x.frame + x.line % 512 * 128) x.mask x.data) c x
    else s

/-- What waits at controllers and ports for cores that stop is withdrawn, and the write messages of their stores, which are then performed from their
buffers. -/
def stopRequests (s : State) : State :=
  let writes (id : Nat) : Bool := s.msgs.any fun m => m.id == id && match m.body with | .write _ _ => true | _ => false
  let s := leaveReq s fun r => match r with | .agent _ | .device _ => true | .msg id => writes id | _ => false
  { s with
    msgs := s.msgs.filter fun m => match m.body with | .write _ _ => false | _ => true
    cores := SMap.mapVal s.cores fun _ k => { k with sb := k.sb.map fun x => { x with sent := false } } }

/-- Steps 2 and 3 of R374: every core and its engines stop, HINGEs that wait are withdrawn, frozen entries are discarded, other stores are performed,
and every dirty byte goes to its frame. -/
def stopDevice (s : State) : State :=
  let s := stopRequests s
  let s := { s with
    bundle := [], todo := [], cur := none
    cores := SMap.mapVal s.cores fun _ k => { k with running := false, frozen := [], queues := [] }
    stk := SMap.mapVal s.stk fun _ k => { k with issuer := none, queue := [] }
    dies := SMap.mapVal s.dies fun _ v => { v with sx := { v.sx with running := false } } }
  let s := s.cores.foldl (fun s c => c.2.sb.foldl (fun s x => stopStore s c.1 x) s) s
  cleanL2 s fun _ => true

/-- Step 4 of R374: the compute side at its reset values, and the boot ROM runs on die 0. Memory, host, tick, clocks, links, stacks and routes stay,
with the messages of the links themselves and the stores not yet performed; dirty bytes that hosts and peers have written since step 3 go to their
frames first. -/
def resetCompute (s : State) : State :=
  let s := cleanL2 s fun _ => true
  let kept (m : Msg) : Bool := match m.body with | .marker _ _ => true | .control _ _ _ => true | _ => false
  moveOn { State.reset with
    dev := { s.dev with ck := .idle, ckLoad := false, ckUnits := 0, resetDue := false }
    stk := SMap.mapVal s.stk fun _ k => { k with held := [], issuer := none, queue := [] }
    links := s.links
    cores := s.cores.filterMap fun c => if c.2.sb.isEmpty then none else some (c.1, { sb := c.2.sb })
    dies := SMap.mapVal (SMap.set s.dies 0 (getDie s 0)) fun d v =>
      { sx := if d = 0 then { running := true, rom := true, base := v.cycles } else {}
        routes := v.routes, clock := v.clock, hot := v.hot, hotDown := v.hotDown, lastClamp := v.lastClamp, cycles := v.cycles, frac := v.frac }
    mem := s.mem, poison := s.poison, host := s.host, msgs := s.msgs.filter kept, hostq := s.hostq, outs := s.outs, agenda := s.agenda,
    arg := s.arg, turn := s.turn, free := s.free, uid := s.uid }

/-- A reload (R374): MEAS is zero, everything stops, and the compute side is reset, at once or when the hand-overs under way have ended. -/
def reload (s : State) (port : Nat) : State :=
  let s := stopDevice (beginLoad { s with dev := { s.dev with meas := [] } } port)
  if anyHandover s then { s with dev := { s.dev with resetDue := true } } else resetCompute s

/-- What a write of FWCMD through a port does (R370, R374). -/
def fwcmd (s : State) (port v : Nat) : State :=
  if v % 16 ≠ 1 then s
  else match s.dev.state with
    | .rom | .failed => beginLoad s port
    | .running => reload s port
    | _ => s

/-! ## Checking and starting an image (R371 to R373) -/

/-- The firmware slot: 16 MiB at the top of stack 0. -/
def slotPa : Nat := 0xFF0000000
def slotSize : Nat := 2 ^ 24

/-- The load or the image failed (R372): FAILED with a code, MEAS zero. -/
def failLoad (s : State) (code : Nat) : State := { s with dev := { s.dev with state := .failed, fcode := code, meas := [] } }

/-- The image's bytes go to the firmware slot. -/
def writeSlot (s : State) (b : List Byte) : State :=
  putWhole (dropLines s fun c => slotPa ≤ c.pa && c.pa < slotPa + slotSize) slotPa (b.take slotSize)

/-- Step 2 of R372, on the image. -/
def headerOk (len : Nat) (b : List Byte) : Bool :=
  let v (o n : Nat) : Nat := ofBytes (sliceBytes b o n)
  v 0 4 == 0x31574641 && v 4 4 == len && 30048 ≤ len && len ≤ slotSize && v 8 8 % 8 == 0 && v 8 8 < len && v 34 2 == 0 &&
    v 36 60 == 0 && v 160 96 == 0

/-- Step 3: the hash of the signer's key is the one in fuses. -/
def keyOk (b : List Byte) : Bool := (upTo 64).all fun i => Config.shake256 (sliceBytes b 96 64) i == Config.keyHash i

/-- Step 4: the signature, which fills the last 29,792 bytes. -/
def signatureOk (len : Nat) (b : List Byte) : Bool :=
  Config.slhVerify (sliceBytes b 96 64) (b.take (len - 29792)) (sliceBytes b (len - 29792) 29792)

/-- A compute core leaves reset, where it has not, and its steward starts (R15, R372). -/
def startCore (s : State) (c : Nat) : State :=
  startSteward (modCore s c fun k => if k.running then k else { k with running := true, base := dieCycle s (dieOf c) }) c

/-- A sextant core starts at an entry. -/
def startSextant (s : State) (entry d : Nat) : State :=
  modDie s d fun v =>
    { v with sx := { v.sx with running := true, rom := false, first := true, inExc := false, base := if v.sx.running then v.sx.base else v.cycles,
                               th := { pc := BitVec.ofNat 64 entry } } }

/-- The image has passed every check: MEAS, context 0, the sextant cores, the stewards, and RUNNING (R372). -/
def startImage (s : State) (b : List Byte) : State :=
  let v (o n : Nat) : Nat := ofBytes (sliceBytes b o n)
  let s := { s with dev := { s.dev with meas := (upTo 64).map (Config.shake256 b), steward := v 16 8 } }
  let s := modCtx s 0 fun c => { c with state := .ready, root := field (v 24 8) 13 35 * 2 ^ 13 }
  let s := (upTo 16).foldl (fun s d => startSextant s (v 8 8) d) s
  let s := (upTo 640).foldl startCore s
  { s with dev := { s.dev with state := .running, fcode := 0, fwver := v 32 2, loads := sat16 (s.dev.loads + 1) } }

/-- The checks of R372, steps 2 to 4, in order. -/
def verifyImage (s : State) : State :=
  let len := s.dev.ldLen
  let b := memBytes s slotPa (min len slotSize)
  if !headerOk len b then failLoad s 2
  else if !keyOk b then failLoad s 3
  else if !signatureOk len b then failLoad s 4
  else startImage s b

/-- IMAGE_FETCHED (R370, R372): in LOADING the image has arrived (flag) in the firmware slot, or a completion failed, which its port counts (R317); in
VERIFY it is checked and started. A reload's step 4 comes first, and the reads of the boot ROM on die 0 need a route to their port (R14, R314). -/
def execImageFetched (s : State) : Host.Outcome State Fault Refusal :=
  match s.dev.state with
  | .loading =>
    if s.dev.resetDue && anyHandover s then .next s
    else
      let s := if s.dev.resetDue then resetCompute s else s
      if !s.arg.flag || !linkUp s (portLink s.dev.fwport) then .next (failLoad (raiseErrs s (portLink s.dev.fwport)) 1)
      else if !admits s 0 0 || !reaches s 0 (portDie s.dev.fwport) then .next s
      else
        let s := writeSlot s (hostBytes s s.dev.fwport s.dev.ldAdr (min s.dev.ldLen slotSize))
        .next { s with dev := { s.dev with state := .verify } }
  | .verify => .next (verifyImage s)
  | _ => .next s

/-! ## Mailbox and attestation (R377, R378) -/

/-- What a write of MBDB through a port does (R377): BUSY, and a mailbox event for die 0's sextant core; discarded while BUSY, which the port counts
(R317). -/
def mbdb (s : State) (port : Nat) : State :=
  if s.dev.mbbusy then raiseErrs s (portLink port) else raiseEvent { s with dev := { s.dev with mbbusy := true } } 0 2 0 0

/-- What a write of QCMD does (R378): 1 starts a quote, in every STATE but RESET, where none is under way. -/
def qcmd (s : State) (v : Nat) : State :=
  if v ≠ 1 ∨ s.dev.qbusy ∨ s.dev.state = .reset then s else { s with dev := { s.dev with qbusy := true } }

/-- Bytes 0 to 191 of a quote, sampled at one tick. -/
def quoteBody (s : State) : List Byte :=
  toBytes 0x544F5551 4 ++ toBytes 1 4 ++ (upTo 32).map (fun i => nthD s.dev.nonce i 0) ++ measBytes s.dev ++ keyHashBytes ++
    toBytes Config.serial.toNat 8 ++ toBytes s.dev.tick 8 ++ toBytes (devst s.dev) 4 ++ toBytes 0 4

/-- QUOTE_COMPLETE (R378): QBUF holds the quote with its signature, and QCMD reads 0. -/
def execQuoteComplete (s : State) : Host.Outcome State Fault Refusal :=
  if !s.dev.qbusy then .next s
  else
    let b := quoteBody s
    .next { s with dev := { s.dev with qbusy := false, qbuf := b ++ (upTo 29792).map (Config.identitySign b) } }

/-! ## Clamps (R379) -/

/-- A die's clock changes, which its sextant core is told. -/
def setClock (s : State) (d clock : Nat) : State :=
  if (getDie s d).clock = clock then s else raiseEvent (modDie s d fun v => { v with clock := clock }) d 3 0 0

/-- THERMAL_CLAMP_STEP (R379): die n1 stands at n2 degrees; 10 µs after the last step the clock falls by 100 MHz, or rises by as much of what heat has
lowered it. -/
def execThermalClampStep (s : State) : Host.Outcome State Fault Refusal :=
  let d := s.arg.n1
  let v := getDie s d
  if d > 15 ∨ s.dev.tick < v.lastClamp + 10000 then .next s
  else
    let hot := s.arg.n2 ≥ 105 || (v.hot && s.arg.n2 ≥ 100)
    let down := if hot then min 100 (v.clock - 400) else 0
    let up := if hot then 0 else min 100 v.hotDown
    .next (setClock (modDie s d fun v => { v with hot := hot, hotDown := v.hotDown + down - up, lastClamp := s.dev.tick }) d (v.clock + up - down))

/-- POWER_CLAMP (R379): package power would exceed its limit (flag), and every die's clock is lowered together by n1 MHz, or as
far as the slowest can be; without the flag the clocks rise again, but for what heat holds down. -/
def execPowerClamp (s : State) : Host.Outcome State Fault Refusal :=
  let least := (upTo 16).foldl (fun m d => min m (getDie s d).clock) 2000
  let n := if s.arg.flag then min s.arg.n1 (least - 1) else s.arg.n1
  .next ((upTo 16).foldl (fun s d =>
    let v := getDie s d
    setClock s d (if s.arg.flag then v.clock - n else max v.clock (min (2000 - v.hotDown) (v.clock + n)))) s)

/-! ## SRAM errors (R364, R381) -/

/-- The die whose SRAM an error hits; `d` where the store belongs to none named. -/
def hitDie (s : State) (d : Nat) (h : SoftHit) : Nat :=
  match h with
  | .corrected => d
  | .register who _ => (envOf s who).die
  | .scratch gid _ => match getGroup s gid with | some g => dieOf (sliceOf g 0).1 | none => d
  | .tile c _ _ | .l1 c _ | .storeBuffer c _ | .template c _ _ | .entry c _ _ => dieOf c

/-- What an uncorrectable error does to the store it hits. -/
def softHit (s : State) (h : SoftHit) : State :=
  match h with
  | .corrected => s
  | .register who r =>
    if r = 0 then s
    else
      let s := modThread s who fun t => { t with bad := r :: t.bad }
      { s with pends := s.pends.map fun p => if p.who == who then { p with save := { p.save with bad := r :: p.save.bad } } else p }
  | .scratch gid w => modGroup s gid fun g => { g with badScratch := w :: g.badScratch }
  | .tile c t w => modTile s c t fun v => { v with bad := w :: v.bad }
  | .l1 c i => modCore s c fun k => { k with l1 := k.l1.take i ++ k.l1.drop (i + 1) }
  | .storeBuffer c i => modCore s c fun k =>
    let hit (x : SbEntry) : SbEntry := { x with bad := true }
    { k with sb := modNth k.sb i hit, frozen := if i < k.sb.length then k.frozen else modNth k.frozen (i - k.sb.length) hit }
  | .template c q n =>
    modCore s c fun k => { k with templates := SMap.set k.templates (64 * q + n) { getTemplate k q n with bad := true } }
  | .entry c q i => faultIfBad (modQueue s c q fun k => { k with entries := modNth k.entries i fun e => { e with bad := true } }) c q

/-- SRAM_SOFT_ERROR (R364, R381): corrected and counted on die n1, or not correctable, counted on the die it hits. -/
def execSramSoftError (s : State) : Host.Outcome State Fault Refusal :=
  let d := hitDie s s.arg.n1 s.arg.hit
  if s.arg.hit = .corrected then .next (modDie s d fun v => { v with ecCorr := min (v.ecCorr + 1) (2 ^ 32 - 1) })
  else .next (modDie (softHit s s.arg.hit) d fun v => { v with ecUncorr := sat16 (v.ecUncorr + 1) })

end Sys2Proof.Machine
end

