-- ==== Sys2Proof/Machine/Compare.lean ====
section
/-!
DEFINITION. The compare and predicate family 0x12 (08_thread R173).
-/

namespace Sys2Proof.Machine

/-- The comparison of ICMP and ICMPM, combined with p[C] (R33, R173). -/
def icmpValue (s : State) (e : Env) (t : Thread) (o : OpR) : Bool :=
  combine (modField o.mod 4 2)
    (condCode (modField o.mod 0 4) (selX s e t (kA o) o.a) (selX s e t (kB o) o.b)) (readP t o.c.toNat)

/-- The operands ICMP and ICMPM name. -/
def icmpNeeds (o : OpR) : List Need := [needSel (kA o) o.a, needSel (kB o) o.b, .pr o.c]

/-- ICMP (R173): p[D] := comb(cond(a, b)). -/
def execIcmp (o : OpR) (s : State) : Host.Outcome State Fault Refusal := predOp s o.g o.d (icmpNeeds o) fun e t => icmpValue s e t o

/-- ICMPM (R173): a mask of ones or zero. -/
def execIcmpm (o : OpR) (s : State) : Host.Outcome State Fault Refusal :=
  regOp s o.g o.d (icmpNeeds o) fun e t => if icmpValue s e t o then 0xFFFFFFFF else 0

/-- SEL (R173): a where p[C] holds, else b. -/
def execSel (o : OpR) (s : State) : Host.Outcome State Fault Refusal :=
  regOp s o.g o.d [needSel (kA o) o.a, needSel (kB o) o.b, .pr o.c] fun e t =>
    if readP t o.c.toNat then selX s e t (kA o) o.a else selX s e t (kB o) o.b

/-- PLUT (R173): the table MOD at p[A], p[B], p[C]. -/
def execPlut (o : OpR) (s : State) : Host.Outcome State Fault Refusal :=
  predOp s o.g o.d [.pr o.a, .pr o.b, .pr o.c] fun _ t =>
    lut3 o.mod (readP t o.a.toNat) (readP t o.b.toNat) (readP t o.c.toNat)

/-- PGAT (R173): the predicates in bits 0 to 7; p7 reads true. -/
def execPgat (o : OpR) (s : State) : Host.Outcome State Fault Refusal := regOp s o.g o.d [] fun _ t => (t.p ||| 0x80).zeroExtend 32

/-- PSCAT (R173): p[i] := a[i] where b[i] is set, for i = 0 to 6. -/
def execPscat (o : OpR) (s : State) : Host.Outcome State Fault Refusal :=
  issue s o.g {} [.sx o.a, .sx o.b] fun e t =>
    let a := readX t o.a.toNat
    let b := readX t o.b.toNat
    retire s e ((upTo 7).foldl (fun t i => if b.getLsbD i then writeP t i (a.getLsbD i) else t) t)

end Sys2Proof.Machine
end

