-- ==== Sys2Proof/Machine/Convert.lean ====
section
/-!
DEFINITION. The conversion family 0x1B (09_thread_float R187 to R189).
-/

namespace Sys2Proof.Machine

/-- F2I (R187). -/
def execF2i (o : OpR) (s : State) : Host.Outcome State Fault Refusal :=
  fltOp1 s o fun a => ofI (toInt (f32 a) (rmodeOf o.mod.toNat) (-2147483648) 2147483647)

/-- F2U (R187). -/
def execF2u (o : OpR) (s : State) : Host.Outcome State Fault Refusal :=
  fltOp1 s o fun a => ofI (toInt (f32 a) (rmodeOf o.mod.toNat) 0 4294967295)

/-- I2F and U2F: the integer rounded to FP32, clamped when MOD[2] asks (R187). -/
def intToF (mod : BitVec 8) (i : Int) : Word := f32Result mod (ofScaled i 0 false)

/-- I2F (R187). -/
def execI2f (o : OpR) (s : State) : Host.Outcome State Fault Refusal := intOp1 s o fun a => intToF o.mod a.toInt

/-- U2F (R187). -/
def execU2f (o : OpR) (s : State) : Host.Outcome State Fault Refusal := intOp1 s o fun a => intToF o.mod a.toNat

/-- A type code of C that the entry allows; any other code below 11 traps 0x02 (R38, R188, R189). -/
def typeLim (o : OpR) (lo hi : Nat) (_ : Env) : Bool := o.c.toNat < lo || o.c.toNat > hi

/-- The element type of C. -/
def cType (o : OpR) : Elem := (elemOfCode o.c.toNat).getD .fp32

/-- F2H (R188): two elements from A and B. -/
def execF2h (o : OpR) (s : State) : Host.Outcome State Fault Refusal :=
  issue s o.g { lim := typeLim o 1 2 } [.dx o.d, needSel (kA o) o.a, .sx o.b] fun e t =>
    retire s e (writeX t o.d.toNat
      (packHalf (f2hElem o.mod (cType o) (f32 (fltA s e t o))) (f2hElem o.mod (cType o) (f32 (fltB t o)))))

/-- H2F (R188): the pair x[D] from the two elements of A. -/
def execH2f (o : OpR) (s : State) : Host.Outcome State Fault Refusal :=
  issue s o.g { lim := typeLim o 1 2 } [.dp o.d, needSel (kA o) o.a] fun e t =>
    let a := selX s e t (kA o) o.a
    retire s e (writePair t o.d.toNat (h2fElem o.mod (cType o) (half a 1) ++ h2fElem o.mod (cType o) (half a 0)))

/-- CVTQ (R189): one element quantised under the scale x[B][7:0]. -/
def execCvtq (o : OpR) (s : State) : Host.Outcome State Fault Refusal :=
  issue s o.g { lim := typeLim o 3 8 } [.dx o.d, needSel (kA o) o.a, .sx o.b] fun e t =>
    retire s e (writeX t o.d.toNat (cvtq (cType o) (f32 (fltA s e t o)) ((readX t o.b.toNat).toNat % 256)))

/-- CVTD (R189): one element delivered as FP32. -/
def execCvtd (o : OpR) (s : State) : Host.Outcome State Fault Refusal :=
  issue s o.g { lim := typeLim o 3 8 } [.dx o.d, needSel (kA o) o.a, .sx o.b] fun e t =>
    retire s e (writeX t o.d.toNat
      (cvtd (cType o) (selX s e t (kA o) o.a).toNat ((readX t o.b.toNat).toNat % 256)))

/-- XSCALE (R189): the block scale of one value. -/
def execXscale (o : OpR) (s : State) : Host.Outcome State Fault Refusal :=
  issue s o.g { lim := typeLim o 3 8 } [.dx o.d, needSel (kA o) o.a] fun e t =>
    retire s e (writeX t o.d.toNat (xscale (cType o) (f32 (fltA s e t o))))

end Sys2Proof.Machine
end

