-- ==== Sys2Proof/Machine/Float.lean ====
section
/-!
DEFINITION. The FP32 family 0x18 (09_thread_float R179 to R182).
-/

namespace Sys2Proof.Machine

/-- FADD (R180). -/
def execFadd (o : OpR) (s : State) : Host.Outcome State Fault Refusal :=
  fltOp2 s o fun a b => f32Result o.mod (faddVal o.mod (f32 a) (f32 b))

/-- FSUB: a + (−b), which gives the same value and the zero sign of R59 (R180). -/
def execFsub (o : OpR) (s : State) : Host.Outcome State Fault Refusal :=
  fltOp2 s o fun a b => f32Result o.mod (faddVal o.mod (f32 a) (f32 b).negate)

/-- FMUL (R180). -/
def execFmul (o : OpR) (s : State) : Host.Outcome State Fault Refusal := fltOp2 s o fun a b => f32Result o.mod ((f32 a).mul (f32 b))

/-- FFMA: rounded once (R180). -/
def execFfma (o : OpR) (s : State) : Host.Outcome State Fault Refusal :=
  fltOp3 s o fun a b c => f32Result o.mod (faddVal o.mod ((f32 a).mul (f32 b)) (f32 c))

/-- FMIN: MinNum, an operand's encoding unchanged (R181). -/
def execFmin (o : OpR) (s : State) : Host.Outcome State Fault Refusal :=
  fltOp2 s o fun a b => BitVec.ofNat 32 (minNum a.toNat b.toNat .fp32)

/-- FMAX: MaxNum (R181). -/
def execFmax (o : OpR) (s : State) : Host.Outcome State Fault Refusal :=
  fltOp2 s o fun a b => BitVec.ofNat 32 (maxNum a.toNat b.toNat .fp32)

/-- The condition C[3:0] on the prepared A and B (R182). -/
def fcmpValue (s : State) (e : Env) (t : Thread) (o : OpR) : Bool :=
  floatCondHolds (o.c.toNat % 16) (f32 (fltA s e t o)) (f32 (fltB t o))

/-- FSETP (R182): p[D]. -/
def execFsetp (o : OpR) (s : State) : Host.Outcome State Fault Refusal :=
  predOp s o.g o.d [needSel (kA o) o.a, .sx o.b] fun e t => fcmpValue s e t o

/-- FSET (R182): 1.0 or zero. -/
def execFset (o : OpR) (s : State) : Host.Outcome State Fault Refusal :=
  regOp s o.g o.d [needSel (kA o) o.a, .sx o.b] fun e t => if fcmpValue s e t o then 0x3F800000 else 0

/-- FDIV (R180). -/
def execFdiv (o : OpR) (s : State) : Host.Outcome State Fault Refusal := fltOp2 s o fun a b => f32Result o.mod ((f32 a).div (f32 b))

/-- FSQRT (R180). -/
def execFsqrt (o : OpR) (s : State) : Host.Outcome State Fault Refusal := fltOp1 s o fun a => f32Result o.mod (f32 a).sqrt

/-- FRND (R180): an integral value under the rounding mode. -/
def execFrnd (o : OpR) (s : State) : Host.Outcome State Fault Refusal :=
  fltOp1 s o fun a => f32Result o.mod ((f32 a).toIntegral (rmodeOf o.mod.toNat))

end Sys2Proof.Machine
end

