-- ==== Sys2Proof/Machine/Image.lean ====
section
/-!
DEFINITION. The image unit (17_frame R339 to R341; family 0x3D, FN 0 to 2): descriptors, texels, filtered and direct access.
-/

namespace Sys2Proof.Machine

/-! ## Descriptors (R339) -/

/-- An image. -/
structure Img where
  base : Nat
  w : Nat
  h : Nat
  fmt : Nat
  pitch : Nat
  amu : Nat
  amv : Nat
  deriving DecidableEq, Repr

/-- Bytes of a texel. -/
def texelSize (fmt : Nat) : Nat := if fmt = 2 then 8 else 4

/-- The image that a descriptor's 32 bytes describe, none where it is malformed. -/
def imgOf (b : List Byte) : Option Img :=
  let w (i : Nat) : Nat := ofBytes (sliceBytes b (8 * i) 8)
  let i : Img :=
    { base := field (w 0) 0 56, w := field (w 1) 0 14 + 1, h := field (w 1) 14 14 + 1, fmt := field (w 1) 28 4,
      pitch := field (w 1) 32 32, amu := field (w 2) 0 2, amv := field (w 2) 2 2 }
  if field (w 0) 56 8 = 0 ∧ i.base % 128 = 0 ∧ i.fmt ≤ 4 ∧ i.pitch % 128 = 0 ∧ i.pitch ≥ i.w * texelSize i.fmt ∧ i.amu ≤ 2 ∧
      i.amv ≤ 2 ∧ field (w 2) 4 60 = 0 ∧ w 3 = 0 then some i
  else none

/-- The address of texel (i, j). -/
def Img.texel (m : Img) (i j : Nat) : Nat := m.base + j * m.pitch + i * texelSize m.fmt

/-! ## Accesses -/

def imgCache (o : OpR) : Nat := modField o.mod 3 2

/-- An access of the image unit: relaxed, in the cache mode, to plain pages only. -/
def imgAcc (e : Env) (o : OpR) (va n : Nat) : Acc :=
  { threadAcc e (BitVec.ofNat 64 va) n with l1 := imgCache o != 1, plain := true }

def imgMode (o : OpR) : LoadMode := { install := imgCache o != 1, nt := imgCache o == 2 }

/-- The descriptor at a pair: steps 1 and 2 of R224, its read, and the trap 0x0B. -/
def readImg (s : State) (e : Env) (o : OpR) (va : Nat) : Except Stop (Img × State) :=
  match addrFault va 32 with
  | some c => .error (.fault { code := c, va := va })
  | none =>
    match threadRead s e (imgAcc e o va 32) (imgMode o) with
    | .error x => .error x
    | .ok (b, s) => match imgOf b with
      | some m => .ok (m, s)
      | none => .error (.fault { code := 0x0B, va := 0 })

/-! ## Channels -/

/-- The value of a channel: a finite one, with the sign its zero has, or a NaN or infinity. -/
inductive Chan where
  | fin (r : Rat) (neg : Bool)
  | special (v : Val)

/-- The channel of an encoded value. -/
def chanOf (enc : Nat) (t : Elem) : Chan :=
  match decodeElem enc t with
  | .fin n m e => .fin (ratOf (.fin n m e)) n
  | v => .special v

/-- The FP32 encoding of a channel, rounded RNE. -/
def Chan.enc (c : Chan) : Nat :=
  match c with
  | .fin r neg => if r = 0 then signEnc .fp32 neg else roundRat r
  | .special v => roundF v .fp32 .rne

def Chan.zero : Chan := .fin 0 false
def Chan.one : Chan := .fin 1 false
def Chan.nan : Chan := .special .nan

/-- The fifth root of a number, rounded down, bit by bit from bit `n` - 1. -/
def root5 (v n r : Nat) : Nat :=
  match n with
  | 0 => r
  | n + 1 => root5 v n (if (r + 2 ^ n) ^ 5 ≤ v then r + 2 ^ n else r)

/-- s(c) of SRGBA8, rounded to FP32: c / 3294.6, or ((c / 255 + 0.055) / 1.055) to the power 12 / 5. -/
def srgbEnc (c : Nat) : Nat :=
  if c ≤ 10 then roundRat ((10 * c : Nat) / (32946 : Nat) : Rat)
  else
    let num := (1000 * c + 14025) ^ 12
    let den := 269025 ^ 12
    let r := root5 ((num <<< 300) / den) 61 0
    let exact := r ^ 5 * den == num <<< 300
    roundF (.fin false (2 * r + ofBool (!exact)) (-61)) .fp32 .rne

/-- An unsigned byte as a channel. -/
def unorm (c : Nat) : Chan := .fin ((c : Rat) / 255) false

/-- The four channels of a texel's bytes (R339). -/
def texelChans (fmt : Nat) (b : List Byte) : List Chan :=
  let c (i : Nat) : Nat := (nthD b i 0).toNat
  let half (i : Nat) : Chan := chanOf (ofBytes (sliceBytes b (2 * i) 2)) .fp16
  match fmt with
  | 0 => (upTo 4).map fun i => unorm (c i)
  | 1 => ((upTo 3).map fun i => chanOf (srgbEnc (c i)) .fp32) ++ [unorm (c 3)]
  | 2 => (upTo 4).map half
  | 3 => [half 0, half 1, .zero, .one]
  | _ => [chanOf (ofBytes (sliceBytes b 0 4)) .fp32, .zero, .zero, .one]

/-! ## Filtering (R340) -/

/-- Where an axis takes its texel: at an index, in the border, or nowhere (an infinite coordinate under wrap). -/
inductive Place where
  | at_ (i : Nat)
  | border
  | none
  deriving DecidableEq, Repr

/-- Adr of one axis. -/
def adr (mode w : Nat) (i : Int) : Place :=
  match mode with
  | 0 => .at_ (min (max i 0) ((w : Int) - 1)).toNat
  | 1 => .at_ (i % (w : Int)).toNat
  | _ => if 0 ≤ i ∧ i < w then .at_ i.toNat else .border

/-- The place of an infinite coordinate. -/
def adrInf (mode w : Nat) (neg : Bool) : Place :=
  match mode with
  | 0 => .at_ (if neg then 0 else w - 1)
  | 1 => .none
  | _ => .border

/-- The texels of an axis with their weights, the weight 0 left out. -/
def axisOf (mode w enc : Nat) (lin : Bool) : List (Rat × Place) :=
  match fp32Val enc with
  | .fin n m e =>
    let x := ratOf (.fin n m e) * (w : Rat)
    if lin then
      let xs := x - 1 / 2
      let i := xs.num / (xs.den : Int)
      let a := xs - (i : Rat)
      (if a = 1 then [] else [(1 - a, adr mode w i)]) ++ (if a = 0 then [] else [(a, adr mode w (i + 1))])
    else [(1, adr mode w (x.num / (x.den : Int)))]
  | .inf neg => [(1, adrInf mode w neg)]
  | .nan => []

/-- The weighted sum of a channel over its terms: exact, then rounded once by `Chan.enc`. -/
def blend (l : List (Rat × Chan)) : Chan :=
  let nan := l.any fun x => match x.2 with | .special .nan => true | _ => false
  let inf (s : Bool) : Bool := l.any fun x => match x.2 with | .special (.inf n) => n == s | _ => false
  if nan || (inf true && inf false) then .nan
  else if inf true then .special (.inf true)
  else if inf false then .special (.inf false)
  else
    l.foldl (fun acc x => match acc, x.2 with
      | .fin a an, .fin r rn => .fin (a + x.1 * r) (an && rn)
      | _, _ => acc) (.fin 0 true)

/-- The texel at two places; the border gives four zeros. -/
def texelAt (s : State) (e : Env) (o : OpR) (m : Img) (x y : Place) : Except Stop (List Chan × State) :=
  match x, y with
  | .none, _ | _, .none => .ok (List.replicate 4 .nan, s)
  | .at_ i, .at_ j =>
    let n := texelSize m.fmt
    match addrFault (m.texel i j) n with
    | some c => .error (.fault { code := c, va := m.texel i j % 2 ^ 56 })
    | none => match threadRead s e (imgAcc e o (m.texel i j) n) (imgMode o) with
      | .error x => .error x
      | .ok (b, s) => .ok (texelChans m.fmt b, s)
  | _, _ => .ok (List.replicate 4 .zero, s)

/-- The terms of a sample, read in order. -/
def readTerms (s : State) (e : Env) (o : OpR) (m : Img) (l : List (Rat × Place × Place)) (out : List (Rat × List Chan)) :
    Except Stop (List (Rat × List Chan) × State) :=
  match l with
  | [] => .ok (out, s)
  | (w, x, y) :: r =>
    match texelAt s e o m x y with
    | .error p => .error p
    | .ok (c, s) => readTerms s e o m r (out ++ [(w, c)])

/-- The four channels of a sample, from the coordinates' encodings. -/
def sampleAt (s : State) (e : Env) (o : OpR) (m : Img) (u v : Nat) : Except Stop (List Nat × State) :=
  let lin := o.mod.getLsbD 0
  if (fp32Val u).isNan || (fp32Val v).isNan then .ok (List.replicate 4 0x7FC00000, s)
  else
    let xs := axisOf m.amu m.w u lin
    let terms := (axisOf m.amv m.h v lin).flatMap fun y => xs.map fun x => (x.1 * y.1, x.2, y.2)
    match readTerms s e o m terms [] with
    | .error p => .error p
    | .ok (l, s) => .ok ((upTo 4).map fun k => (blend (l.map fun t => (t.1, nthD t.2 k .zero))).enc, s)

/-- SAMPLE (R340). -/
def execSample (o : OpR) (s : State) : Host.Outcome State Fault Refusal :=
  issue s o.g { place := .compute } [.dq o.d, .sp o.a, .sp o.b] fun e t =>
    match readImg s e o (readPair t o.a.toNat).toNat with
    | .error p => takeStop s e.who p
    | .ok (m, s) =>
      let uv := readPair t o.b.toNat
      match sampleAt s e o m (uv.extractLsb' 0 32).toNat (uv.extractLsb' 32 32).toNat with
      | .error p => takeStop s e.who p
      | .ok (l, s) => retire s e (writeQuad t o.d.toNat (BitVec.ofNat 128 (packBits 32 l)))

/-! ## Direct access (R341) -/

/-- Is the destination or source of a texel not one the thread may name? -/
def texelRegBad (e : Env) (m : Img) (n : Need) : Bool := m.fmt == 2 && !n.ok e

/-- IMLD (R341). B is taken as a pair, as SAMPLE's is: an odd B traps 0x02, and x0 reads as i = j = 0 (DESIGN CHOICE: R341 names x[B] and x[B+1]
without calling them a pair; notes/assumptions 86). An odd D of RGBA16F traps with i ≥ W or j ≥ H too (DESIGN CHOICE, notes/assumptions 87). -/
def execImld (o : OpR) (s : State) : Host.Outcome State Fault Refusal :=
  issue s o.g { place := .compute } [.dx o.d, .sp o.a, .sp o.b] fun e t =>
    match readImg s e o (readPair t o.a.toNat).toNat with
    | .error p => takeStop s e.who p
    | .ok (m, s) =>
      let ij := readPair t o.b.toNat
      let i := (ij.extractLsb' 0 32).toNat
      let j := (ij.extractLsb' 32 32).toNat
      let n := texelSize m.fmt
      let put (v : Nat) : Thread := writeWidth t o.d.toNat (if n = 8 then 3 else 2) v
      if texelRegBad e m (.dp o.d) then trap s e.who 0x02
      else if m.fmt = 2 ∧ needsAwait [.dp o.d] t then waitAt s e.who .regs
      else if i ≥ m.w ∨ j ≥ m.h then retire s e (put 0)
      else match addrFault (m.texel i j) n with
        | some c => trap s e.who c 0 (m.texel i j % 2 ^ 56)
        | none => match threadRead s e (imgAcc e o (m.texel i j) n) (imgMode o) with
          | .error p => takeStop s e.who p
          | .ok (b, s) => retire s e (put (ofBytes b))

/-- IMST (R341). B is taken as a pair (DESIGN CHOICE, notes/assumptions 86). An odd D of RGBA16F traps 0x02 with i ≥ W or j ≥ H too (DESIGN
CHOICE: R341 says of such a D that it traps and of such an i or j that nothing traps; notes/assumptions 87). -/
def execImst (o : OpR) (s : State) : Host.Outcome State Fault Refusal :=
  issue s o.g { place := .compute } [.sx o.d, .sp o.a, .sp o.b] fun e t =>
    match readImg s e o (readPair t o.a.toNat).toNat with
    | .error p => takeStop s e.who p
    | .ok (m, s) =>
      let ij := readPair t o.b.toNat
      let i := (ij.extractLsb' 0 32).toNat
      let j := (ij.extractLsb' 32 32).toNat
      let n := texelSize m.fmt
      if texelRegBad e m (.sp o.d) then trap s e.who 0x02
      else if m.fmt = 2 ∧ needsAwait [.sp o.d] t then waitAt s e.who .regs
      else if m.fmt = 2 ∧ needsBad [.sp o.d] t then trap s e.who 0x08
      else if i ≥ m.w ∨ j ≥ m.h then retire s e t
      else match addrFault (m.texel i j) n with
        | some c => trap s e.who c 0 (m.texel i j % 2 ^ 56)
        | none => match check s { imgAcc e o (m.texel i j) n with kind := 1, write := true } with
          | .error p => takeStop s e.who p
          | .ok (g, s) =>
            match pushStore s e g (if n = 8 then storeBytes t o.d.toNat 3 else storeBytes t o.d.toNat 2) (imgCache o == 2) with
            | .error p => takeStop s e.who p
            | .ok s => retire s e t

end Sys2Proof.Machine
end

