-- ==== Sys2Proof/Machine/Imm.lean ====
section
/-!
DEFINITION. The immediate family 0x08 (08_thread R169).
-/

namespace Sys2Proof.Machine

/-- MOVI (R169): x[D] := I. -/
def execMovi (o : OpI) (s : State) : Host.Outcome State Fault Refusal := regOp s o.g o.d [] fun _ _ => o.imm

/-- MOVIH (R169): the upper half of the pair x[D] := I; the lower half is unchanged. -/
def execMovih (o : OpI) (s : State) : Host.Outcome State Fault Refusal :=
  issue s o.g {} [.dp o.d] fun e t =>
    retire s e (if o.d = 0 then t else writeX t (o.d.toNat + 1) o.imm)

/-- IADDI (R169): modulo 2^32. -/
def execIaddi (o : OpI) (s : State) : Host.Outcome State Fault Refusal := immOp s o fun a i => a + i

/-- IMULI (R169): the low 32 bits. -/
def execImuli (o : OpI) (s : State) : Host.Outcome State Fault Refusal := immOp s o fun a i => a * i

/-- ANDI (R169). -/
def execAndi (o : OpI) (s : State) : Host.Outcome State Fault Refusal := immOp s o fun a i => a &&& i

/-- ORI (R169). -/
def execOri (o : OpI) (s : State) : Host.Outcome State Fault Refusal := immOp s o fun a i => a ||| i

/-- XORI (R169). -/
def execXori (o : OpI) (s : State) : Host.Outcome State Fault Refusal := immOp s o fun a i => a ^^^ i

/-- SHLI (R169): by I[4:0]. -/
def execShli (o : OpI) (s : State) : Host.Outcome State Fault Refusal := immOp s o fun a i => a <<< (i.toNat % 32)

/-- SHRI (R169): logical, by I[4:0]. -/
def execShri (o : OpI) (s : State) : Host.Outcome State Fault Refusal := immOp s o fun a i => a >>> (i.toNat % 32)

/-- SARI (R169): arithmetic, by I[4:0]. -/
def execSari (o : OpI) (s : State) : Host.Outcome State Fault Refusal := immOp s o fun a i => a.sshiftRight (i.toNat % 32)

/-- AADDI (R169): the pair plus the sign-extended immediate, modulo 2^64. -/
def execAaddi (o : OpI) (s : State) : Host.Outcome State Fault Refusal :=
  pairOp s o.g o.d [.sp o.a] fun _ t => readPair t o.a.toNat + o.imm.signExtend 64

end Sys2Proof.Machine
end

