-- ==== Sys2Proof/Machine/IntArith.lean ====
section
/-!
DEFINITION. The integer family 0x10 (08_thread R170, R171).
-/

namespace Sys2Proof.Machine

/-- IADD: a + b (R170). -/
def execIadd (o : OpR) (s : State) : Host.Outcome State Fault Refusal := intOp2 s o fun a b => a + b

/-- ISUB: a - b (R170). -/
def execIsub (o : OpR) (s : State) : Host.Outcome State Fault Refusal := intOp2 s o fun a b => a - b

/-- IMUL: the low half of the product (R170). -/
def execImul (o : OpR) (s : State) : Host.Outcome State Fault Refusal := intOp2 s o fun a b => a * b

/-- IMULH: the high half of the signed product (R170). -/
def execImulh (o : OpR) (s : State) : Host.Outcome State Fault Refusal := intOp2 s o mulHigh

/-- IMULHU: the high half of the unsigned product (R170). -/
def execImulhu (o : OpR) (s : State) : Host.Outcome State Fault Refusal := intOp2 s o mulHighU

/-- IMAD: the low half of a × b + c (R170). -/
def execImad (o : OpR) (s : State) : Host.Outcome State Fault Refusal := intOp3 s o fun a b c => a * b + c

/-- IMIN: the lesser, signed (R170). -/
def execImin (o : OpR) (s : State) : Host.Outcome State Fault Refusal := intOp2 s o imin

/-- IMAX: the greater, signed (R170). -/
def execImax (o : OpR) (s : State) : Host.Outcome State Fault Refusal := intOp2 s o imax

/-- UMIN: the lesser, unsigned (R170). -/
def execUmin (o : OpR) (s : State) : Host.Outcome State Fault Refusal := intOp2 s o umin

/-- UMAX: the greater, unsigned (R170). -/
def execUmax (o : OpR) (s : State) : Host.Outcome State Fault Refusal := intOp2 s o umax

/-- IABS (R170). -/
def execIabs (o : OpR) (s : State) : Host.Outcome State Fault Refusal := intOp1 s o iabs

/-- IADDS: the sum clamped (R170). -/
def execIadds (o : OpR) (s : State) : Host.Outcome State Fault Refusal := intOp2 s o fun a b => satI (sw a + sw b)

/-- ISUBS: the difference clamped (R170). -/
def execIsubs (o : OpR) (s : State) : Host.Outcome State Fault Refusal := intOp2 s o fun a b => satI (sw a - sw b)

/-- IDIV, with the cases of R171 (R170). -/
def execIdiv (o : OpR) (s : State) : Host.Outcome State Fault Refusal := intOp2 s o idiv

/-- UDIV, with the cases of R171 (R170). -/
def execUdiv (o : OpR) (s : State) : Host.Outcome State Fault Refusal := intOp2 s o udiv

/-- IREM, with the cases of R171 (R170). -/
def execIrem (o : OpR) (s : State) : Host.Outcome State Fault Refusal := intOp2 s o irem

/-- UREM, with the cases of R171 (R170). -/
def execUrem (o : OpR) (s : State) : Host.Outcome State Fault Refusal := intOp2 s o urem

/-- DP4A: four signed byte products added to c (R170). -/
def execDp4a (o : OpR) (s : State) : Host.Outcome State Fault Refusal := intOp3 s o dp4a

/-- DP4AU: four unsigned byte products added to c (R170). -/
def execDp4au (o : OpR) (s : State) : Host.Outcome State Fault Refusal := intOp3 s o dp4au

end Sys2Proof.Machine
end

