-- ==== Sys2Proof/Decode.lean ====
section
/-!
DEFINITION. Decoding and encoding of the 64-bit word (02_encoding R19 to R41). Decoding is total and rejects by name; every
rejection is trap 0x01 (R22 step 2).
-/

namespace Sys2Proof

/-- Why a word is illegal by its bits (R22 step 2). -/
inductive DecodeError where
  /-- R41: the major opcode is unassigned. -/
  | unassignedMajor
  /-- R40: the function value is not in its family's list. -/
  | unassignedFunction
  /-- R21: PI = 7 with PN = 1. -/
  | reservedGuard
  /-- R24: a field or MOD bit that the entry does not name is nonzero. -/
  | reservedField
  /-- A scope, order, width, cache mode, condition, type or operation code that is reserved. -/
  | reservedCode
  deriving DecidableEq, Repr

/-! ## Fields (R20, R23) -/

/-- MAJ, bits [63:56]. -/
def fMaj (w : DWord) : Nat := (w.extractLsb' 56 8).toNat
/-- The guard, bits [55:52]. -/
def fGuard (w : DWord) : GuardF := { pn := w.getLsbD 55, pi := w.extractLsb' 52 3 }
/-- D, bits [51:44]. -/
def fD (w : DWord) : RegNo := w.extractLsb' 44 8
/-- A, bits [43:36]. -/
def fA (w : DWord) : RegNo := w.extractLsb' 36 8
/-- B, bits [35:28] of formats R, M, E. -/
def fB (w : DWord) : RegNo := w.extractLsb' 28 8
/-- C of format R and Q of format E, bits [27:20]. -/
def fC (w : DWord) : RegNo := w.extractLsb' 20 8
/-- FN of formats R and E, bits [19:8]. -/
def fFn (w : DWord) : Nat := (w.extractLsb' 8 12).toNat
/-- MOD, bits [7:0]. -/
def fMod (w : DWord) : BitVec 8 := w.extractLsb' 0 8

/-- The fields of each format. -/
def opR (w : DWord) : OpR := { g := fGuard w, d := fD w, a := fA w, b := fB w, c := fC w, mod := fMod w }
def opS (w : DWord) : OpS :=
  { g := fGuard w, d := fD w, a := fA w, b := fB w, scope := w.extractLsb' 16 4, mod := fMod w }
def opA (w : DWord) (op : AtomOp) : OpA :=
  { g := fGuard w, d := fD w, a := fA w, b := fB w, c := fC w, scope := w.extractLsb' 16 4, op := op, mod := fMod w }
def opI (w : DWord) : OpI := { g := fGuard w, d := fD w, a := fA w, imm := w.extractLsb' 4 32 }
def opM (w : DWord) : OpM :=
  { g := fGuard w, d := fD w, b := fB w, off := w.extractLsb' 12 16, scope := w.extractLsb' 8 4, mod := fMod w }
def opJ (w : DWord) : OpJ := { g := fGuard w, d := fD w, rel := w.extractLsb' 0 36 }
def opE (w : DWord) : OpE := { g := fGuard w, d := fD w, a := fA w, b := fB w, q := fC w, mod := fMod w }
def opT (w : DWord) : OpT :=
  { g := fGuard w, td := w.extractLsb' 48 4, ta := w.extractLsb' 44 4, tb := w.extractLsb' 40 4,
    ts := w.extractLsb' 36 4, ea := w.extractLsb' 28 8, eb := w.extractLsb' 20 8, acc := w.extractLsb' 16 4,
    gran := w.extractLsb' 14 2, mod := fMod w }

/-- The operation codes of ATOM and RED (R40). -/
def atomOpOf (n : Nat) : Option AtomOp :=
  match n with
  | 0 => some .add
  | 1 => some .min
  | 2 => some .max
  | 3 => some .umin
  | 4 => some .umax
  | 5 => some .and
  | 6 => some .or
  | 7 => some .xor
  | 8 => some .exch
  | 9 => some .cas
  | 10 => some .fadd
  | 11 => some .fmax
  | 12 => some .incw
  | _ => none

/-- The code of an operation (R40). -/
def atomOpCode (op : AtomOp) : BitVec 8 :=
  match op with
  | .add => 0
  | .min => 1
  | .max => 2
  | .umin => 3
  | .umax => 4
  | .and => 5
  | .or => 6
  | .xor => 7
  | .exch => 8
  | .cas => 9
  | .fadd => 10
  | .fmax => 11
  | .incw => 12

/-- A word of a family whose FN picks the instruction. -/
abbrev FamilyDecoder := DWord → Option Instr

/-- Family 0x01 (R40). -/
def decode01 (w : DWord) : Option Instr :=
  match fFn w with
  | 0 => some (.nop (opR w))
  | _ => none

/-- Family 0x04 (R40). -/
def decode04 (w : DWord) : Option Instr :=
  match fFn w with
  | 0 => some (.brx (opR w))
  | 1 => some (.callx (opR w))
  | 2 => some (.ret (opR w))
  | 3 => some (.exit_ (opR w))
  | 4 => some (.yield (opR w))
  | 5 => some (.trap (opR w))
  | 6 => some (.brk (opR w))
  | 7 => some (.sleep (opR w))
  | _ => none

/-- Family 0x08 (R40). -/
def decode08 (w : DWord) : Option Instr :=
  match (w.extractLsb' 0 4).toNat with
  | 0 => some (.movi (opI w))
  | 1 => some (.movih (opI w))
  | 2 => some (.iaddi (opI w))
  | 3 => some (.imuli (opI w))
  | 4 => some (.andi (opI w))
  | 5 => some (.ori (opI w))
  | 6 => some (.xori (opI w))
  | 7 => some (.shli (opI w))
  | 8 => some (.shri (opI w))
  | 9 => some (.sari (opI w))
  | 10 => some (.aaddi (opI w))
  | _ => none

/-- Family 0x10 (R40). -/
def decode10 (w : DWord) : Option Instr :=
  match fFn w with
  | 0 => some (.iadd (opR w))
  | 1 => some (.isub (opR w))
  | 2 => some (.imul (opR w))
  | 3 => some (.imulh (opR w))
  | 4 => some (.imulhu (opR w))
  | 5 => some (.imad (opR w))
  | 6 => some (.imin (opR w))
  | 7 => some (.imax (opR w))
  | 8 => some (.umin (opR w))
  | 9 => some (.umax (opR w))
  | 10 => some (.iabs (opR w))
  | 11 => some (.iadds (opR w))
  | 12 => some (.isubs (opR w))
  | 13 => some (.idiv (opR w))
  | 14 => some (.udiv (opR w))
  | 15 => some (.irem (opR w))
  | 16 => some (.urem (opR w))
  | 17 => some (.dp4a (opR w))
  | 18 => some (.dp4au (opR w))
  | _ => none

/-- Family 0x11 (R40). -/
def decode11 (w : DWord) : Option Instr :=
  match fFn w with
  | 0 => some (.and_ (opR w))
  | 1 => some (.or_ (opR w))
  | 2 => some (.xor_ (opR w))
  | 3 => some (.andn (opR w))
  | 4 => some (.blut (opR w))
  | 5 => some (.shl (opR w))
  | 6 => some (.shr_ (opR w))
  | 7 => some (.sar (opR w))
  | 8 => some (.rol (opR w))
  | 9 => some (.bfe (opR w))
  | 10 => some (.bfeu (opR w))
  | 11 => some (.bfi (opR w))
  | 12 => some (.popc (opR w))
  | 13 => some (.clz (opR w))
  | 14 => some (.brev (opR w))
  | 15 => some (.bshuf (opR w))
  | _ => none

/-- Family 0x12 (R40). -/
def decode12 (w : DWord) : Option Instr :=
  match fFn w with
  | 0 => some (.icmp (opR w))
  | 1 => some (.icmpm (opR w))
  | 2 => some (.sel (opR w))
  | 3 => some (.plut (opR w))
  | 4 => some (.pgat (opR w))
  | 5 => some (.pscat (opR w))
  | _ => none

/-- Family 0x13 (R40). -/
def decode13 (w : DWord) : Option Instr :=
  match fFn w with
  | 0 => some (.aadd (opR w))
  | 1 => some (.asub (opR w))
  | 2 => some (.acmp (opR w))
  | 3 => some (.shl64 (opR w))
  | 4 => some (.shr64 (opR w))
  | 5 => some (.iadd64 (opR w))
  | 6 => some (.imul64 (opR w))
  | 7 => some (.amov (opR w))
  | _ => none

/-- Family 0x18 (R40). -/
def decode18 (w : DWord) : Option Instr :=
  match fFn w with
  | 0 => some (.fadd (opR w))
  | 1 => some (.fsub (opR w))
  | 2 => some (.fmul (opR w))
  | 3 => some (.ffma (opR w))
  | 4 => some (.fmin (opR w))
  | 5 => some (.fmax (opR w))
  | 6 => some (.fsetp (opR w))
  | 7 => some (.fset (opR w))
  | 8 => some (.fdiv (opR w))
  | 9 => some (.fsqrt (opR w))
  | 10 => some (.frnd (opR w))
  | _ => none

/-- Family 0x19 (R40). -/
def decode19 (w : DWord) : Option Instr :=
  match fFn w with
  | 0 => some (.hadd2 (opR w))
  | 1 => some (.hmul2 (opR w))
  | 2 => some (.hfma2 (opR w))
  | 3 => some (.hmin2 (opR w))
  | 4 => some (.hmax2 (opR w))
  | 5 => some (.hsetp2 (opR w))
  | 6 => some (.hdot2 (opR w))
  | _ => none

/-- Family 0x1A (R40). -/
def decode1A (w : DWord) : Option Instr :=
  match fFn w with
  | 0 => some (.frcp (opR w))
  | 1 => some (.frsq (opR w))
  | 2 => some (.fexp2 (opR w))
  | 3 => some (.flog2 (opR w))
  | 4 => some (.fsin (opR w))
  | 5 => some (.fcos (opR w))
  | 6 => some (.ftanh (opR w))
  | _ => none

/-- Family 0x1B (R40). -/
def decode1B (w : DWord) : Option Instr :=
  match fFn w with
  | 0 => some (.f2i (opR w))
  | 1 => some (.f2u (opR w))
  | 2 => some (.i2f (opR w))
  | 3 => some (.u2f (opR w))
  | 4 => some (.f2h (opR w))
  | 5 => some (.h2f (opR w))
  | 6 => some (.cvtq (opR w))
  | 7 => some (.cvtd (opR w))
  | 8 => some (.xscale (opR w))
  | _ => none

/-- Family 0x20 (R40). -/
def decode20 (w : DWord) : Option Instr :=
  match fFn w with
  | 0 => some (.mov (opR w))
  | 1 => some (.sread (opR w))
  | 2 => some (.kput (opR w))
  | 3 => some (.kget (opR w))
  | _ => none

/-- Family 0x21 (R40). -/
def decode21 (w : DWord) : Option Instr :=
  match fFn w with
  | 0 => some (.tumb (opR w))
  | 1 => some (.xshf (opR w))
  | 2 => some (.xred (opR w))
  | 3 => some (.xscn (opR w))
  | 4 => some (.xbal (opR w))
  | 5 => some (.xvote (opR w))
  | _ => none

/-- Family 0x22 (R40). -/
def decode22 (w : DWord) : Option Instr :=
  match fFn w with
  | 0 => some (.bari (opR w))
  | 1 => some (.bara (opR w))
  | 2 => some (.barw (opR w))
  | 3 => some (.bars (opR w))
  | 4 => some (.semi (opR w))
  | 5 => some (.sems (opR w))
  | 6 => some (.semw (opR w))
  | 7 => some (.semr (opR w))
  | _ => none

/-- Family 0x36 (R40). -/
def decode36 (w : DWord) : Option Instr :=
  match (w.extractLsb' 8 8).toNat with
  | 0 => some (.fence (opS w))
  | 1 => some (.fprom (opS w))
  | 2 => some (.cinv (opS w))
  | 3 => some (.cwb (opS w))
  | _ => none

/-- Family 0x37 (R40). -/
def decode37 (w : DWord) : Option Instr :=
  match (w.extractLsb' 8 8).toNat with
  | 0 => some (.bkvaddf (opS w))
  | 1 => some (.bkvaddi (opS w))
  | 2 => some (.bkvmaxf (opS w))
  | 3 => some (.bkvmaxa (opS w))
  | 4 => some (.bkvaddh (opS w))
  | 5 => some (.bkred (opS w))
  | _ => none

/-- Family 0x38 (R40). -/
def decode38 (w : DWord) : Option Instr :=
  match fFn w with
  | 0 => some (.sharm (opR w))
  | 1 => some (.shpub (opR w))
  | 2 => some (.shdrop (opR w))
  | 3 => some (.shstat (opR w))
  | _ => none

/-- Family 0x39 (R40). -/
def decode39 (w : DWord) : Option Instr :=
  match fFn w with
  | 0 => some (.enq (opE w))
  | 1 => some (.tplw (opE w))
  | 2 => some (.qstat (opE w))
  | 3 => some (.qwait (opE w))
  | 4 => some (.qpop (opE w))
  | 5 => some (.qpush (opE w))
  | _ => none

/-- Family 0x3A (R40). -/
def decode3A (w : DWord) : Option Instr :=
  match fFn w with
  | 0 => some (.tcfg (opR w))
  | 1 => some (.tcfgr (opR w))
  | 2 => some (.tzero (opR w))
  | 3 => some (.tget (opR w))
  | 4 => some (.tset (opR w))
  | _ => none

/-- Family 0x3B (R40). -/
def decode3B (w : DWord) : Option Instr :=
  match (w.extractLsb' 8 6).toNat with
  | 0 => some (.tmma (opT w))
  | 1 => some (.tcvt (opT w))
  | 2 => some (.tadd (opT w))
  | _ => none

/-- Family 0x3C (R40). -/
def decode3C (w : DWord) : Option Instr :=
  match fFn w with
  | 0 => some (.tld (opR w))
  | 1 => some (.tst (opR w))
  | 2 => some (.tdrain (opR w))
  | 3 => some (.tfill (opR w))
  | _ => none

/-- Family 0x3D (R40). -/
def decode3D (w : DWord) : Option Instr :=
  match fFn w with
  | 0 => some (.sample (opR w))
  | 1 => some (.imld (opR w))
  | 2 => some (.imst (opR w))
  | 3 => some (.trace (opR w))
  | 4 => some (.tlist (opR w))
  | _ => none

/-- Family 0x3E (R40). -/
def decode3E (w : DWord) : Option Instr :=
  match fFn w with
  | 0 => some (.launch (opR w))
  | 1 => some (.cancel (opR w))
  | 2 => some (if (fMod w).getLsbD 0 then .cntrAdd (opR w) else .cntrRd (opR w))
  | 3 => some (if (fMod w).getLsbD 0 then .phaseNext (opR w) else .phaseRd (opR w))
  | 4 => some (if (fMod w).getLsbD 0 then .idemOn (opR w) else .idemOff (opR w))
  | _ => none

/-- Family 0x3F (R40). -/
def decode3F (w : DWord) : Option Instr :=
  match fFn w with
  | 0 => some (.csrr (opR w))
  | 1 => some (.csrw (opR w))
  | 2 => some (if (fMod w).getLsbD 0 then .eretExit (opR w) else .eret (opR w))
  | 3 => some (if (fMod w).getLsbD 0 then .haltRel (opR w) else .halt (opR w))
  | 4 => some (.beat (opR w))
  | 5 => some (.hinge (opR w))
  | 6 => match modField (fMod w) 0 2 with
    | 0 => some (.captGroup (opR w))
    | 1 => some (.captCore (opR w))
    | 2 => some (.captResume (opR w))
    | _ => none
  | 7 => match modField (fMod w) 0 2 with
    | 0 => some (.tinvInv (opR w))
    | 1 => some (.tinvRetry (opR w))
    | 2 => some (.tinvFail (opR w))
    | _ => none
  | _ => none

/-- ATOM and RED: FN[7:0] names the operation (R40). -/
def decodeAtom (w : DWord) (mk : OpA → Instr) : Option Instr :=
  (atomOpOf (w.extractLsb' 8 8).toNat).map fun op => mk (opA w op)

/-- The instruction a word names, its reserved fields and codes not yet checked (R40); the outer `none` where the major
opcode is unassigned, the inner where the function value is. -/
def decodeShape (w : DWord) : Option (Option Instr) :=
  match fMaj w with
  | 1 => some (decode01 w)
  | 2 => some (some (.bra (opJ w)))
  | 3 => some (some (.call (opJ w)))
  | 4 => some (decode04 w)
  | 8 => some (decode08 w)
  | 16 => some (decode10 w)
  | 17 => some (decode11 w)
  | 18 => some (decode12 w)
  | 19 => some (decode13 w)
  | 24 => some (decode18 w)
  | 25 => some (decode19 w)
  | 26 => some (decode1A w)
  | 27 => some (decode1B w)
  | 32 => some (decode20 w)
  | 33 => some (decode21 w)
  | 34 => some (decode22 w)
  | 48 => some (some (.ld (opM w)))
  | 49 => some (some (.st (opM w)))
  | 50 => some (some (.ldsc (opM w)))
  | 51 => some (some (.stsc (opM w)))
  | 52 => some (decodeAtom w .atom)
  | 53 => some (decodeAtom w .red_)
  | 54 => some (decode36 w)
  | 55 => some (decode37 w)
  | 56 => some (decode38 w)
  | 57 => some (decode39 w)
  | 58 => some (decode3A w)
  | 59 => some (decode3B w)
  | 60 => some (decode3C w)
  | 61 => some (decode3D w)
  | 62 => some (decode3E w)
  | 63 => some (decode3F w)
  | _ => none

/-- The A field of formats M and J, and the C field of families 0x36 and 0x37, are reserved (R23, R24). -/
def hiddenOk (w : DWord) : Bool :=
  let maj := fMaj w
  if maj == 2 || maj == 3 || (0x30 ≤ maj && maj ≤ 0x33) then fA w == 0
  else if maj == 0x36 || maj == 0x37 then fC w == 0
  else true

/-- Decoding of one word (R22 step 2). -/
def decode (w : DWord) : Except DecodeError Instr :=
  match decodeShape w with
  | none => .error .unassignedMajor
  | some none => .error .unassignedFunction
  | some (some i) =>
    if !i.guardOk then .error .reservedGuard
    else if !(hiddenOk w && i.reservedOk) then .error .reservedField
    else if !i.codesOk then .error .reservedCode
    else .ok i

/-- The word whose eight bytes stand in memory, least significant first (R19, R3). -/
def wordOfBytes (l : List Byte) : DWord :=
  l.foldr (fun b acc => (acc <<< 8) ||| b.setWidth 64) 0

/-- The bytes of a word as the device stores it (R19). -/
def bytesOfWord (w : DWord) : List Byte :=
  [w.extractLsb' 0 8, w.extractLsb' 8 8, w.extractLsb' 16 8, w.extractLsb' 24 8,
    w.extractLsb' 32 8, w.extractLsb' 40 8, w.extractLsb' 48 8, w.extractLsb' 56 8]

/-- Decoding of any bytes: an instruction with the rest, or the reason; fewer than eight bytes hold no word. -/
def decodeBytes (l : List Byte) : Option (Except DecodeError Instr × List Byte) :=
  if l.length < 8 then none else some (decode (wordOfBytes (l.take 8)), l.drop 8)

/-- The instruction that bits `w`, numbered as spec/opcode_table.json numbers them, decode to. Every word of this device
has 64 bits. -/
def decodeTableWord (_nbits w : Nat) : Option Instr :=
  match decodeBytes (bytesOfWord (BitVec.ofNat 64 w)) with
  | some (.ok i, _) => some i
  | _ => none

/-! ## Encoding, from the same tables -/

/-- The common fields [63:52]. -/
def encHead (maj : BitVec 8) (g : GuardF) : BitVec 12 := maj ++ (BitVec.ofBool g.pn) ++ g.pi

/-- The words of each format (R23). -/
def encR (maj : BitVec 8) (fn : BitVec 12) (o : OpR) : DWord :=
  encHead maj o.g ++ o.d ++ o.a ++ o.b ++ o.c ++ fn ++ o.mod
def encS (maj : BitVec 8) (fn : BitVec 8) (o : OpS) : DWord :=
  encHead maj o.g ++ o.d ++ o.a ++ o.b ++ (0 : BitVec 8) ++ o.scope ++ fn ++ o.mod
def encA (maj : BitVec 8) (o : OpA) : DWord :=
  encHead maj o.g ++ o.d ++ o.a ++ o.b ++ o.c ++ o.scope ++ atomOpCode o.op ++ o.mod
def encI (maj : BitVec 8) (fn : BitVec 4) (o : OpI) : DWord := encHead maj o.g ++ o.d ++ o.a ++ o.imm ++ fn
def encM (maj : BitVec 8) (o : OpM) : DWord :=
  encHead maj o.g ++ o.d ++ (0 : BitVec 8) ++ o.b ++ o.off ++ o.scope ++ o.mod
def encJ (maj : BitVec 8) (o : OpJ) : DWord := encHead maj o.g ++ o.d ++ (0 : BitVec 8) ++ o.rel
def encE (maj : BitVec 8) (fn : BitVec 12) (o : OpE) : DWord :=
  encHead maj o.g ++ o.d ++ o.a ++ o.b ++ o.q ++ fn ++ o.mod
def encT (maj : BitVec 8) (fn : BitVec 6) (o : OpT) : DWord :=
  encHead maj o.g ++ o.td ++ o.ta ++ o.tb ++ o.ts ++ o.ea ++ o.eb ++ o.acc ++ o.gran ++ fn ++ o.mod

/-- The word of an instruction; a step of the device has none. -/
def encode (i : Instr) : Option DWord :=
  match i with
  | .nop o => some (encR 0x01 0 o)
  | .bra o => some (encJ 0x02 o)
  | .call o => some (encJ 0x03 o)
  | .brx o => some (encR 0x04 0 o)
  | .callx o => some (encR 0x04 1 o)
  | .ret o => some (encR 0x04 2 o)
  | .exit_ o => some (encR 0x04 3 o)
  | .yield o => some (encR 0x04 4 o)
  | .trap o => some (encR 0x04 5 o)
  | .brk o => some (encR 0x04 6 o)
  | .sleep o => some (encR 0x04 7 o)
  | .movi o => some (encI 0x08 0 o)
  | .movih o => some (encI 0x08 1 o)
  | .iaddi o => some (encI 0x08 2 o)
  | .imuli o => some (encI 0x08 3 o)
  | .andi o => some (encI 0x08 4 o)
  | .ori o => some (encI 0x08 5 o)
  | .xori o => some (encI 0x08 6 o)
  | .shli o => some (encI 0x08 7 o)
  | .shri o => some (encI 0x08 8 o)
  | .sari o => some (encI 0x08 9 o)
  | .aaddi o => some (encI 0x08 10 o)
  | .iadd o => some (encR 0x10 0 o)
  | .isub o => some (encR 0x10 1 o)
  | .imul o => some (encR 0x10 2 o)
  | .imulh o => some (encR 0x10 3 o)
  | .imulhu o => some (encR 0x10 4 o)
  | .imad o => some (encR 0x10 5 o)
  | .imin o => some (encR 0x10 6 o)
  | .imax o => some (encR 0x10 7 o)
  | .umin o => some (encR 0x10 8 o)
  | .umax o => some (encR 0x10 9 o)
  | .iabs o => some (encR 0x10 10 o)
  | .iadds o => some (encR 0x10 11 o)
  | .isubs o => some (encR 0x10 12 o)
  | .idiv o => some (encR 0x10 13 o)
  | .udiv o => some (encR 0x10 14 o)
  | .irem o => some (encR 0x10 15 o)
  | .urem o => some (encR 0x10 16 o)
  | .dp4a o => some (encR 0x10 17 o)
  | .dp4au o => some (encR 0x10 18 o)
  | .and_ o => some (encR 0x11 0 o)
  | .or_ o => some (encR 0x11 1 o)
  | .xor_ o => some (encR 0x11 2 o)
  | .andn o => some (encR 0x11 3 o)
  | .blut o => some (encR 0x11 4 o)
  | .shl o => some (encR 0x11 5 o)
  | .shr_ o => some (encR 0x11 6 o)
  | .sar o => some (encR 0x11 7 o)
  | .rol o => some (encR 0x11 8 o)
  | .bfe o => some (encR 0x11 9 o)
  | .bfeu o => some (encR 0x11 10 o)
  | .bfi o => some (encR 0x11 11 o)
  | .popc o => some (encR 0x11 12 o)
  | .clz o => some (encR 0x11 13 o)
  | .brev o => some (encR 0x11 14 o)
  | .bshuf o => some (encR 0x11 15 o)
  | .icmp o => some (encR 0x12 0 o)
  | .icmpm o => some (encR 0x12 1 o)
  | .sel o => some (encR 0x12 2 o)
  | .plut o => some (encR 0x12 3 o)
  | .pgat o => some (encR 0x12 4 o)
  | .pscat o => some (encR 0x12 5 o)
  | .aadd o => some (encR 0x13 0 o)
  | .asub o => some (encR 0x13 1 o)
  | .acmp o => some (encR 0x13 2 o)
  | .shl64 o => some (encR 0x13 3 o)
  | .shr64 o => some (encR 0x13 4 o)
  | .iadd64 o => some (encR 0x13 5 o)
  | .imul64 o => some (encR 0x13 6 o)
  | .amov o => some (encR 0x13 7 o)
  | .fadd o => some (encR 0x18 0 o)
  | .fsub o => some (encR 0x18 1 o)
  | .fmul o => some (encR 0x18 2 o)
  | .ffma o => some (encR 0x18 3 o)
  | .fmin o => some (encR 0x18 4 o)
  | .fmax o => some (encR 0x18 5 o)
  | .fsetp o => some (encR 0x18 6 o)
  | .fset o => some (encR 0x18 7 o)
  | .fdiv o => some (encR 0x18 8 o)
  | .fsqrt o => some (encR 0x18 9 o)
  | .frnd o => some (encR 0x18 10 o)
  | .hadd2 o => some (encR 0x19 0 o)
  | .hmul2 o => some (encR 0x19 1 o)
  | .hfma2 o => some (encR 0x19 2 o)
  | .hmin2 o => some (encR 0x19 3 o)
  | .hmax2 o => some (encR 0x19 4 o)
  | .hsetp2 o => some (encR 0x19 5 o)
  | .hdot2 o => some (encR 0x19 6 o)
  | .frcp o => some (encR 0x1A 0 o)
  | .frsq o => some (encR 0x1A 1 o)
  | .fexp2 o => some (encR 0x1A 2 o)
  | .flog2 o => some (encR 0x1A 3 o)
  | .fsin o => some (encR 0x1A 4 o)
  | .fcos o => some (encR 0x1A 5 o)
  | .ftanh o => some (encR 0x1A 6 o)
  | .f2i o => some (encR 0x1B 0 o)
  | .f2u o => some (encR 0x1B 1 o)
  | .i2f o => some (encR 0x1B 2 o)
  | .u2f o => some (encR 0x1B 3 o)
  | .f2h o => some (encR 0x1B 4 o)
  | .h2f o => some (encR 0x1B 5 o)
  | .cvtq o => some (encR 0x1B 6 o)
  | .cvtd o => some (encR 0x1B 7 o)
  | .xscale o => some (encR 0x1B 8 o)
  | .mov o => some (encR 0x20 0 o)
  | .sread o => some (encR 0x20 1 o)
  | .kput o => some (encR 0x20 2 o)
  | .kget o => some (encR 0x20 3 o)
  | .tumb o => some (encR 0x21 0 o)
  | .xshf o => some (encR 0x21 1 o)
  | .xred o => some (encR 0x21 2 o)
  | .xscn o => some (encR 0x21 3 o)
  | .xbal o => some (encR 0x21 4 o)
  | .xvote o => some (encR 0x21 5 o)
  | .bari o => some (encR 0x22 0 o)
  | .bara o => some (encR 0x22 1 o)
  | .barw o => some (encR 0x22 2 o)
  | .bars o => some (encR 0x22 3 o)
  | .semi o => some (encR 0x22 4 o)
  | .sems o => some (encR 0x22 5 o)
  | .semw o => some (encR 0x22 6 o)
  | .semr o => some (encR 0x22 7 o)
  | .ld o => some (encM 0x30 o)
  | .st o => some (encM 0x31 o)
  | .ldsc o => some (encM 0x32 o)
  | .stsc o => some (encM 0x33 o)
  | .atom o => some (encA 0x34 o)
  | .red_ o => some (encA 0x35 o)
  | .fence o => some (encS 0x36 0 o)
  | .fprom o => some (encS 0x36 1 o)
  | .cinv o => some (encS 0x36 2 o)
  | .cwb o => some (encS 0x36 3 o)
  | .bkvaddf o => some (encS 0x37 0 o)
  | .bkvaddi o => some (encS 0x37 1 o)
  | .bkvmaxf o => some (encS 0x37 2 o)
  | .bkvmaxa o => some (encS 0x37 3 o)
  | .bkvaddh o => some (encS 0x37 4 o)
  | .bkred o => some (encS 0x37 5 o)
  | .sharm o => some (encR 0x38 0 o)
  | .shpub o => some (encR 0x38 1 o)
  | .shdrop o => some (encR 0x38 2 o)
  | .shstat o => some (encR 0x38 3 o)
  | .enq o => some (encE 0x39 0 o)
  | .tplw o => some (encE 0x39 1 o)
  | .qstat o => some (encE 0x39 2 o)
  | .qwait o => some (encE 0x39 3 o)
  | .qpop o => some (encE 0x39 4 o)
  | .qpush o => some (encE 0x39 5 o)
  | .tcfg o => some (encR 0x3A 0 o)
  | .tcfgr o => some (encR 0x3A 1 o)
  | .tzero o => some (encR 0x3A 2 o)
  | .tget o => some (encR 0x3A 3 o)
  | .tset o => some (encR 0x3A 4 o)
  | .tmma o => some (encT 0x3B 0 o)
  | .tcvt o => some (encT 0x3B 1 o)
  | .tadd o => some (encT 0x3B 2 o)
  | .tld o => some (encR 0x3C 0 o)
  | .tst o => some (encR 0x3C 1 o)
  | .tdrain o => some (encR 0x3C 2 o)
  | .tfill o => some (encR 0x3C 3 o)
  | .sample o => some (encR 0x3D 0 o)
  | .imld o => some (encR 0x3D 1 o)
  | .imst o => some (encR 0x3D 2 o)
  | .trace o => some (encR 0x3D 3 o)
  | .tlist o => some (encR 0x3D 4 o)
  | .launch o => some (encR 0x3E 0 o)
  | .cancel o => some (encR 0x3E 1 o)
  | .cntrRd o => some (encR 0x3E 2 o)
  | .cntrAdd o => some (encR 0x3E 2 o)
  | .phaseRd o => some (encR 0x3E 3 o)
  | .phaseNext o => some (encR 0x3E 3 o)
  | .idemOff o => some (encR 0x3E 4 o)
  | .idemOn o => some (encR 0x3E 4 o)
  | .csrr o => some (encR 0x3F 0 o)
  | .csrw o => some (encR 0x3F 1 o)
  | .eret o => some (encR 0x3F 2 o)
  | .eretExit o => some (encR 0x3F 2 o)
  | .halt o => some (encR 0x3F 3 o)
  | .haltRel o => some (encR 0x3F 3 o)
  | .beat o => some (encR 0x3F 4 o)
  | .hinge o => some (encR 0x3F 5 o)
  | .captGroup o => some (encR 0x3F 6 o)
  | .captCore o => some (encR 0x3F 6 o)
  | .captResume o => some (encR 0x3F 6 o)
  | .tinvInv o => some (encR 0x3F 7 o)
  | .tinvRetry o => some (encR 0x3F 7 o)
  | .tinvFail o => some (encR 0x3F 7 o)
  | _ => none

end Sys2Proof
end

