-- ==== Sys2Proof/Machine/Issue.lean ====
section
/-!
DEFINITION. Fetch (02_encoding R22, R45), the active set (07_group R142, R143) and the issue stage (08_thread R162, R163): the
bundles a core forms in one cycle. The threads of a bundle then execute one by one (R164).
-/

namespace Sys2Proof.Machine

/-! ## Fetch -/

/-- The access that fetches the word at an address. -/
def fetchAcc (e : Env) (pc : DWord) : Acc :=
  { die := e.die, core := e.core, ctx := e.ctx, sup := e.sup, kind := 2, l1 := false, va := pc.toNat, n := 8, req := .agent e.who }

/-- An instruction line enters a core. -/
def installIline (s : State) (core : Option Nat) (l : CLine) : State :=
  match core with
  | some c => modCore s c fun k => { k with ilines := l :: k.ilines }
  | none => s

/-- Word `o / 8` of a line. -/
def lineWord (l : Line) (o : Nat) : DWord := l.extractLsb' (8 * o) 64

/-- The word at a PC, as an access under R224: from an instruction line of the core, else from the home, whose line the core then
holds. The spec lets a fetch take older and newer words in any mix until the lines go (R45); the model fetches and holds whole lines
(notes/assumptions 57). -/
def fetchWord (s : State) (e : Env) (pc : DWord) : Except Stop (DWord × State) :=
  let va := pc.toNat
  let a := fetchAcc e pc
  if !vaOk va then .error (.fault { code := 5, va := va % 2 ^ 56 })
  else if va % 8 ≠ 0 then .error (.fault { code := 4, va := va })
  else match check s a with
    | .error x => .error x
    | .ok (t, s) =>
      match (if t.hitL1 then findLine (coreLines s a) t.tag (va / 128) t.gen else none) with
      | some c => .ok (lineWord c.data (va % 128), s)
      | none =>
        match dataFault s t with
        | some f => .error (.fault f)
        | none =>
          match homeLine s a.req e.ctx true false t with
          | .error x => .error x
          | .ok (l, s) =>
            .ok (lineWord l (va % 128), installIline s e.core
              { tag := t.tag, line := va / 128, gen := t.gen, frame := t.frame, attr := t.attr, data := l })

/-! ## Issue port classes (R162) -/

/-- The issue port classes. -/
inductive Port where
  | arith | mem | branch
  deriving DecidableEq, Repr

/-- The class of a word by its family; MOV and SREAD of 0x20 are arithmetic. A word that encodes nothing takes the branch port (notes/assumptions
14). -/
def portClass (w : DWord) : Port :=
  let m := fMaj w
  if m = 0x20 then (if fFn w ≤ 1 then .arith else .branch)
  else if m = 0x08 ∨ (0x10 ≤ m ∧ m ≤ 0x13) ∨ (0x18 ≤ m ∧ m ≤ 0x1B) then .arith
  else if (0x30 ≤ m ∧ m ≤ 0x38) ∨ m = 0x3C ∨ m = 0x3D then .mem
  else .branch

/-- The class of the word a thread stands at; a fetch that does not succeed takes the branch port (notes/assumptions 14). -/
def nextPort (s : State) (e : Env) (pc : DWord) : Port :=
  match fetchWord s e pc with
  | .ok (w, _) => portClass w
  | .error _ => .branch

/-! ## The active set (R142, R143) -/

/-- The ready threads of the slice in a slot, where it is RUNNING. -/
def readyOf (s : State) (v : Slot) : List (Nat × Thread) :=
  match getGroup s v.gid with
  | none => []
  | some g =>
    if g.state != .running then []
    else (upTo g.threads.length).filterMap fun tid =>
      match g.threads[tid]? with
      | some t => if rankOf g tid == v.rank && t.st == .ready then some (tid, t) else none
      | none => none

/-- The oldest stamp among threads. -/
def oldestStamp (l : List (Nat × Thread)) : Nat := (l.map fun t => t.2.stamp).foldl min (2 ^ 80)

/-- The waiting slices of a core, the one whose thread has been ready longest first (notes/assumptions 14). -/
def waitingSlots (s : State) (core : Nat) : List Nat :=
  let l := (getCore s core).slots.filter fun v => v.2.active.isNone && !(readyOf s v.2).isEmpty
  (sortBy (fun v => oldestStamp (readyOf s v.2)) l).map (·.1)

/-- The members of the active set. -/
def activeSlots (s : State) (core : Nat) : List (Nat × Slot) := (getCore s core).slots.filter fun v => v.2.active.isSome

/-- A slot enters or leaves the active set. -/
def setActive (s : State) (core slot : Nat) (v : Option Nat) : State :=
  modCore s core fun k =>
    match SMap.find k.slots slot with
    | some x => { k with slots := SMap.set k.slots slot { x with active := v } }
    | none => k

/-- Waiting slices enter the free entries of the active set. -/
def fillActive (s : State) (core : Nat) : State :=
  ((waitingSlots s core).take (8 - (activeSlots s core).length)).foldl
    (fun s i => setActive s core i (some (coreCycle s core))) s

/-- The member that R143 replaces, if any; among several with no ready thread the one in the lowest slot (notes/assumptions 14). -/
def replacedSlot (s : State) (core : Nat) : Option Nat :=
  let l := activeSlots s core
  match l.find? fun v => (readyOf s v.2).isEmpty with
  | some v => some v.1
  | none =>
    let old := l.filter fun v => coreCycle s core - v.2.active.getD 0 ≥ 256
    ((sortBy (fun v => v.2.active.getD 0) old).head?).map (·.1)

/-- Can a member be replaced now? -/
def replaceDue (s : State) (core : Nat) : Bool :=
  (activeSlots s core).length ≥ 8 && !(waitingSlots s core).isEmpty && (replacedSlot s core).isSome

/-- ACTIVE_SET_REPLACE (R143) on core n1. -/
def execActiveSetReplace (s : State) : Host.Outcome State Fault Refusal :=
  let core := s.arg.n1
  if !replaceDue s core then .next s
  else match replacedSlot s core, (waitingSlots s core).head? with
    | some o, some n => .next (setActive (setActive s core o none) core n (some (coreCycle s core)))
    | _, _ => .next s

/-! ## Bundles (R163) -/

/-- A thread that may join a bundle: its slot (64 for the service span), tid, lane, stamp, PC and port class. -/
structure Cand where
  who : Agent
  slot : Nat
  tid : Nat
  stamp : Nat
  pc : DWord
  port : Port
  deriving DecidableEq, Repr

/-- The candidates of a core; on a halted one only lanes 1 to 31 issue (R360), and a steward that was in the middle of an instruction goes on to its
end. -/
def candidates (s : State) (core : Nat) : List Cand :=
  let k := getCore s core
  if !k.running then []
  else
    let mk (who : Agent) (slot tid : Nat) (t : Thread) : Cand :=
      { who := who, slot := slot, tid := tid, stamp := t.stamp, pc := t.pc, port := nextPort s (envOf s who) t.pc }
    (if k.halted then [] else
      (activeSlots s core).flatMap fun v => (readyOf s v.2).map fun t => mk (.thread v.2.gid t.1) v.1 t.1 t.2) ++
    ((k.lanes.filter fun l => l.2.busy && l.2.th.st == .ready && !(k.halted && l.1 == 0 && !l.2.th.finishing)).map fun l => mk (.lane core l.1) 64 l.1 l.2.th)

/-- Does a candidate come before another as leader: the older stamp, then the lower slot, then the lower tid? -/
def Cand.before (a b : Cand) : Bool :=
  a.stamp < b.stamp || (a.stamp == b.stamp && (a.slot < b.slot || (a.slot == b.slot && a.tid < b.tid)))

/-- The first candidate of a list in that order. -/
def firstCand (l : List Cand) : Option Cand :=
  l.foldl (fun o c => match o with | some b => some (if c.before b then c else b) | none => some c) none

/-- One bundle of a class: the leader, and for every other lane of its slice the first thread at its PC; in ascending tid. -/
def formBundle (l : List Cand) (p : Port) : List Cand :=
  let l := l.filter fun c => c.port == p
  match firstCand l with
  | none => []
  | some b =>
    let same := l.filter fun c => c.slot == b.slot && c.pc == b.pc && c.tid % 32 != b.tid % 32
    let picks := (upTo 32).filterMap fun k => firstCand (same.filter fun c => c.tid % 32 == k)
    sortBy (·.tid) (b :: picks)

/-- The bundles of one cycle: two of the arithmetic class, one of each other class (R162, R163). -/
def formBundles (l : List Cand) (ports : List Port) : List (List Agent) :=
  match ports with
  | [] => []
  | p :: r =>
    let b := formBundle l p
    b.map (·.who) :: formBundles (l.filter fun c => !(b.any fun x => x.who == c.who)) r

/-- The threads of one bundle are FUSED and execute next (R161, R164); the bundle has an identity. -/
def fuse (s : State) (l : List Agent) : State :=
  if l.isEmpty then s
  else
    let (id, s) := fresh s
    let s := l.foldl (fun s a => modThread s a fun t => { t with st := .fused, bids := id :: t.bids }) s
    { s with bundle := s.bundle ++ l }

/-- The bundles a core forms in a cycle. -/
def cycleBundles (s : State) (core : Nat) : List (List Agent) :=
  (formBundles (candidates s core) [.arith, .arith, .mem, .branch]).filter fun b => !b.isEmpty

/-- ISSUE_CYCLE (R163) of core n1; a core forms bundles once in a cycle. -/
def execIssueCycle (s : State) : Host.Outcome State Fault Refusal :=
  let c := s.arg.n1
  let s := fillActive s c
  let l := cycleBundles s c
  if l.isEmpty || (getCore s c).issued == some (dieCycle s (dieOf c)) then .next s
  else .next (l.foldl fuse (modCore s c fun k => { k with issued := some (dieCycle s (dieOf c)) }))

/-- A sextant core that is running and not stopped by EXIT issues alone; the boot ROM's own program is no part of the model, which takes what it does as
the steps of R370 to R372 (notes/assumptions 34). -/
def sextantReady (s : State) (d : Nat) : Bool :=
  d < 16 && (getDie s d).sx.running && !(getDie s d).sx.rom && (getDie s d).sx.th.st == .ready

/-- A sextant core issues. -/
def sextantIssue (s : State) (d : Nat) : State := if sextantReady s d then fuse s [.sextant d] else s

/-- A fetch has brought its word: a sextant core's first fetch is over (R373). -/
def fetched (s : State) (a : Agent) : State :=
  match a with
  | .sextant d => if (getDie s d).sx.first then modDie s d fun v => { v with sx := { v.sx with first := false } } else s
  | _ => s

/-- A fetch that waits binds nothing: the instruction has not issued (R250, R384). -/
def fetchWait (s : State) (a : Agent) (w : Wait) : State :=
  let v := ((getThread s a).map (·.view)).getD none
  modThread (takeStop s a (.wait w)) a fun t => { t with view := v }

/-- A fetch that stops; one that faults for a thread with requests under way waits for them, which may trap it first (R345). A trap of a sextant core's
first fetch, with SXVEC at its reset value, is taken as one inside an exception (R373, R380). -/
def fetchStop (s : State) (a : Agent) (p : Stop) : State :=
  match p with
  | .wait w => fetchWait s a w
  | .fault _ =>
    if hasPend s a then waitAt s a .pending
    else match a with
      | .sextant d =>
        if (getDie s d).sx.first && (getDie s d).sx.vec == 0 then
          takeStop (modDie s d fun v => { v with sx := { v.sx with inExc := true } }) a p
        else takeStop s a p
      | _ => takeStop s a p

end Sys2Proof.Machine
end

