-- ==== Sys2Proof/Machine/Logic.lean ====
section
/-!
DEFINITION. The logic, shift and bit-field family 0x11 (08_thread R172).
-/

namespace Sys2Proof.Machine

/-- AND (R172). -/
def execAnd (o : OpR) (s : State) : Host.Outcome State Fault Refusal := intOp2 s o fun a b => a &&& b

/-- OR (R172). -/
def execOr (o : OpR) (s : State) : Host.Outcome State Fault Refusal := intOp2 s o fun a b => a ||| b

/-- XOR (R172). -/
def execXor (o : OpR) (s : State) : Host.Outcome State Fault Refusal := intOp2 s o fun a b => a ^^^ b

/-- ANDN: a and not b (R172). -/
def execAndn (o : OpR) (s : State) : Host.Outcome State Fault Refusal := intOp2 s o fun a b => a &&& ~~~b

/-- BLUT: MOD is the table, and no operand is a k register (R172). -/
def execBlut (o : OpR) (s : State) : Host.Outcome State Fault Refusal := plainOp3 s o (blut o.mod)

/-- SHL (R172). -/
def execShl (o : OpR) (s : State) : Host.Outcome State Fault Refusal := intOp2 s o shl

/-- SHR (R172). -/
def execShr (o : OpR) (s : State) : Host.Outcome State Fault Refusal := intOp2 s o shr

/-- SAR (R172). -/
def execSar (o : OpR) (s : State) : Host.Outcome State Fault Refusal := intOp2 s o sar

/-- ROL (R172). -/
def execRol (o : OpR) (s : State) : Host.Outcome State Fault Refusal := intOp2 s o rol

/-- BFE (R172). -/
def execBfe (o : OpR) (s : State) : Host.Outcome State Fault Refusal := intOp2 s o bfe

/-- BFEU (R172). -/
def execBfeu (o : OpR) (s : State) : Host.Outcome State Fault Refusal := intOp2 s o bfeu

/-- BFI (R172). -/
def execBfi (o : OpR) (s : State) : Host.Outcome State Fault Refusal := intOp3 s o bfi

/-- POPC (R172). -/
def execPopc (o : OpR) (s : State) : Host.Outcome State Fault Refusal := intOp1 s o fun a => BitVec.ofNat 32 (popCount a.toNat 32)

/-- CLZ (R172). -/
def execClz (o : OpR) (s : State) : Host.Outcome State Fault Refusal := intOp1 s o clz

/-- BREV (R172). -/
def execBrev (o : OpR) (s : State) : Host.Outcome State Fault Refusal := intOp1 s o fun a => BitVec.ofNat 32 (reverseBits a.toNat 32)

/-- BSHUF (R172). -/
def execBshuf (o : OpR) (s : State) : Host.Outcome State Fault Refusal := intOp3 s o bshuf

end Sys2Proof.Machine
end

