-- ==== Sys2Proof/Machine/Move.lean ====
section
/-!
DEFINITION. Moves, special registers and uniform registers (08_thread R175 to R177; family 0x20).
-/

namespace Sys2Proof.Machine

/-- MOV (R175). -/
def execMov (o : OpR) (s : State) : Host.Outcome State Fault Refusal :=
  regOp s o.g o.d [.sx o.a] fun _ t => readX t o.a.toNat

/-- The special registers of R176, in a group, in a service lane and on a sextant core. -/
def specialReg (s : State) (e : Env) (n : Nat) : Word :=
  let g := e.group s
  let w (v : Nat) : Word := BitVec.ofNat 32 v
  let inGroup (v : Nat) : Word := if e.inGroup then w v else 0
  let laned (v : Nat) : Word := if e.inGroup then w v else if e.onSextant then 0 else w e.tid
  match n with
  | 0 => laned (e.tid % g.gx)
  | 1 => inGroup (e.tid / g.gx % g.gy)
  | 2 => inGroup (e.tid / (g.gx * g.gy))
  | 3 => laned e.tid
  | 4 => if e.inGroup then w (g.gx * g.gy * g.gz) else if e.onSextant then 0 else 32
  | 5 => inGroup (g.flat % g.lx)
  | 6 => inGroup (g.flat / g.lx % g.ly)
  | 7 => inGroup (g.flat / (g.lx * g.ly))
  | 8 => laned e.lane
  | 9 => match e.core with | some c => w c | none => 0xFFFFFFFF
  | 10 => w e.die
  | 11 => inGroup e.rank
  | 12 => if e.inGroup then g.lid else 0
  | 13 => inGroup e.ctx
  | 14 => w (cyclesOf s e)
  | 15 => w (cyclesOf s e / 2 ^ 32)
  | 16 => w s.dev.tick
  | 17 => w (s.dev.tick / 2 ^ 32)
  | 18 => inGroup g.depth
  | _ => inGroup g.variant

/-- SREAD (R175, R176): a code of 20 or above traps 0x02. -/
def execSread (o : OpR) (s : State) : Host.Outcome State Fault Refusal :=
  issue s o.g { lim := fun _ => o.b.toNat > 19 } [.dx o.d] fun e t =>
    retire s e (writeX t o.d.toNat (specialReg s e o.b.toNat))

/-- KPUT (R175, R177): k[D] := x[A] on every copy of the group. -/
def execKput (o : OpR) (s : State) : Host.Outcome State Fault Refusal :=
  issue s o.g { place := .group } [.kx o.d, .sx o.a] fun e t =>
    retire (modGroup s e.gid fun g => { g with k := g.k.map fun m => SMap.set m o.d.toNat (readX t o.a.toNat) }) e t

/-- KGET (R175, R177): the issuing core's copy. -/
def execKget (o : OpR) (s : State) : Host.Outcome State Fault Refusal :=
  issue s o.g { place := .group } [.dx o.d, .kx o.a] fun e t => retire s e (writeX t o.d.toNat (readK s e o.a.toNat))

end Sys2Proof.Machine
end

