-- ==== Sys2Proof/Machine/Packed.lean ====
section
/-!
DEFINITION. The packed 16-bit family 0x19 (09_thread_float R183, R184).
-/

namespace Sys2Proof.Machine

/-- HADD2 (R183). -/
def execHadd2 (o : OpR) (s : State) : Host.Outcome State Fault Refusal :=
  plainOp2 s o (half2 (halfElem o.mod) fun a b => a.add b .rne)

/-- HMUL2 (R183). -/
def execHmul2 (o : OpR) (s : State) : Host.Outcome State Fault Refusal := plainOp2 s o (half2 (halfElem o.mod) Val.mul)

/-- HFMA2: rounded once (R183). -/
def execHfma2 (o : OpR) (s : State) : Host.Outcome State Fault Refusal := plainOp3 s o (hfma2 (halfElem o.mod))

/-- MinNum or MaxNum of both elements (R181, R183). -/
def halfPick (t : Elem) (f : Nat → Nat → Elem → Nat) (a b : Word) : Word :=
  packHalf (f (half a 0) (half b 0) t) (f (half a 1) (half b 1) t)

/-- HMIN2 (R183). -/
def execHmin2 (o : OpR) (s : State) : Host.Outcome State Fault Refusal := plainOp2 s o (halfPick (halfElem o.mod) minNum)

/-- HMAX2 (R183). -/
def execHmax2 (o : OpR) (s : State) : Host.Outcome State Fault Refusal := plainOp2 s o (halfPick (halfElem o.mod) maxNum)

/-- HSETP2 (R184): p[D] and p[D+1]; D is 0, 2, 4 or 6. -/
def execHsetp2 (o : OpR) (s : State) : Host.Outcome State Fault Refusal :=
  issue s o.g { lim := fun _ => o.d.toNat % 2 != 0 || o.d.toNat > 6 } [.sx o.a, .sx o.b] fun e t =>
    let c (i : Nat) : Bool :=
      floatCondHolds (o.c.toNat % 16) (decodeElem (half (readX t o.a.toNat) i) (halfElem o.mod))
        (decodeElem (half (readX t o.b.toNat) i) (halfElem o.mod))
    retire s e (writeP (writeP t o.d.toNat (c 0)) (o.d.toNat + 1) (c 1))

/-- HDOT2 (R184). -/
def execHdot2 (o : OpR) (s : State) : Host.Outcome State Fault Refusal := plainOp3 s o (hdot2 (halfElem o.mod))

end Sys2Proof.Machine
end

