-- ==== Sys2Proof/Machine/Ports.lean ====
section
/-!
DEFINITION. What hosts and peers ask at the ports, in the order of each port (16_link R323): accesses to host windows (R320, R322, R324), doorbells
(19_bringup R376), BAR0 (R375), and the commands FWCMD, MBDB and QCMD (R370, R377, R378). A request that cannot be served when it arrives is kept until
it can be (R323, R387).
-/

namespace Sys2Proof.Machine

/-! ## The order of a port -/

/-- Does a request write? -/
def PortReq.writes (r : PortReq) : Bool :=
  match r with
  | .window (.write _ _ _) | .window (.atomic _ _ _ _ _ _) => true
  | .window (.read _ _ _) | .window (.reserved _) => false
  | .bar0Read _ _ _ => false
  | .doorbell _ _ | .bar0 _ _ | .fwcmd _ | .mbdb | .qcmd _ => true

/-- Is a request answered with a completion? -/
def PortReq.answered (r : PortReq) (port : Nat) : Bool :=
  match r with
  | .window (.read _ _ _) | .window (.atomic _ _ _ _ _ _) | .bar0Read _ _ _ => true
  | .window (.write _ _ _) => port ≥ 4
  | _ => false

/-- May a request be served: every earlier write of its port is performed, and before a write, which is a release at system scope for them, has
reached every copy (R241, R323)? -/
def hostTurn (s : State) (q : HostReq) : Bool :=
  !((s.hostq.takeWhile fun x => x.id != q.id).any fun x => x.port == q.port && x.req.writes) &&
    !(q.req.writes && s.repls.any fun r => r.who == portParty q.port)

/-- An access to a window is served, or has to wait. A message of a reserved OP is dropped and counted in ERRS (R312). -/
def tryWindow (s : State) (q : HostReq) (r : PeerReq) : Except Stop State :=
  match r with
  | .read off n id => hostRead s q off n id
  | .write off b id => hostWrite s q off b id
  | .atomic off op wide b c id => hostAtomicAt s q off op wide b c id
  | .reserved _ => .ok (raiseErrs s (portLink q.port))

/-- A request of a host or peer is served, or has to wait: one whose completion no port could carry now too (R316); at a peer port the link keeps
it (R315). -/
def tryHost (s : State) (q : HostReq) : Except Stop State :=
  if !hostTurn s q || (q.port < 4 && q.req.answered q.port && !portOpen s q.port) then .error (.wait .pending)
  else match q.req with
    | .window r => tryWindow s q r
    | .doorbell ctx v => .ok (doorbell s q.port ctx v)
    | .bar0 off l => .ok (bar0Write s off l)
    | .bar0Read off n id => .ok (bar0Read s q.port off n id)
    | .fwcmd v => .ok (fwcmd s q.port v)
    | .mbdb => .ok (mbdb s q.port)
    | .qcmd v => .ok (qcmd s v)

/-- A request arrives at a port: it is served, or kept where it has to wait. No rule says when a port acknowledges an arriving write: a write that is
kept counts as unacknowledged, so that an acquire at system scope does not wait for it, and a host is sent no acknowledgement (DESIGN CHOICE,
notes/assumptions 76). -/
def hostArrive (s : State) (port : Nat) (req : PortReq) : State :=
  let (id, s) := fresh s
  let q : HostReq := { id := id, port := port, req := req, view := windowsNow s }
  match tryHost s q with
  | .ok s => s
  | .error (.wait w) => joinWait { s with hostq := s.hostq ++ [q] } (.host id) w
  | .error (.fault _) => s

/-- A request that was kept is served where it can be now. -/
def serveHost (s : State) (id : Nat) : State :=
  match s.hostq.find? fun q => q.id == id with
  | none => s
  | some q =>
    match tryHost s q with
    | .ok s => moveOn (leaveReq { s with hostq := s.hostq.filter fun x => x.id != id } fun r => r == .host id)
    | .error (.wait w) => joinWait s (.host id) w
    | .error (.fault _) => s

/-- A request arrives at a host port that carries traffic. -/
def hostEvent (s : State) (port : Nat) (req : PortReq) : Host.Outcome State Fault Refusal :=
  .next (if port < 4 && portOpen s port then hostArrive s port req else s)

/-! ## The steps -/

/-- HOST_WINDOW_READ (R322, R323) at host port n1, BAR2 offset n2, of v1 bytes, request n3. -/
def execHostWindowRead (s : State) : Host.Outcome State Fault Refusal :=
  hostEvent s s.arg.n1 (.window (.read s.arg.n2 s.arg.v1.toNat s.arg.n3))

/-- HOST_WINDOW_WRITE (R322, R323) at host port n1, BAR2 offset n2, of the bytes. -/
def execHostWindowWrite (s : State) : Host.Outcome State Fault Refusal :=
  hostEvent s s.arg.n1 (.window (.write s.arg.n2 s.arg.bytes s.arg.n3))

/-- HOST_ATOMIC (R320) at host port n1, BAR2 offset n2, 64 bits wide with the flag, operands v1 and v2, request n3. -/
def execHostAtomic (s : State) : Host.Outcome State Fault Refusal :=
  hostEvent s s.arg.n1 (.window (.atomic s.arg.n2 s.arg.op s.arg.flag s.arg.v1 s.arg.v2 s.arg.n3))

/-- PEER_REQUEST (R324) at peer port n1, 0 to 5, with the flit that brought it. -/
def execPeerRequest (s : State) : Host.Outcome State Fault Refusal :=
  let port := s.arg.n1 + 4
  if s.arg.n1 > 5 || !portBrings s port then .next s else .next (hostArrive (takeRx s port) port (.window s.arg.peer))

/-- DOORBELL (R376) at host port n1 for context n2, value v1. -/
def execDoorbell (s : State) : Host.Outcome State Fault Refusal :=
  if s.arg.n2 < 4096 then hostEvent s s.arg.n1 (.doorbell s.arg.n2 (s.arg.v1.extractLsb' 0 32)) else .next s

/-- FWCMD (R370, R374): host port n1 writes n2. -/
def execFwcmd (s : State) : Host.Outcome State Fault Refusal := hostEvent s s.arg.n1 (.fwcmd s.arg.n2)

/-- MBDB (R377): host port n1 writes it. -/
def execMbdb (s : State) : Host.Outcome State Fault Refusal := hostEvent s s.arg.n1 .mbdb

/-- QCMD (R378): host port n1 writes n2. -/
def execQcmd (s : State) : Host.Outcome State Fault Refusal := hostEvent s s.arg.n1 (.qcmd s.arg.n2)

end Sys2Proof.Machine
end

