-- ==== Sys2Proof/Machine/RayInsn.lean ====
section
/-!
DEFINITION. TRACE, its retry at a full queue, and TLIST (17_frame R342, R343; family 0x3D, FN 3 and 4).
-/

namespace Sys2Proof.Machine

/-! ## TRACE (R342) -/

/-- The ray entry of a TRACE, as a template (R338). -/
def traceTpl (o : OpR) (ray area c : Nat) : BitVec 256 :=
  BitVec.ofNat 256
    (modField o.mod 0 5 * 2 ^ 12 + ofBool (o.mod.getLsbD 5) * 2 ^ 17 + 2 ^ 18 + area * 2 ^ 32 + ray * 2 ^ 64 + c * 2 ^ 128)

/-- TRACE from its release on: it waits at a full q2, else its entry is accepted. -/
def traceIssue (s : State) (e : Env) (t : Thread) (tpl : BitVec 256) (d : Nat) : State :=
  if queueFull s e.coreNo 2 then setThread s e.who { t with st := .waiting (.trace tpl d) }
  else
    let ent : Entry := { gid := e.gid, ctx := e.ctx, launch := (e.group s).launch, slot := 0, tpl := tpl }
    let (seq, s) := acceptEntry s e.coreNo 2 ent
    retire s e (writeX t d seq)

/-- TRACE (R342). -/
def execTrace (o : OpR) (s : State) : Host.Outcome State Fault Refusal :=
  issue s o.g { place := .group } [.dx o.d, .sp o.a, .sx o.b, .sx o.c] fun e t =>
    let ray := readPair t o.a.toNat
    let area := (readX t o.b.toNat).toNat
    let c := (readX t o.c.toNat).toNat
    if ray.toNat % 64 ≠ 0 then trap s e.who 0x04 0 (ray.toNat % 2 ^ 56)
    else if area % 16 ≠ 0 then trap s e.who 0x04
    else if c > 56 then trap s e.who 0x02
    else if scratchOut (e.group s) area (16 * (c + 9)) then trap s e.who 0x0B
    else releaseThen s e t 2 fun s => traceIssue s e t (traceTpl o ray.toNat area c) o.d.toNat

/-- TRACE_ISSUE_RETRY (R342): the thread `who` that waits at a q2 no longer full goes on, after those of its bundle with a lower tid
(R164). -/
def execTraceIssueRetry (s : State) : Host.Outcome State Fault Refusal :=
  match getThread s s.arg.who with
  | some t =>
    match t.st with
    | .waiting (.trace tpl d) =>
      let e := envOf s s.arg.who
      if (e.group s).state != .running || !coreOn s e.coreNo || queueFull s e.coreNo 2 || !bundleTurn s s.arg.who then .next s
      else .next (traceIssue s e t tpl d)
    | _ => .next s
  | none => .next s

/-! ## TLIST (R343) -/

/-- What TLIST reads of a CLOSED slot: the count, then the entry. -/
def tlistRead (s : State) (e : Env) (f : Frame) (t i : Nat) : Except Stop (Word × Word × State) :=
  let acc (va n : Nat) : Acc := { threadAcc e (BitVec.ofNat 64 va) n with l1 := false }
  match threadRead s e (acc (frmCnts f.desc + 4 * t) 4) { install := false } with
  | .error p => .error p
  | .ok (c, s) =>
    if i ≥ ofBytes c then .ok (0xFFFFFFFF, BitVec.ofNat 32 (ofBytes c), s)
    else match threadRead s e (acc (frmList f.desc + 512 * t + 8 * i) 8) { install := false } with
      | .error p => .error p
      | .ok (b, s) => .ok (BitVec.ofNat 32 (word32 b 0), BitVec.ofNat 32 (word32 b 4), s)

/-- TLIST (R343), an acquire at device scope. -/
def execTlist (o : OpR) (s : State) : Host.Outcome State Fault Refusal :=
  issue s o.g { place := .compute } [.dp o.d, .sx o.a, .sx o.b, .sx o.c] fun e t =>
    let slot := (readX t o.a.toNat).toNat
    let n := (readX t o.b.toNat).toNat
    let f := getFrame s e.die slot
    let mine := f.st != 0 && f.owner == e.ctx
    let done (s : State) (lo hi : Word) : State := retire (acquire s e 4) e (writePair t o.d.toNat (hi ++ lo))
    if slot > 63 then trap s e.who 0x02
    else if mine ∧ n ≥ frmTw f.desc * frmTh f.desc then trap s e.who 0x02
    else if hasPend s e.who then waitAt s e.who .pending
    else if !mine || f.st != 3 then done s 0xFFFFFFFE (if mine then BitVec.ofNat 32 f.st else 0)
    else match tlistRead s e f n (readX t o.c.toNat).toNat with
      | .error p => takeStop s e.who p
      | .ok (lo, hi, s) => done s lo hi

end Sys2Proof.Machine
end

