-- ==== Sys2Proof/Machine/Semaphore.lean ====
section
/-!
DEFINITION. Semaphores (10_barrier R205 to R211; FN 4 to 7 of family 0x22) and the service of their waiters.
-/

namespace Sys2Proof.Machine

/-- SEMI (R208). -/
def execSemi (o : OpR) (s : State) : Host.Outcome State Fault Refusal :=
  issue s o.g groupOnly [.dx o.d, .sem o.b, .sx o.a, .sx o.c] fun e t =>
    let v := (readX t o.a.toNat).toNat
    let c := (readX t o.c.toNat).toNat
    if c = 0 ∨ c > 65535 ∨ v > c then trap s e.who 0x02
    else
      let m := getSem (getCore s e.coreNo) o.b.toNat
      if m.owner.isSome && m.owner != some e.ctx then retire s e (writeX t o.d.toNat 1)
      else
        let s := modSem s e.coreNo o.b.toNat fun m => { m with owner := some e.ctx, value := v, ceil := c }
        pokeSem (retire s e (writeX t o.d.toNat 0)) e.coreNo o.b.toNat

/-- SEMS (R209): a count past the ceiling traps 0x0A, with no release performed. -/
def execSems (o : OpR) (s : State) : Host.Outcome State Fault Refusal :=
  issue s o.g groupOnly [.sem o.b, .sx o.a] fun e t =>
    let n := (readX t o.a.toNat).toNat
    let m := semSeen (getCore s e.coreNo) o.b.toNat e.ctx
    if m.value + n > m.ceil then trap s e.who 0x0A
    else releaseThen s e t (syncScope o.mod) fun s =>
      if n = 0 then retire s e t
      else
        let s := modSem s e.coreNo o.b.toNat fun m => { m with value := m.value + n }
        pokeSem (retire s e t) e.coreNo o.b.toNat

/-- SEMW (R210): the thread joins the waiters, and is served at once where it is the first that VALUE meets. -/
def execSemw (o : OpR) (s : State) : Host.Outcome State Fault Refusal :=
  issue s o.g groupOnly [.sem o.b, .sx o.a] fun e t =>
    let n := (readX t o.a.toNat).toNat
    let m := semSeen (getCore s e.coreNo) o.b.toNat e.ctx
    if n > m.ceil then trap s e.who 0x02
    else if n = 0 then retire (acquire s e (syncScope o.mod)) e t
    else
      let w : SemWaiter := { who := .thread e.who, ctx := e.ctx, count := n }
      let s := modSem s e.coreNo o.b.toNat fun m => { m with waiters := m.waiters ++ [w] }
      let s := waitAt s e.who (.semw o.b.toNat n (syncScope o.mod))
      match firstMet (getSem (getCore s e.coreNo) o.b.toNat) with
      | some f => if f = w then serveThread s e.coreNo o.b.toNat w e.who else s
      | none => s

/-- SEMR (R211): the pair x[D] receives VALUE and CEIL as the context sees them. -/
def execSemr (o : OpR) (s : State) : Host.Outcome State Fault Refusal :=
  issue s o.g groupOnly [.dp o.d, .sem o.b] fun e t =>
    let m := semSeen (getCore s e.coreNo) o.b.toNat e.ctx
    retire s e (writePair t o.d.toNat (BitVec.ofNat 64 (m.value + m.ceil * 2 ^ 32)))

/-- SEMW_SERVICE (R207) on semaphore n2 of core n1: the first waiter that VALUE meets is served. -/
def execSemwService (s : State) : Host.Outcome State Fault Refusal :=
  match firstMet (getSem (getCore s s.arg.n1) s.arg.n2) with
  | some w => match w.who with
    | .thread a => .next (serveThread s s.arg.n1 s.arg.n2 w a)
    | .engine _ => .next s
  | none => .next s

end Sys2Proof.Machine
end

