-- ==== Sys2Proof/Machine/WorkInsn.lean ====
section
/-!
DEFINITION. The instructions of the levels of work (05_kernel R102 to R108; family 0x3E). They execute in groups only (02_encoding R43,
18_faults R389).
-/

namespace Sys2Proof.Machine

/-- The policy of family 0x3E. -/
def workPolicy : Policy := { place := .group }

/-! ## LAUNCH (R104) -/

/-- A read a thread makes of a 64-byte record. -/
def recordRead (s : State) (e : Env) (va : Nat) : Except Stop (List Byte × State) :=
  threadRead s e (threadAcc e (BitVec.ofNat 64 va) 64) {}

/-- REFUSED of the job counter rises, saturating. -/
def refuseLaunch (s : State) (ctx : Nat) : State :=
  match (getCtx s ctx).job with
  | none => s
  | some j =>
    let w := counterGet s ctx j.jcnt
    if field w 32 16 = 0xFFFF then s else counterPut s ctx j.jcnt (w + 2 ^ 32)

/-- LAUNCH settles: the status and the child's id. -/
def launchDone (s : State) (e : Env) (t : Thread) (d st : Nat) (id : Word) : State :=
  retire s e (writePair t d (id ++ BitVec.ofNat 32 st))

/-- A well-formed record: the tests of R104 in their order. -/
def launchChild (s : State) (e : Env) (t : Thread) (d : Nat) (r : LaunchRec) (kd : KDesc) : State :=
  let g := e.group s
  if cancelReached s g.launch then launchDone s e t d 2 0
  else if g.depth ≥ g.depthMax then launchDone (refuseLaunch s e.ctx) e t d 3 0
  else if pendingChildren s e.ctx ≥ 65536 then launchDone s e t d 1 0
  else
    let (_, id, s) := createChild s g.launch kd r r.param
    launchDone s e t d 0 id

/-- LAUNCH (R104). -/
def execLaunch (o : OpR) (s : State) : Host.Outcome State Fault Refusal :=
  issue s o.g workPolicy [.dp o.d, .sp o.a] fun e t =>
    let va := (readPair t o.a.toNat).toNat
    match addrFault va 64 with
    | some c => trap s e.who c 0 va
    | none =>
      releaseThen s e t 4 fun s =>
        match recordRead s e va with
        | .error p => takeStop s e.who p
        | .ok (b, s') =>
          match launchOf b with
          | none => trap s' e.who 0x0B
          | some r =>
            match recordRead s' e r.kdesc with
            | .error p => takeStop s' e.who p
            | .ok (k, s') =>
              match kdescOf r.kdesc k with
              | none => trap s' e.who 0x0B
              | some kd =>
                let held : Bool := match r.cnt with | some i => counterHeld s' e.ctx i | none => false
                if held then trap s' e.who 0x0B else launchChild s' e t o.d.toNat r kd

/-! ## CANCEL (R105) -/

/-- The launch of a context that holds an id; the newest, as ids come again. -/
def launchById (s : State) (ctx : Nat) (id : Word) : Option (Nat × Launch) :=
  if id = 0 then none
  else (s.launches.filter fun l => l.2.ctx == ctx && l.2.lid == id).foldl
    (fun o l => match o with | some m => if l.1 > m.1 then some l else some m | none => some l) none

/-- Cancel launch `id`: the status and the state. -/
def cancelById (s : State) (own ctx : Nat) (id : Word) : Nat × State :=
  match launchById s ctx id with
  | none => (2, s)
  | some (u, l) => if l.complete || cancelReached s u then (1, s) else (0, cancelTree s own u)

/-- Cancel the graph of a launch. -/
def cancelOwnGraph (s : State) (own uid : Nat) : Nat × State :=
  match (getLaunch s uid).bind (·.graph) with
  | none => (2, s)
  | some g =>
    match getGraph s g with
    | none => (1, s)
    | some r => if r.cancelled || r.complete then (1, s) else (0, cancelGraph s own g)

/-- Cancel the phase, or the job, of a context. -/
def cancelOwnPhase (s : State) (own ctx : Nat) : Nat × State :=
  match (getCtx s ctx).job.bind (·.phase) with
  | none => (1, s)
  | some p => if p.cancelled then (1, s) else (0, cancelPhase s own ctx)

def cancelOwnJob (s : State) (own ctx : Nat) : Nat × State :=
  match (getCtx s ctx).job with
  | none => (1, s)
  | some j => if j.cancelled then (1, s) else (0, cancelJob s own ctx)

/-- CANCEL (R102, R105). -/
def execCancel (o : OpR) (s : State) : Host.Outcome State Fault Refusal :=
  let level := modField o.mod 0 2
  issue s o.g workPolicy (.dx o.d :: (if level = 0 then [.sx o.a] else [])) fun e t =>
    let g := e.group s
    let (st, s) := match level with
      | 0 => cancelById s e.gid e.ctx (readX t o.a.toNat)
      | 1 => cancelOwnGraph s e.gid g.launch
      | 2 => cancelOwnPhase s e.gid e.ctx
      | _ => cancelOwnJob s e.gid e.ctx
    retire s e (writeX t o.d.toNat (BitVec.ofNat 32 st))

/-! ## CNTR (R106) -/

/-- CNTR.rd (R106): the counter word, with an acquire at device scope. -/
def execCntrRd (o : OpR) (s : State) : Host.Outcome State Fault Refusal :=
  issue s o.g workPolicy [.dp o.d, .sx o.a] fun e t =>
    let i := (readX t o.a.toNat).toNat
    if i > 1023 then trap s e.who 0x02
    else if hasPend s e.who then waitAt s e.who .pending
    else retire (acquire s e 4) e (writePair t o.d.toNat (BitVec.ofNat 64 (counterGet s e.ctx i)))

/-- CNTR.add (R106): x[B] joins DONE of a counter that is not held. -/
def execCntrAdd (o : OpR) (s : State) : Host.Outcome State Fault Refusal :=
  issue s o.g workPolicy [.dp o.d, .sx o.a, .sx o.b] fun e t =>
    let i := (readX t o.a.toNat).toNat
    if i > 1023 then trap s e.who 0x02
    else if counterHeld s e.ctx i then trap s e.who 0x02
    else
      retire (counterAdd s e.ctx i (readX t o.b.toNat).toNat) e
        (writePair t o.d.toNat (BitVec.ofNat 64 (counterGet s e.ctx i)))

/-! ## PHASE (R107) -/

/-- PHASE.rd (R107): the phase index of the thread's job. -/
def execPhaseRd (o : OpR) (s : State) : Host.Outcome State Fault Refusal :=
  issue s o.g workPolicy [.dx o.d] fun e t =>
    retire s e (writeX t o.d.toNat (BitVec.ofNat 32 (((getCtx s e.ctx).job.map (·.index)).getD 0)))

/-- PHASE.next (R107): the job's next index. -/
def execPhaseNext (o : OpR) (s : State) : Host.Outcome State Fault Refusal :=
  issue s o.g workPolicy [.sx o.a] fun e t =>
    retire (modJob s e.ctx fun j => { j with next := some (readX t o.a.toNat).toNat }) e t

/-! ## IDEM (R108) -/

/-- A cancel's drop that is not committed yet does not take a group that has entered a region (R102). -/
def forgetCancel (s : State) (gid : Nat) : State :=
  modGroup s gid fun g => if g.drop = some .cancel then { g with drop := none } else g

/-- IDEM.off (R108): the thread enters its region. -/
def execIdemOff (o : OpR) (s : State) : Host.Outcome State Fault Refusal :=
  issue s o.g workPolicy [] fun e t => retire (forgetCancel s e.gid) e { t with idemOff := true }

/-- IDEM.on (R108): the thread leaves its region. -/
def execIdemOn (o : OpR) (s : State) : Host.Outcome State Fault Refusal :=
  issue s o.g workPolicy [] fun e t => commitSoon s (retire s e { t with idemOff := false }) e.gid

end Sys2Proof.Machine
end

