-- ==== Sys2Proof/Machine/Dispatch.lean ====
section
/-!
DEFINITION. The dispatch: one arm per constructor of Instr, each one call of that instruction's or step's meaning.
-/

namespace Sys2Proof.Machine

/-- What an instruction of the word, or a step of the device, does. -/
def exec (i : Instr) (s : State) : Host.Outcome State Fault Refusal :=
  match i with
  | .nop o => Sys2Proof.Machine.execNop o s
  | .bra o => Sys2Proof.Machine.execBra o s
  | .call o => Sys2Proof.Machine.execCall o s
  | .brx o => Sys2Proof.Machine.execBrx o s
  | .callx o => Sys2Proof.Machine.execCallx o s
  | .ret o => Sys2Proof.Machine.execRet o s
  | .exit_ o => Sys2Proof.Machine.execExit o s
  | .yield o => Sys2Proof.Machine.execYield o s
  | .trap o => Sys2Proof.Machine.execTrap o s
  | .brk o => Sys2Proof.Machine.execBrk o s
  | .sleep o => Sys2Proof.Machine.execSleep o s
  | .movi o => Sys2Proof.Machine.execMovi o s
  | .movih o => Sys2Proof.Machine.execMovih o s
  | .iaddi o => Sys2Proof.Machine.execIaddi o s
  | .imuli o => Sys2Proof.Machine.execImuli o s
  | .andi o => Sys2Proof.Machine.execAndi o s
  | .ori o => Sys2Proof.Machine.execOri o s
  | .xori o => Sys2Proof.Machine.execXori o s
  | .shli o => Sys2Proof.Machine.execShli o s
  | .shri o => Sys2Proof.Machine.execShri o s
  | .sari o => Sys2Proof.Machine.execSari o s
  | .aaddi o => Sys2Proof.Machine.execAaddi o s
  | .iadd o => Sys2Proof.Machine.execIadd o s
  | .isub o => Sys2Proof.Machine.execIsub o s
  | .imul o => Sys2Proof.Machine.execImul o s
  | .imulh o => Sys2Proof.Machine.execImulh o s
  | .imulhu o => Sys2Proof.Machine.execImulhu o s
  | .imad o => Sys2Proof.Machine.execImad o s
  | .imin o => Sys2Proof.Machine.execImin o s
  | .imax o => Sys2Proof.Machine.execImax o s
  | .umin o => Sys2Proof.Machine.execUmin o s
  | .umax o => Sys2Proof.Machine.execUmax o s
  | .iabs o => Sys2Proof.Machine.execIabs o s
  | .iadds o => Sys2Proof.Machine.execIadds o s
  | .isubs o => Sys2Proof.Machine.execIsubs o s
  | .idiv o => Sys2Proof.Machine.execIdiv o s
  | .udiv o => Sys2Proof.Machine.execUdiv o s
  | .irem o => Sys2Proof.Machine.execIrem o s
  | .urem o => Sys2Proof.Machine.execUrem o s
  | .dp4a o => Sys2Proof.Machine.execDp4a o s
  | .dp4au o => Sys2Proof.Machine.execDp4au o s
  | .and_ o => Sys2Proof.Machine.execAnd o s
  | .or_ o => Sys2Proof.Machine.execOr o s
  | .xor_ o => Sys2Proof.Machine.execXor o s
  | .andn o => Sys2Proof.Machine.execAndn o s
  | .blut o => Sys2Proof.Machine.execBlut o s
  | .shl o => Sys2Proof.Machine.execShl o s
  | .shr_ o => Sys2Proof.Machine.execShr o s
  | .sar o => Sys2Proof.Machine.execSar o s
  | .rol o => Sys2Proof.Machine.execRol o s
  | .bfe o => Sys2Proof.Machine.execBfe o s
  | .bfeu o => Sys2Proof.Machine.execBfeu o s
  | .bfi o => Sys2Proof.Machine.execBfi o s
  | .popc o => Sys2Proof.Machine.execPopc o s
  | .clz o => Sys2Proof.Machine.execClz o s
  | .brev o => Sys2Proof.Machine.execBrev o s
  | .bshuf o => Sys2Proof.Machine.execBshuf o s
  | .icmp o => Sys2Proof.Machine.execIcmp o s
  | .icmpm o => Sys2Proof.Machine.execIcmpm o s
  | .sel o => Sys2Proof.Machine.execSel o s
  | .plut o => Sys2Proof.Machine.execPlut o s
  | .pgat o => Sys2Proof.Machine.execPgat o s
  | .pscat o => Sys2Proof.Machine.execPscat o s
  | .aadd o => Sys2Proof.Machine.execAadd o s
  | .asub o => Sys2Proof.Machine.execAsub o s
  | .acmp o => Sys2Proof.Machine.execAcmp o s
  | .shl64 o => Sys2Proof.Machine.execShl64 o s
  | .shr64 o => Sys2Proof.Machine.execShr64 o s
  | .iadd64 o => Sys2Proof.Machine.execIadd64 o s
  | .imul64 o => Sys2Proof.Machine.execImul64 o s
  | .amov o => Sys2Proof.Machine.execAmov o s
  | .fadd o => Sys2Proof.Machine.execFadd o s
  | .fsub o => Sys2Proof.Machine.execFsub o s
  | .fmul o => Sys2Proof.Machine.execFmul o s
  | .ffma o => Sys2Proof.Machine.execFfma o s
  | .fmin o => Sys2Proof.Machine.execFmin o s
  | .fmax o => Sys2Proof.Machine.execFmax o s
  | .fsetp o => Sys2Proof.Machine.execFsetp o s
  | .fset o => Sys2Proof.Machine.execFset o s
  | .fdiv o => Sys2Proof.Machine.execFdiv o s
  | .fsqrt o => Sys2Proof.Machine.execFsqrt o s
  | .frnd o => Sys2Proof.Machine.execFrnd o s
  | .hadd2 o => Sys2Proof.Machine.execHadd2 o s
  | .hmul2 o => Sys2Proof.Machine.execHmul2 o s
  | .hfma2 o => Sys2Proof.Machine.execHfma2 o s
  | .hmin2 o => Sys2Proof.Machine.execHmin2 o s
  | .hmax2 o => Sys2Proof.Machine.execHmax2 o s
  | .hsetp2 o => Sys2Proof.Machine.execHsetp2 o s
  | .hdot2 o => Sys2Proof.Machine.execHdot2 o s
  | .frcp o => Sys2Proof.Machine.execFrcp o s
  | .frsq o => Sys2Proof.Machine.execFrsq o s
  | .fexp2 o => Sys2Proof.Machine.execFexp2 o s
  | .flog2 o => Sys2Proof.Machine.execFlog2 o s
  | .fsin o => Sys2Proof.Machine.execFsin o s
  | .fcos o => Sys2Proof.Machine.execFcos o s
  | .ftanh o => Sys2Proof.Machine.execFtanh o s
  | .f2i o => Sys2Proof.Machine.execF2i o s
  | .f2u o => Sys2Proof.Machine.execF2u o s
  | .i2f o => Sys2Proof.Machine.execI2f o s
  | .u2f o => Sys2Proof.Machine.execU2f o s
  | .f2h o => Sys2Proof.Machine.execF2h o s
  | .h2f o => Sys2Proof.Machine.execH2f o s
  | .cvtq o => Sys2Proof.Machine.execCvtq o s
  | .cvtd o => Sys2Proof.Machine.execCvtd o s
  | .xscale o => Sys2Proof.Machine.execXscale o s
  | .mov o => Sys2Proof.Machine.execMov o s
  | .sread o => Sys2Proof.Machine.execSread o s
  | .kput o => Sys2Proof.Machine.execKput o s
  | .kget o => Sys2Proof.Machine.execKget o s
  | .tumb o => Sys2Proof.Machine.execTumb o s
  | .xshf o => Sys2Proof.Machine.execXshf o s
  | .xred o => Sys2Proof.Machine.execXred o s
  | .xscn o => Sys2Proof.Machine.execXscn o s
  | .xbal o => Sys2Proof.Machine.execXbal o s
  | .xvote o => Sys2Proof.Machine.execXvote o s
  | .bari o => Sys2Proof.Machine.execBari o s
  | .bara o => Sys2Proof.Machine.execBara o s
  | .barw o => Sys2Proof.Machine.execBarw o s
  | .bars o => Sys2Proof.Machine.execBars o s
  | .semi o => Sys2Proof.Machine.execSemi o s
  | .sems o => Sys2Proof.Machine.execSems o s
  | .semw o => Sys2Proof.Machine.execSemw o s
  | .semr o => Sys2Proof.Machine.execSemr o s
  | .ld o => Sys2Proof.Machine.execLd o s
  | .st o => Sys2Proof.Machine.execSt o s
  | .ldsc o => Sys2Proof.Machine.execLdsc o s
  | .stsc o => Sys2Proof.Machine.execStsc o s
  | .atom o => Sys2Proof.Machine.execAtom o s
  | .red_ o => Sys2Proof.Machine.execRed o s
  | .fence o => Sys2Proof.Machine.execFence o s
  | .fprom o => Sys2Proof.Machine.execFprom o s
  | .cinv o => Sys2Proof.Machine.execCinv o s
  | .cwb o => Sys2Proof.Machine.execCwb o s
  | .bkvaddf o => Sys2Proof.Machine.execBkvaddf o s
  | .bkvaddi o => Sys2Proof.Machine.execBkvaddi o s
  | .bkvmaxf o => Sys2Proof.Machine.execBkvmaxf o s
  | .bkvmaxa o => Sys2Proof.Machine.execBkvmaxa o s
  | .bkvaddh o => Sys2Proof.Machine.execBkvaddh o s
  | .bkred o => Sys2Proof.Machine.execBkred o s
  | .sharm o => Sys2Proof.Machine.execSharm o s
  | .shpub o => Sys2Proof.Machine.execShpub o s
  | .shdrop o => Sys2Proof.Machine.execShdrop o s
  | .shstat o => Sys2Proof.Machine.execShstat o s
  | .enq o => Sys2Proof.Machine.execEnq o s
  | .tplw o => Sys2Proof.Machine.execTplw o s
  | .qstat o => Sys2Proof.Machine.execQstat o s
  | .qwait o => Sys2Proof.Machine.execQwait o s
  | .qpop o => Sys2Proof.Machine.execQpop o s
  | .qpush o => Sys2Proof.Machine.execQpush o s
  | .tcfg o => Sys2Proof.Machine.execTcfg o s
  | .tcfgr o => Sys2Proof.Machine.execTcfgr o s
  | .tzero o => Sys2Proof.Machine.execTzero o s
  | .tget o => Sys2Proof.Machine.execTget o s
  | .tset o => Sys2Proof.Machine.execTset o s
  | .tmma o => Sys2Proof.Machine.execTmma o s
  | .tcvt o => Sys2Proof.Machine.execTcvt o s
  | .tadd o => Sys2Proof.Machine.execTadd o s
  | .tld o => Sys2Proof.Machine.execTld o s
  | .tst o => Sys2Proof.Machine.execTst o s
  | .tdrain o => Sys2Proof.Machine.execTdrain o s
  | .tfill o => Sys2Proof.Machine.execTfill o s
  | .sample o => Sys2Proof.Machine.execSample o s
  | .imld o => Sys2Proof.Machine.execImld o s
  | .imst o => Sys2Proof.Machine.execImst o s
  | .trace o => Sys2Proof.Machine.execTrace o s
  | .tlist o => Sys2Proof.Machine.execTlist o s
  | .launch o => Sys2Proof.Machine.execLaunch o s
  | .cancel o => Sys2Proof.Machine.execCancel o s
  | .cntrRd o => Sys2Proof.Machine.execCntrRd o s
  | .cntrAdd o => Sys2Proof.Machine.execCntrAdd o s
  | .phaseRd o => Sys2Proof.Machine.execPhaseRd o s
  | .phaseNext o => Sys2Proof.Machine.execPhaseNext o s
  | .idemOff o => Sys2Proof.Machine.execIdemOff o s
  | .idemOn o => Sys2Proof.Machine.execIdemOn o s
  | .csrr o => Sys2Proof.Machine.execCsrr o s
  | .csrw o => Sys2Proof.Machine.execCsrw o s
  | .eret o => Sys2Proof.Machine.execEret o s
  | .eretExit o => Sys2Proof.Machine.execEretExit o s
  | .halt o => Sys2Proof.Machine.execHalt o s
  | .haltRel o => Sys2Proof.Machine.execHaltRel o s
  | .beat o => Sys2Proof.Machine.execBeat o s
  | .hinge o => Sys2Proof.Machine.execHinge o s
  | .captGroup o => Sys2Proof.Machine.execCaptGroup o s
  | .captCore o => Sys2Proof.Machine.execCaptCore o s
  | .captResume o => Sys2Proof.Machine.execCaptResume o s
  | .tinvInv o => Sys2Proof.Machine.execTinvInv o s
  | .tinvRetry o => Sys2Proof.Machine.execTinvRetry o s
  | .tinvFail o => Sys2Proof.Machine.execTinvFail o s
  | .coldReset => Sys2Proof.Machine.execColdReset s
  | .fwcmd => Sys2Proof.Machine.execFwcmd s
  | .imageFetched => Sys2Proof.Machine.execImageFetched s
  | .qcmd => Sys2Proof.Machine.execQcmd s
  | .quoteComplete => Sys2Proof.Machine.execQuoteComplete s
  | .mbdb => Sys2Proof.Machine.execMbdb s
  | .doorbell => Sys2Proof.Machine.execDoorbell s
  | .hostWindowRead => Sys2Proof.Machine.execHostWindowRead s
  | .hostWindowWrite => Sys2Proof.Machine.execHostWindowWrite s
  | .hostAtomic => Sys2Proof.Machine.execHostAtomic s
  | .peerRequest => Sys2Proof.Machine.execPeerRequest s
  | .heartbeatExpiry => Sys2Proof.Machine.execHeartbeatExpiry s
  | .thermalClampStep => Sys2Proof.Machine.execThermalClampStep s
  | .powerClamp => Sys2Proof.Machine.execPowerClamp s
  | .sextantException => Sys2Proof.Machine.execSextantException s
  | .recordDispatch => Sys2Proof.Machine.execRecordDispatch s
  | .serviceLaneTrap => Sys2Proof.Machine.execServiceLaneTrap s
  | .hostQueueEntryTaken => Sys2Proof.Machine.execHostQueueEntryTaken s
  | .phaseStart => Sys2Proof.Machine.execPhaseStart s
  | .graphStart => Sys2Proof.Machine.execGraphStart s
  | .nodeLaunchStart => Sys2Proof.Machine.execNodeLaunchStart s
  | .levelComplete => Sys2Proof.Machine.execLevelComplete s
  | .groupPlacing => Sys2Proof.Machine.execGroupPlacing s
  | .placementComplete => Sys2Proof.Machine.execPlacementComplete s
  | .groupRetire => Sys2Proof.Machine.execGroupRetire s
  | .activeSetReplace => Sys2Proof.Machine.execActiveSetReplace s
  | .issueCycle => Sys2Proof.Machine.execIssueCycle s
  | .dropCommit => Sys2Proof.Machine.execDropCommit s
  | .droppedGroupFree => Sys2Proof.Machine.execDroppedGroupFree s
  | .ctxQuiesced => Sys2Proof.Machine.execCtxQuiesced s
  | .ctxCaptureDone => Sys2Proof.Machine.execCtxCaptureDone s
  | .scrubComplete => Sys2Proof.Machine.execScrubComplete s
  | .engineWaitMet => Sys2Proof.Machine.execEngineWaitMet s
  | .copyRowDone => Sys2Proof.Machine.execCopyRowDone s
  | .matrixUnitDone => Sys2Proof.Machine.execMatrixUnitDone s
  | .engineWorkDone => Sys2Proof.Machine.execEngineWorkDone s
  | .followOnSubmit => Sys2Proof.Machine.execFollowOnSubmit s
  | .engineFault => Sys2Proof.Machine.execEngineFault s
  | .stopPointReached => Sys2Proof.Machine.execStopPointReached s
  | .enqSpaceRetry => Sys2Proof.Machine.execEnqSpaceRetry s
  | .matrixIssueRetry => Sys2Proof.Machine.execMatrixIssueRetry s
  | .traceIssueRetry => Sys2Proof.Machine.execTraceIssueRetry s
  | .rayTraversal => Sys2Proof.Machine.execRayTraversal s
  | .tilerBegin => Sys2Proof.Machine.execTilerBegin s
  | .tilerPrims => Sys2Proof.Machine.execTilerPrims s
  | .spillLaunchComplete => Sys2Proof.Machine.execSpillLaunchComplete s
  | .tilerEnd => Sys2Proof.Machine.execTilerEnd s
  | .tilerRelease => Sys2Proof.Machine.execTilerRelease s
  | .storeDrain => Sys2Proof.Machine.execStoreDrain s
  | .l2Fill => Sys2Proof.Machine.execL2Fill s
  | .blockUpdate => Sys2Proof.Machine.execBlockUpdate s
  | .replicatedUpdate => Sys2Proof.Machine.execReplicatedUpdate s
  | .fpromReceipt => Sys2Proof.Machine.execFpromReceipt s
  | .daoftRead => Sys2Proof.Machine.execDaoftRead s
  | .daoftReadResponse => Sys2Proof.Machine.execDaoftReadResponse s
  | .daoftWrite => Sys2Proof.Machine.execDaoftWrite s
  | .daoftWriteAck => Sys2Proof.Machine.execDaoftWriteAck s
  | .daoftAtomic => Sys2Proof.Machine.execDaoftAtomic s
  | .daoftAtomicResponse => Sys2Proof.Machine.execDaoftAtomicResponse s
  | .routeMarker => Sys2Proof.Machine.execRouteMarker s
  | .daoftControl => Sys2Proof.Machine.execDaoftControl s
  | .flitReceive => Sys2Proof.Machine.execFlitReceive s
  | .flitReplay => Sys2Proof.Machine.execFlitReplay s
  | .linkTrained => Sys2Proof.Machine.execLinkTrained s
  | .linkDownResend => Sys2Proof.Machine.execLinkDownResend s
  | .handoverDrained => Sys2Proof.Machine.execHandoverDrained s
  | .handoverSwitched => Sys2Proof.Machine.execHandoverSwitched s
  | .drainTimeout => Sys2Proof.Machine.execDrainTimeout s
  | .shutterCommit => Sys2Proof.Machine.execShutterCommit s
  | .shutterDropCommit => Sys2Proof.Machine.execShutterDropCommit s
  | .yieldWake => Sys2Proof.Machine.execYieldWake s
  | .semwService => Sys2Proof.Machine.execSemwService s
  | .sleepExpiry => Sys2Proof.Machine.execSleepExpiry s
  | .ckDone => Sys2Proof.Machine.execCkDone s
  | .ctxLoad => Sys2Proof.Machine.execCtxLoad s
  | .ctxStart => Sys2Proof.Machine.execCtxStart s
  | .ctxQuiesce => Sys2Proof.Machine.execCtxQuiesce s
  | .ctxResume => Sys2Proof.Machine.execCtxResume s
  | .ctxRelease => Sys2Proof.Machine.execCtxRelease s
  | .ctxFault => Sys2Proof.Machine.execCtxFault s
  | .apOpen => Sys2Proof.Machine.execApOpen s
  | .apRelease => Sys2Proof.Machine.execApRelease s
  | .ctxcntWrite => Sys2Proof.Machine.execCtxcntWrite s
  | .ctxapWrite => Sys2Proof.Machine.execCtxapWrite s
  | .ctxhqpWrite => Sys2Proof.Machine.execCtxhqpWrite s
  | .tvecWrite => Sys2Proof.Machine.execTvecWrite s
  | .hwinbWrite => Sys2Proof.Machine.execHwinbWrite s
  | .queueResume => Sys2Proof.Machine.execQueueResume s
  | .queueSkip => Sys2Proof.Machine.execQueueSkip s
  | .queueFlush => Sys2Proof.Machine.execQueueFlush s
  | .queueStop => Sys2Proof.Machine.execQueueStop s
  | .groupDrop => Sys2Proof.Machine.execGroupDrop s
  | .groupKill => Sys2Proof.Machine.execGroupKill s
  | .semFree => Sys2Proof.Machine.execSemFree s
  | .faultPop => Sys2Proof.Machine.execFaultPop s
  | .faultClearOvf => Sys2Proof.Machine.execFaultClearOvf s
  | .tileFree => Sys2Proof.Machine.execTileFree s
  | .stackReopen => Sys2Proof.Machine.execStackReopen s
  | .linkRetrain => Sys2Proof.Machine.execLinkRetrain s
  | .linkOff => Sys2Proof.Machine.execLinkOff s
  | .linkOn => Sys2Proof.Machine.execLinkOn s
  | .frameFree => Sys2Proof.Machine.execFrameFree s
  | .sbMerge => Sys2Proof.Machine.execSbMerge s
  | .sbDiscard => Sys2Proof.Machine.execSbDiscard s
  | .ckSave => Sys2Proof.Machine.execCkSave s
  | .ckLoad => Sys2Proof.Machine.execCkLoad s
  | .ckAbort => Sys2Proof.Machine.execCkAbort s
  | .eccClear => Sys2Proof.Machine.execEccClear s
  | .tokenArrival => Sys2Proof.Machine.execTokenArrival s
  | .hostCompletion => Sys2Proof.Machine.execHostCompletion s
  | .completionTimeout => Sys2Proof.Machine.execCompletionTimeout s
  | .hostLinkLost => Sys2Proof.Machine.execHostLinkLost s
  | .sramSoftError => Sys2Proof.Machine.execSramSoftError s

end Sys2Proof.Machine
end

