-- ==== Sys2Proof/Machine/Idle.lean ====
section
/-!
DEFINITION. What may happen of itself: the steps of the device whose operands its state names, as the model's own schedule tries them where the
agenda is empty (notes/assumptions 1). Steps that bring something from outside the device are not among them.
-/

namespace Sys2Proof.Machine

/-- A step on one, two or three objects. -/
def evOf (i : Instr) (n1 : Nat := 0) (n2 : Nat := 0) : Choice := .ev i { n1 := n1, n2 := n2 }

/-- A step that concerns an agent. -/
def evWho (i : Instr) (a : Agent) : Choice := .ev i { who := a }

/-- A level that may have completed. -/
def evLevel (l : Level) : Choice := .ev .levelComplete { level := l }

/-- The answer to request `id` at a port: a good completion, after the flit that brings it where a peer's is still to come, and a timeout only where the
port carries no traffic (R319, R324). -/
def answerChoices (s : State) (id : Nat) : List Choice :=
  match answerPort s id with
  | none => []
  | some port =>
    if !portOpen s port then [evOf .completionTimeout id]
    else
      (if portBrings s port || !requestOut s port id then []
       else [.ev .flitReceive { n1 := portLink port, n2 := 0, n3 := (getLink s (portLink port)).bwd.expect, flag := true }]) ++
        [.ev .hostCompletion { n1 := id, flag := true }]

/-- The steps of one engine queue with entries. -/
def queueChoices (c q : Nat) : List Choice :=
  [evOf .stopPointReached c q, evOf .engineWaitMet c q] ++
  (match q with
    | 0 => [evOf .copyRowDone c, evOf .followOnSubmit c]
    | 1 => [evOf .matrixUnitDone c]
    | 2 => [evOf .rayTraversal c]
    | _ => [evOf .tilerBegin c, evOf .tilerPrims c, evOf .spillLaunchComplete c, evOf .tilerEnd c, evOf .tilerRelease c]) ++
  [evOf .engineWorkDone c q]

/-- The steps of one core. -/
def coreChoices (c : Nat) (k : Core) : List Choice :=
  [evOf .issueCycle c, evOf .activeSetReplace c, evOf .recordDispatch c, evOf .heartbeatExpiry c] ++
    ((upTo k.sb.length).map fun j => evOf .storeDrain c j) ++
    (k.queues.flatMap fun q => if q.2.entries.isEmpty then [] else queueChoices c q.1)

/-- The steps of one group. -/
def groupChoices (g : Nat) : List Choice :=
  [evOf .placementComplete g, evOf .dropCommit g, evOf .groupRetire g, evOf .droppedGroupFree g]

/-- The step that a thread waits for. -/
def threadChoices (s : State) (a : Agent) : List Choice :=
  match getThread s a with
  | none => []
  | some t => match t.st with
    | .waiting (.enq _ _ _) => [evWho .enqSpaceRetry a]
    | .waiting (.matrix _) => [evWho .matrixIssueRetry a]
    | .waiting (.trace _ _) => [evWho .traceIssueRetry a]
    | .waiting (.sleep _) => [evWho .sleepExpiry a]
    | .waiting (.fprom _) => [evWho .fpromReceipt a]
    | .parked _ => [evWho .yieldWake a]
    | _ => []

/-- The steps of one context. -/
def ctxChoices (i : Nat) (c : Ctx) : List Choice :=
  [evOf .hostQueueEntryTaken i, evOf .phaseStart i, evLevel (.phase i), evLevel (.job i), evOf .ctxQuiesced i, evOf .ctxCaptureDone i,
    evOf .scrubComplete i] ++
    (match c.job.bind (·.phase) with
      | some p => ((upTo p.ng).filter fun g => !p.started.contains g).map fun j => evOf .graphStart i j
      | none => []) ++
    (if c.rate = 0 then [] else (upTo 16).map fun d => evOf .tokenArrival d i)

/-- A placement that a launch's next group fits: the first die with enough cores that take it, each core but the last holding as many spans as
fit an empty one. -/
def placeFor (s : State) (l : Launch) : Option (Nat × List Nat) :=
  let p := (l.kd.gx * l.kd.gy * l.kd.gz + 31) / 32
  let spans := min p (maxSpans (roundRegs l.kd.regs))
  let n := (p + spans - 1) / spans
  ((upTo 16).filterMap fun d =>
    let free := (rangeFrom (40 * d) 40).filter fun c => (getCore s c).running && canTake s c spans (roundRegs l.kd.regs) l.kd.scratch
    if free.length ≥ n then some (spans, free.take n) else none).head?

/-- The steps of one launch. -/
def launchChoices (s : State) (u : Nat) (l : Launch) : List Choice :=
  [evLevel (.launch u)] ++
    (if (nextGroup l).isNone then [] else
      match placeFor s l with
      | some (spans, cores) => [.ev .groupPlacing { n1 := u, n2 := spans, nums := cores }]
      | none => [])

/-- The step that serves a message. -/
def msgChoices (m : Msg) : List Choice :=
  match m.body with
  | .read _ => [evOf .daoftRead m.id]
  | .readResp _ _ _ => [evOf .daoftReadResponse m.id]
  | .write _ _ => [evOf .daoftWrite m.id]
  | .writeAck _ _ => [evOf .daoftWriteAck m.id]
  | .atomic _ => [evOf .daoftAtomic m.id]
  | .atomicResp _ _ => [evOf .daoftAtomicResponse m.id]
  | .marker _ _ => [evOf .routeMarker m.id]
  | .failResp _ _ => [evOf .daoftReadResponse m.id]
  | .control _ _ _ => [evOf .daoftControl m.id]
  | .reserved _ => []

/-- The steps of one link or peer port: good flits arrive, NAKs are served, a link that is down tells its senders. -/
def linkChoices (l : Nat) : List Choice :=
  if l ≥ 22 then [.ev .flitReceive { n1 := l, n2 := 1, flag := true }, evOf .flitReplay l 1, evOf .flitReplay l 0] else
  [.ev .flitReceive { n1 := l, n2 := 1, flag := true }, .ev .flitReceive { n1 := l, n2 := 0, flag := true }, evOf .flitReplay l 1,
    evOf .flitReplay l 0, evOf .linkDownResend l]

/-- Everything that may happen of itself. -/
def ownChoices (s : State) : List Choice :=
  (s.cores.flatMap fun k => coreChoices k.1 k.2) ++
  (s.dies.flatMap fun d => [.issue (.sextant d.1), evOf .sextantException d.1]) ++
  ((s.dies.filter fun d => d.2.frames.any fun f => f.2.st == 2).map fun d => evOf .spillLaunchComplete (40 * d.1)) ++
  (s.groups.flatMap fun g => groupChoices g.1) ++
  ((allAgents s).flatMap (threadChoices s)) ++
  (s.ctxs.flatMap fun c => ctxChoices c.1 c.2) ++
  (s.aps.map fun a => evOf .scrubComplete (4096 + a.1)) ++
  (s.graphs.flatMap fun g => evLevel (.graph g.1) :: ((upTo g.2.nodes.length).map fun j => evOf .nodeLaunchStart g.1 j)) ++
  (s.launches.flatMap fun l => launchChoices s l.1 l.2) ++
  (s.wins.flatMap fun w => [evOf .shutterCommit w.1, evOf .shutterDropCommit w.1]) ++
  (s.stk.flatMap fun k => [evOf .handoverDrained k.1, evOf .handoverSwitched k.1, evOf .drainTimeout k.1]) ++
  (s.msgs.flatMap msgChoices) ++
  (s.links.flatMap fun l => linkChoices l.1) ++
  (s.hostq.map fun q => .hostServe q.id) ++
  ((s.pends.filter (·.host)).flatMap fun p => answerChoices s p.id) ++
  (s.cores.flatMap fun c => (c.2.sb.filter fun x => x.sent && paRegion x.frame == 3).flatMap fun x => answerChoices s x.id) ++
  (s.asks.flatMap fun q => answerChoices s q.id) ++
  ((upTo s.repls.length).flatMap fun i => (upTo 16).map fun j => evOf .replicatedUpdate i j) ++
  [evOf .quoteComplete, evOf .ckDone]

/-- A list that starts at another of its elements. -/
def rotate {α : Type} (l : List α) (n : Nat) : List α := if l.isEmpty then l else l.drop (n % l.length) ++ l.take (n % l.length)

end Sys2Proof.Machine
end

