-- ==== Sys2Proof/Machine/Schedule.lean ====
section
/-!
DEFINITION. What happens next (notes/assumptions 1): the agenda's choices, and the model's own schedule where the agenda is
empty. The rules leave the order of the device's agents open; the agenda names an order, and any order of its choices is a run
of the device.
-/

namespace Sys2Proof.Machine

/-! ## Time (R15, R16) -/

/-- A die's clock counts `n` nanoseconds. -/
def passDie (n : Nat) (v : Die) : Die :=
  let f := v.frac + n * v.clock
  { v with cycles := v.cycles + f / 1000, frac := f % 1000 }

/-- `n` meridian ticks of one nanosecond pass, on every die at once. -/
def addTicks (s : State) (n : Nat) : State :=
  let s := (upTo 16).foldl (fun s d => modDie s d (passDie n)) s
  { s with dev := { s.dev with tick := (s.dev.tick + n) % 2 ^ 64 } }

/-- What is due at a tick and follows at once, with the tick: the commits of windows (R250, R275, R276), the limits of drains (R304), and the deadlines
of heartbeats (R358). -/
def dueAt (s : State) : List (Nat × Instr × EvArg) :=
  (s.wins.filterMap fun w =>
    match w.2.state with
    | .publishing => some (w.2.tick, .shutterCommit, { n1 := w.1 })
    | .dropping => some (w.2.tick, .shutterDropCommit, { n1 := w.1 })
    | _ => none) ++
  (s.stk.flatMap fun k => if k.2.state = .closing then
      [(k.2.began + 1000000, .handoverDrained, { n1 := k.1 }), (k.2.began + 1000000, .drainTimeout, { n1 := k.1 })] else []) ++
  (s.cores.filterMap fun c => if watched s c.1 then some (deadline s c.1, .heartbeatExpiry, { n1 := c.1 }) else none)

/-- `n` ticks pass, or fewer, up to the next tick at which something is due, which then comes before anything else. -/
def passTime (s : State) (n : Nat) : State :=
  let l := dueAt s
  let m := l.foldl (fun m x => min m (x.1 - s.dev.tick)) n
  let s := addTicks s m
  { s with todo := s.todo ++ ((l.filter fun x => x.1 ≤ s.dev.tick).map (·.2)) }

/-! ## Evictions -/

/-- A list without its element `n`. -/
def dropNth {α : Type} (l : List α) (n : Nat) : List α := l.take n ++ l.drop (n + 1)

/-- A line of an L2 is evicted: its dirty bytes go to its frame (R223). -/
def evictL2 (s : State) (d i : Nat) : State :=
  match (getDie s d).l2[i]? with
  | some c => modDie (writeBack s d c) d fun v => { v with l2 := dropNth v.l2 i }
  | none => s

/-! ## Choices -/

/-- A standing error of a stack's controller is repaired (R304). -/
def repairStack (s : State) (k : Nat) : State := modStack s k fun v => { v with err := false }

/-- Does a step belong to the compute side, which a reload has stopped and returns to reset (R374)? Between its step 2 and its step 4 none of them
happens: hand-overs, messages, stores and ports go on alone (notes/assumptions 94). -/
def stoppedStep (i : Instr) : Bool :=
  match i with
  | .placementComplete | .dropCommit | .groupRetire | .groupPlacing | .droppedGroupFree | .levelComplete | .hostQueueEntryTaken | .phaseStart
  | .graphStart | .nodeLaunchStart | .ctxQuiesced | .ctxCaptureDone | .scrubComplete | .recordDispatch | .yieldWake | .sleepExpiry | .semwService
  | .fpromReceipt | .ckDone => true
  | _ => false

/-- What a choice does. A choice that is not possible changes nothing; an instruction of the word is no choice. -/
def act (s : State) (c : Choice) : Host.Outcome State Fault Refusal :=
  match c with
  | .ev i arg => if i.isWord || (s.dev.resetDue && stoppedStep i) then .next s else exec i { s with arg := arg }
  | .issue (.sextant d) => .next (sextantIssue s d)
  | .issue _ => .next s
  | .tick n => .next (passTime s n)
  | .defer => .next { s with defer := true }
  | .evictL1 c i => .next (modCore s c fun k => { k with l1 := dropNth k.l1 i })
  | .evictIline c i => .next (modCore s c fun k => { k with ilines := dropNth k.ilines i })
  | .evictL2 d i => .next (evictL2 s d i)
  | .dramError a => .next (if dramOk a then poisonLine s (a / 128) else s)
  | .bar0 port off l => hostEvent s port (.bar0 off l)
  | .bar0Read port off n id => hostEvent s port (.bar0Read off n id)
  | .mailboxReply l => .next (mailboxReply s l)
  | .hostMemory port addr l => .next (hostPut s port addr l)
  | .controllerRepair k => .next (repairStack s k)
  | .hostServe id => .next (serveHost s id)

/-- Does a choice change anything but the operands it leaves? -/
def changes (s : State) (c : Choice) : Bool :=
  match act s c with
  | .next t => { t with arg := s.arg } != s
  | _ => false

/-- The choice of the model's own schedule: every fourth turn time passes, at the others the first thing that can happen, counted from another
place of the list at each turn. -/
def idleChoice (s : State) : Choice :=
  if s.turn % 4 = 3 then .tick 1
  else ((rotate (ownChoices s) s.turn).find? (changes s)).getD (.tick 1)

/-- One step with no instruction in hand: the agenda's head, or the model's own choice. -/
def proceed (s : State) : Host.Outcome State Fault Refusal :=
  match s.agenda with
  | c :: r => act { s with agenda := r } c
  | [] => act { s with turn := s.turn + 1 } (idleChoice s)

/-! ## Executing a thread -/

/-- May a thread with a request under way go on with this word (R159)? The model lets it run ahead over words that change nothing but its own
registers and PC, and over further loads (notes/assumptions 59): what it ran ahead can then be undone (R352, R362). -/
def runsAhead (w : DWord) : Bool := portClass w == .arith || fMaj w == 0x01 || fMaj w == 0x02 || fMaj w == 0x30

/-- The sextant core of an agent, its thread aside; the same value for every other agent. -/
def sextantRest (s : State) (a : Agent) : Sextant := match a with | .sextant d => { (getDie s d).sx with th := {} } | _ => {}

/-- May the thread be left as an instruction that ran ahead from `s` left it: READY, or waiting for its registers, with no exception taken? -/
def aheadOk (s s' : State) (a : Agent) : Bool :=
  match getThread s' a with
  | some t => (t.st == .ready || t.st == .waiting .regs) && sextantRest s' a == sextantRest s a
  | none => false

/-- A state after a step is changed, where there is one. -/
def mapNext (f : State → State) (o : Host.Outcome State Fault Refusal) : Host.Outcome State Fault Refusal :=
  match o with
  | .next s => .next (f s)
  | o => o

/-- Does an instruction take launch ids, in the order in which such instructions issue (R103)? -/
def takesIds (i : Instr) : Bool := match i with | .launch _ => true | _ => false

/-- A thread issues a LAUNCH: the bundle in which it first did tells its place. -/
def noteLaunch (s : State) (a : Agent) : State :=
  modThread s a fun t => { t with lau := t.lau.orElse fun _ => some (t.bids.headD 0) }

/-- A thread that waits for a register has not issued its LAUNCH (R159). -/
def unnoteLaunch (s : State) (a : Agent) : State :=
  modThread s a fun t => if t.st = .waiting .regs then { t with lau := none } else t

/-- The instruction of a word executes for a thread; one that may not run ahead of the thread's requests waits for them, and one that acts in the
order of the tids of its bundle for the threads before it (R164), a LAUNCH for those issued before it too (R103). -/
def runWord (s : State) (a : Agent) (w : DWord) (i : Instr) : Host.Outcome State Fault Refusal :=
  let s := { s with cur := some a }
  let s := if takesIds i then noteLaunch s a else s
  if (ordered i && !bundleTurn s a) || (takesIds i && !launchTurn s a) then .next (waitAt s a .turn)
  else if takesIds i && !hasPend s a then mapNext (unnoteLaunch · a) (exec i s)
  else if !hasPend s a then exec i s
  else if !runsAhead w then .next (waitAt s a .pending)
  else match exec i s with
    | .next s' => .next (if aheadOk s s' a then s' else waitAt s a .pending)
    | o => o

/-- The thread of a bundle executes the word at its PC (R22): fetch, decode, then the instruction; a word that does not decode
traps 0x01, once the thread's requests have returned. -/
def runThread (s : State) (a : Agent) (t : Thread) : Host.Outcome State Fault Refusal :=
  match fetchWord s (envOf s a) t.pc with
  | .error p => .next (fetchStop s a p)
  | .ok (w, s) =>
    let s := fetched s a
    match decode w with
    | .error _ => .next (if hasPend s a then waitAt s a .pending else trap s a 0x01)
    | .ok i => runWord s a w i

/-! ## After a step -/

/-- The group of a thread, where it is in a state. -/
def inState (s : State) (a : Agent) (g : GState) : Bool := (envOf s a).inGroup && ((envOf s a).group s).state == g

/-- A thread that has issued keeps its place only where it waits now: at one stack, or for tokens; answers from ports that it has not taken are
dropped once it goes on. A thread of a HALTED group whose request comes to be held is held no more (R352). -/
def settlePlace (s : State) (a : Agent) : State :=
  let mine (r : Req) : Bool := r == .agent a
  if !placed s mine then s
  else
    match ((getThread s a).getD {}).st with
    | .waiting (.held k _ _) =>
      if inState s a .halted then leaveReq s mine
      else { s with stk := SMap.mapVal s.stk fun n v => if n = k then v else { v with held := v.held.filter fun h => !mine h.req } }
    | .waiting (.token _ _ _) => { s with stk := SMap.mapVal s.stk fun _ v => { v with held := v.held.filter fun h => !mine h.req } }
    | .waiting _ => leaveTokens { s with stk := SMap.mapVal s.stk fun _ v => { v with held := v.held.filter fun h => !mine h.req } } (.agent a) none
    | _ => moveOn (leaveReq s mine)

/-- A thread that a drop has left and that has come to the end of its instruction is discarded with the rest of its group: a record of its trap is
withdrawn (R152, R347). -/
def settleDrop (s : State) (a : Agent) : State := if inState s a .dropping then withdrawRecs s (envOf s a).gid else s

/-- A thread of a HALTED group that has come to the end of its instruction, or whose request has come to be held, so that it stands at its instruction,
keeps nothing of what it had under way; a row mask that it has set meanwhile is cleared as by the halt (R278, R294, R352). -/
def settleHalt (s : State) (a : Agent) : State :=
  if !inState s a .halted then s
  else match getThread s a with
    | none => s
    | some t =>
      if t.finishing then s
      else
        let s := match t.st with
          | .waiting (.held _ _ _) | .waiting .route => setThread s a { t.settled with st := t.st }
          | _ => s
        clearLmasks s (envOf s a).gid (envOf s a).coreNo

/-- Would the word a thread stands at wait for a register that awaits a result (R159)? -/
def awaitsNext (s : State) (a : Agent) (t : Thread) : Bool :=
  !t.await.isEmpty &&
    match fetchWord s (envOf s a) t.pc with
    | .error _ => false
    | .ok (w, s) =>
      match decode w with
      | .error _ => false
      | .ok i =>
        match exec i { s with cur := some a } with
        | .next s' => ((getThread s' a).map fun u => u.st == .waiting .regs).getD false
        | _ => false

/-- A thread whose next instruction's sources are pending is WAITING, and READY once they are not (R161, R163). -/
def settleAwait (s : State) (a : Agent) : State :=
  match getThread s a with
  | none => s
  | some t =>
    match t.st with
    | .ready => if awaitsNext s a t then setThread s a { t with st := .waiting .regs } else s
    | .waiting .regs => if awaitsNext s a t then s else wake s a
    | _ => s

/-- Does the core of an agent run? -/
def agentOn (s : State) (a : Agent) : Bool :=
  match a with
  | .sextant d => (getDie s d).sx.running
  | a => (getCore s (envOf s a).coreNo).running

/-- The next thread of the bundle executes, where it is still FUSED. -/
def runBundle (s : State) (a : Agent) : Host.Outcome State Fault Refusal :=
  match getThread s a with
  | some t =>
    if t.st = .fused && agentOn s a then mapNext (fun s => settleHalt (settleDrop (settlePlace s a) a) a) (runThread s a t) else .next s
  | none => .next s

/-- Has a thread that waits in a release, or for room for its stores, nothing left to wait for: whatever performed the last entry (R241)? -/
def drainOver (s : State) (a : Agent) (t : Thread) (bound : Nat) : Bool :=
  let c := (envOf s a).coreNo
  if t.relBound.isSome then drainMet s c bound && !hasPend s a && !(s.repls.any fun r => r.who == a)
  else (getCore s c).sb.length < 64

/-- A thread that waits is looked at again: for registers, for its turn in its bundle, for the end of a release, for a core it halts. -/
def settleThread (s : State) (a : Agent) : State :=
  match getThread s a with
  | none => s
  | some t =>
    match t.st with
    | .waiting .turn => if bundleTurn s a && launchTurn s a then wake s a else s
    | .waiting (.drain b) => if drainOver s a t b then wake s a else s
    | .waiting (.halt _ _) => haltRetire s a
    | _ => settleAwait s a

/-- What a capture, a MERGE or a HALT.rel may wait for, counted: queues not at rest, instructions and requests under way, stores, and cores still being
halted (R353, R360). -/
def busyCount (s : State) : Nat :=
  (s.cores.map fun c => ((upTo 4).filter fun q => !queueAtRest s c.1 q).length + c.2.sb.length + (if c.2.freezing then 1 else 0)).sum +
    ((allAgents s).filter fun a => match getThread s a with | some t => t.finishing | none => false).length +
    (s.pends.filter fun p => !p.drop).length

/-- What a halt has still to do: requests of HALTED groups that have come to be held are given up (R352, R366), and halted cores that are quiet now
freeze (R360). -/
def settleHalts (s : State) : State :=
  let s := (s.groups.filter fun g => g.2.state == .halted).foldl (fun s g => giveUp s g.1) s
  (s.cores.filter fun c => c.2.freezing).foldl (fun s c => freezeQuiet s c.1) s

/-- How many reads are under way that are bound to the windows of a tick, as requests, in threads, in engines, or of hosts and peers (R250). -/
def boundReads (s : State) : Nat :=
  (s.pends.filter fun p => !p.drop).length + s.hostq.length + ((allAgents s).filter fun a => match getThread s a with | some t => t.readsBound | none => false).length +
    (s.cores.map fun c => (c.2.queues.filter fun q => q.2.view.isSome).length).sum

/-- Has a request that waited at a stack or for a token in `s` left its place in `s'`? -/
def placeLeft (s s' : State) : Bool :=
  (s.stk.any fun k => k.2.held.any fun h => !((getStack s' k.1).held.any fun x => x.seq == h.seq)) ||
    s.dies.any fun d => d.2.tokq.any fun x => !((getDie s' d.1).tokq.any fun y => y.req == x.req && y.line == x.line)

/-- Have tokens come or gone, or has a class been served, at a die where requests wait (R87)? -/
def tokensMoved (s s' : State) : Bool :=
  s'.dies.any fun d => !d.2.tokq.isEmpty && (d.2.buckets != (getDie s d.1).buckets || d.2.dlRun != (getDie s d.1).dlRun)

/-- After a step from `s0`: what stood behind a request that has left goes on, a write that waited for reads of another generation looks again, HINGEs
have their turns, and so has every thread that waits for what the step has brought. -/
def settleAll (s0 s : State) : State :=
  let s := settleHalts s
  let s := if busyCount s < busyCount s0 then wakeCaptures s else s
  let s := if placeLeft s0 s || tokensMoved s0 s then moveOn s else s
  let s := if boundReads s < boundReads s0 then wakeWhere s fun _ w => w == .isolation else s
  let s := allHinges s
  (allAgents s).foldl settleThread s

/-! ## One word placed (notes/assumptions 13) -/

/-- The attributes of the page the placed word lies in: executable and open to user mode. -/
def placedAttr : Attr := { w := false, x := true, u := true }

/-- A word in an instruction line of core 0, at address 0 of context 1, and a RUNNING group of one FUSED thread that stands at
it. -/
def placeWord (s : State) (w : DWord) : State :=
  let line : CLine := { tag := 1, line := 0, frame := 0, attr := placedAttr, data := w.zeroExtend 1024 }
  let th : Thread := { st := .fused }
  let g : Group :=
    { ctx := 1, launch := 0, regs := 248, spans := 1, slices := [(0, 0)], state := .running, threads := [th], k := [[]] }
  let s := modCore s 0 fun k =>
    { k with running := true, ilines := [line], slots := [(0, { gid := 1, rank := 0, active := some 0 })] }
  let s := modCtx s 1 fun c => { c with state := .active }
  { s with groups := [(1, g)], bundle := [.thread 1 0], todo := [] }

end Sys2Proof.Machine
end

