-- ==== Sys2Proof/Machine/Step.lean ====
section
/-!
DEFINITION. One step of the device: a step that follows at once, else the next thread of the bundle being issued, else what the
agenda or the model's own schedule chooses. And the placing of one instruction where the next step fetches it.
-/

namespace Sys2Proof.Machine

/-- One step: a step of the device that follows at once, the next thread of the bundle, or what the agenda names; then what waited for
what it brings goes on. -/
def step (s : State) : Host.Outcome State Fault Refusal :=
  mapNext (settleAll s) <| match s.todo with
    | (i, arg) :: r => exec i { s with todo := r, arg := arg, cur := none }
    | [] =>
      match s.bundle with
      | a :: r => runBundle { s with bundle := r } a
      | [] => proceed { s with cur := none }

/-- The device with one word loaded for its next step (notes/assumptions 13): a group of one thread, of context 1, is resident on
core 0 with the word in an instruction line at address 0 of its space, and its thread is the bundle being issued. It stands for
what a launch brings about. -/
def State.withFetchWord (s : State) (_nbits w : Nat) : State :=
  placeWord s (BitVec.ofNat 64 w)

end Sys2Proof.Machine
end

