-- ==== Sys2Proof/Safety.lean ====
section
/-!
DEFINITION. What a safe step and a safe run are, and the terms the claims are stated in: a thread whose word nothing stops before
its effect, the state in which a word has retired, and what a step leaves as it is.
-/

namespace Sys2Proof.Machine

/-- A step that goes on. -/
def StepsOn (s : State) : Prop := ∃ t, step s = .next t

/-- The memory of a state has its canonical form. -/
def MemOk (s : State) : Prop := Memory.wf s.mem = true

/-- A run of `n` steps that goes on, with memory in canonical form all along. -/
def SafeRun (n : Nat) (s : State) : Prop :=
  match n with
  | 0 => MemOk s
  | n + 1 => MemOk s ∧ ∃ t, step s = .next t ∧ SafeRun n t

/-- What a step from `s0` adds once a thread has issued and left `s`: its places in the queues of the memory system, the records of a drop, what a halt
takes from it, then what waited for what the step has brought. -/
def settled (s0 s : State) (a : Agent) : State := settleAll s0 (settleHalt (settleDrop (settlePlace s a) a) a)

/-- The thread that executes a word: agent `a`, whose thread is `t`. -/
structure Executes (s : State) (a : Agent) (t : Thread) : Prop where
  cur : s.cur = some a
  thread : getThread s a = some t

/-- Nothing that R22 checks of a word before its guard stops thread `t` of agent `a`: the word may execute where the thread is, the
thread has the right, and every operand lies within its limits. -/
structure Passes (s : State) (a : Agent) (t : Thread) (pol : Policy) (needs : List Need) : Prop extends Executes s a t where
  place : pol.place.allows (envOf s a) = true
  legal : pol.ill (envOf s a) = false
  right : pol.right.allows (envOf s a) = true
  limits : needs.all (fun n => n.ok (envOf s a)) = true
  lim : pol.lim (envOf s a) = false

/-- Nothing stops a word of thread `t` of agent `a` before its effect: the checks pass, the guard holds (R21), no register it names awaits
a result (R159), and no source register holds a poisoned value (R364). -/
structure Clear (s : State) (a : Agent) (t : Thread) (g : GuardF) (pol : Policy) (needs : List Need) : Prop
    extends Passes s a t pol needs where
  guard : guardHolds g t = true
  arrived : needsAwait needs t = false
  clean : needsBad needs t = false

/-- What a host asks at a port is served as it arrives (R316, R323): the port carries traffic, no write of it is kept, and each has reached every
copy. -/
structure PortClear (s : State) (port : Nat) : Prop where
  isHost : port < 4
  isOpen : portOpen s port = true
  noWrite : ∀ x ∈ s.hostq, x.port = port → x.req.writes = false
  noCopy : ∀ r ∈ s.repls, r.who ≠ portParty port

/-- A release at a scope has nothing left to wait for in `s` (R241); scope 0 asks for none. -/
def Released (s : State) (e : Env) (t : Thread) (scope : Nat) : Prop :=
  scope = 0 ∨ releaseDone s e scope (t.relBound.getD s.uid) = true

/-- The word of agent `a` retires from `s` with the registers of `t`, its other effects being those of `s'`. -/
def retired (s s' : State) (a : Agent) (needs : List Need) (t : Thread) : State :=
  passFree (retire s' (envOf s a) t) (envOf s a) needs

/-- The word retires and the thread goes on at `pc`. -/
def retiredTo (s s' : State) (a : Agent) (needs : List Need) (t : Thread) (pc : DWord) : State :=
  passFree (retireTo s' (envOf s a) t pc) (envOf s a) needs

/-- The word of agent `a` retires with nothing but the registers of its thread changed. -/
def wrote (s : State) (a : Agent) (needs : List Need) (t : Thread) : State := retired s s a needs t

/-- The operands A and B of an R-format word with the k selects of R32, and what they are called in a word's list of operands. -/
def valA (s : State) (a : Agent) (t : Thread) (o : OpR) : Word := selX s (envOf s a) t (kA o) o.a
def valB (s : State) (a : Agent) (t : Thread) (o : OpR) : Word := selX s (envOf s a) t (kB o) o.b
def pairA (s : State) (a : Agent) (t : Thread) (o : OpR) : DWord := selPair s (envOf s a) t (kA o) o.a
def pairB (s : State) (a : Agent) (t : Thread) (o : OpR) : DWord := selPair s (envOf s a) t (kB o) o.b

/-! ## Words that write one register -/

/-- `mk o` writes x[D] := f(x[A], IMM32). -/
def ImmWrites (mk : OpI → Instr) (f : Word → Word → Word) : Prop :=
  ∀ s a t (o : OpI), Clear s a t o.g {} [.dx o.d, .sx o.a] →
    exec (mk o) s = .next (wrote s a [.dx o.d, .sx o.a] (writeX t o.d.toNat (f (readX t o.a.toNat) o.imm)))

/-- `mk o` writes x[D] := f(a), a an x or k register by MOD[7]. -/
def Writes1 (mk : OpR → Instr) (f : Word → Word) : Prop :=
  ∀ s a t (o : OpR), Clear s a t o.g {} [.dx o.d, needSel (kA o) o.a] →
    exec (mk o) s = .next (wrote s a [.dx o.d, needSel (kA o) o.a] (writeX t o.d.toNat (f (valA s a t o))))

/-- `mk o` writes x[D] := f(a, b), each an x or k register by MOD[7] and MOD[6]. -/
def Writes2 (mk : OpR → Instr) (f : Word → Word → Word) : Prop :=
  ∀ s a t (o : OpR), Clear s a t o.g {} [.dx o.d, needSel (kA o) o.a, needSel (kB o) o.b] →
    exec (mk o) s = .next (wrote s a [.dx o.d, needSel (kA o) o.a, needSel (kB o) o.b]
      (writeX t o.d.toNat (f (valA s a t o) (valB s a t o))))

/-- `mk o` writes x[D] := f(a, b, x[C]), A and B an x or k register by MOD[7] and MOD[6]. -/
def Writes3 (mk : OpR → Instr) (f : Word → Word → Word → Word) : Prop :=
  ∀ s a t (o : OpR), Clear s a t o.g {} [.dx o.d, needSel (kA o) o.a, needSel (kB o) o.b, .sx o.c] →
    exec (mk o) s = .next (wrote s a [.dx o.d, needSel (kA o) o.a, needSel (kB o) o.b, .sx o.c]
      (writeX t o.d.toNat (f (valA s a t o) (valB s a t o) (readX t o.c.toNat))))

/-- `mk o` writes x[D] := f(x[A], x[B]), with no k selects. -/
def WritesPlain2 (mk : OpR → Instr) (f : OpR → Word → Word → Word) : Prop :=
  ∀ s a t (o : OpR), Clear s a t o.g {} [.dx o.d, .sx o.a, .sx o.b] →
    exec (mk o) s = .next (wrote s a [.dx o.d, .sx o.a, .sx o.b]
      (writeX t o.d.toNat (f o (readX t o.a.toNat) (readX t o.b.toNat))))

/-- `mk o` writes x[D] := f(x[A], x[B], x[C]), with no k selects. -/
def WritesPlain3 (mk : OpR → Instr) (f : OpR → Word → Word → Word → Word) : Prop :=
  ∀ s a t (o : OpR), Clear s a t o.g {} [.dx o.d, .sx o.a, .sx o.b, .sx o.c] →
    exec (mk o) s = .next (wrote s a [.dx o.d, .sx o.a, .sx o.b, .sx o.c]
      (writeX t o.d.toNat (f o (readX t o.a.toNat) (readX t o.b.toNat) (readX t o.c.toNat))))

/-- `mk o` writes the pair x[D] := f(PA, PB), each a pair of x or k registers. -/
def WritesPair2 (mk : OpR → Instr) (f : DWord → DWord → DWord) : Prop :=
  ∀ s a t (o : OpR), Clear s a t o.g {} [.dp o.d, needSelPair (kA o) o.a, needSelPair (kB o) o.b] →
    exec (mk o) s = .next (wrote s a [.dp o.d, needSelPair (kA o) o.a, needSelPair (kB o) o.b]
      (writePair t o.d.toNat (f (pairA s a t o) (pairB s a t o))))

/-- `mk o` writes the pair x[D] := f(PA, b), B a single register. -/
def WritesPair1 (mk : OpR → Instr) (f : DWord → Word → DWord) : Prop :=
  ∀ s a t (o : OpR), Clear s a t o.g {} [.dp o.d, needSelPair (kA o) o.a, needSel (kB o) o.b] →
    exec (mk o) s = .next (wrote s a [.dp o.d, needSelPair (kA o) o.a, needSel (kB o) o.b]
      (writePair t o.d.toNat (f (pairA s a t o) (valB s a t o))))

/-! ## Float words: A prepared by MOD[4] and MOD[3], B by MOD[5], C by MOD[6] (R34, R179) -/

/-- The prepared operands. -/
def fltOpA (s : State) (a : Agent) (t : Thread) (o : OpR) : Word := fltA s (envOf s a) t o
def fltOpB (t : Thread) (o : OpR) : Word := fltB t o
def fltOpC (t : Thread) (o : OpR) : Word := fltC t o

/-- `mk o` writes x[D] := f(A). -/
def FloatWrites1 (mk : OpR → Instr) (f : OpR → Word → Word) : Prop :=
  ∀ s a t (o : OpR), Clear s a t o.g {} [.dx o.d, needSel (kA o) o.a] →
    exec (mk o) s = .next (wrote s a [.dx o.d, needSel (kA o) o.a] (writeX t o.d.toNat (f o (fltOpA s a t o))))

/-- `mk o` writes x[D] := f(A, B). -/
def FloatWrites2 (mk : OpR → Instr) (f : OpR → Word → Word → Word) : Prop :=
  ∀ s a t (o : OpR), Clear s a t o.g {} [.dx o.d, needSel (kA o) o.a, .sx o.b] →
    exec (mk o) s = .next (wrote s a [.dx o.d, needSel (kA o) o.a, .sx o.b] (writeX t o.d.toNat (f o (fltOpA s a t o) (fltOpB t o))))

/-- `mk o` writes x[D] := f(A, B, C). -/
def FloatWrites3 (mk : OpR → Instr) (f : OpR → Word → Word → Word → Word) : Prop :=
  ∀ s a t (o : OpR), Clear s a t o.g {} [.dx o.d, needSel (kA o) o.a, .sx o.b, .sx o.c] →
    exec (mk o) s = .next (wrote s a [.dx o.d, needSel (kA o) o.a, .sx o.b, .sx o.c]
      (writeX t o.d.toNat (f o (fltOpA s a t o) (fltOpB t o) (fltOpC t o))))

/-! ## Rays -/

/-- The ray of a walk meets a triangle at `t`, in the point with the barycentric coordinates `u` and `v` (17_frame R336). -/
def Walker.meets (w : Walker) (v0 v1 v2 : Vq) (t u v : Rat) : Prop :=
  let p := w.io.q.along w.id.q t
  p.x = (1 - u - v) * v0.x + u * v1.x + v * v2.x ∧ p.y = (1 - u - v) * v0.y + u * v1.y + v * v2.y ∧
    p.z = (1 - u - v) * v0.z + u * v1.z + v * v2.z

/-- `t` lies in [TMIN, tcur] and the ray at `t` in a closed box (R336). -/
def Walker.inBox (w : Walker) (mn mx : Vq) (t : Rat) : Prop :=
  let p := w.io.q.along w.id.q t
  ratOf (fp32Val w.tmin) ≤ t ∧ t ≤ ratOf (fp32Val w.tcur) ∧ mn.x ≤ p.x ∧ p.x ≤ mx.x ∧ mn.y ≤ p.y ∧ p.y ≤ mx.y ∧ mn.z ≤ p.z ∧ p.z ≤ mx.z

/-! ## What a step leaves -/

/-- Everything of the state but the groups, the cores, the dies and the model's own scheduling fields is as it was. -/
structure SameOutside (s s' : State) : Prop where
  ctxs : s'.ctxs = s.ctxs
  aps : s'.aps = s.aps
  wins : s'.wins = s.wins
  hwins : s'.hwins = s.hwins
  stk : s'.stk = s.stk
  links : s'.links = s.links
  launches : s'.launches = s.launches
  graphs : s'.graphs = s.graphs
  mem : s'.mem = s.mem
  poison : s'.poison = s.poison
  host : s'.host = s.host
  msgs : s'.msgs = s.msgs
  pends : s'.pends = s.pends
  repls : s'.repls = s.repls
  outs : s'.outs = s.outs
  asks : s'.asks = s.asks
  hostq : s'.hostq = s.hostq

/-- Cores keep everything but their lanes and waiting records, dies everything but their sextant core, and groups everything but their
threads. -/
structure SameObjects (s s' : State) : Prop where
  cores : ∀ c, { getCore s' c with lanes := [], recs := [] } = { getCore s c with lanes := [], recs := [] }
  dies : ∀ d, { getDie s' d with sx := {} } = { getDie s d with sx := {} }
  groups : ∀ g, (getGroup s' g).map (fun x => { x with threads := [] }) = (getGroup s g).map (fun x => { x with threads := [] })

/-- Every thread but that of `a` is as it was. -/
def SameThreads (s s' : State) (a : Agent) : Prop := ∀ b, b ≠ a → getThread s' b = getThread s b

/-- The words that read and write registers only: the immediate, integer, logic, compare, address and float families, MOV, SREAD and
NOP (R178). -/
def registerOnly (i : Instr) : Bool :=
  match i with
  | .nop _ | .movi _ | .movih _ | .iaddi _ | .imuli _ | .andi _ | .ori _ | .xori _ | .shli _ | .shri _ | .sari _ | .aaddi _
  | .iadd _ | .isub _ | .imul _ | .imulh _ | .imulhu _ | .imad _ | .imin _ | .imax _ | .umin _ | .umax _ | .iabs _ | .iadds _
  | .isubs _ | .idiv _ | .udiv _ | .irem _ | .urem _ | .dp4a _ | .dp4au _
  | .and_ _ | .or_ _ | .xor_ _ | .andn _ | .blut _ | .shl _ | .shr_ _ | .sar _ | .rol _ | .bfe _ | .bfeu _ | .bfi _ | .popc _
  | .clz _ | .brev _ | .bshuf _ | .icmp _ | .icmpm _ | .sel _ | .plut _ | .pgat _ | .pscat _
  | .aadd _ | .asub _ | .acmp _ | .shl64 _ | .shr64 _ | .iadd64 _ | .imul64 _ | .amov _
  | .fadd _ | .fsub _ | .fmul _ | .ffma _ | .fmin _ | .fmax _ | .fsetp _ | .fset _ | .fdiv _ | .fsqrt _ | .frnd _
  | .hadd2 _ | .hmul2 _ | .hfma2 _ | .hmin2 _ | .hmax2 _ | .hsetp2 _ | .hdot2 _
  | .frcp _ | .frsq _ | .fexp2 _ | .flog2 _ | .fsin _ | .fcos _ | .ftanh _
  | .f2i _ | .f2u _ | .i2f _ | .u2f _ | .f2h _ | .h2f _ | .cvtq _ | .cvtd _ | .xscale _ | .mov _ | .sread _ => true
  | _ => false

/-- The words that execute in groups only (R43, R389); an atomic on scratch is one of them by its MOD. -/
def groupWord (i : Instr) : Bool :=
  match i with
  | .kput _ | .kget _ | .tumb _ | .xshf _ | .xred _ | .xscn _ | .xbal _ | .xvote _ | .bari _ | .bara _ | .barw _ | .bars _
  | .semi _ | .sems _ | .semw _ | .semr _ | .ldsc _ | .stsc _ | .bkvaddf _ | .bkvaddi _ | .bkvmaxf _ | .bkvmaxa _ | .bkvaddh _
  | .enq _ | .tplw _ | .qstat _ | .qwait _ | .qpush _ | .qpop _ | .tmma _ | .tadd _ | .tcvt _ | .trace _ | .launch _ | .cancel _
  | .cntrRd _ | .cntrAdd _ | .phaseRd _ | .phaseNext _ | .idemOff _ | .idemOn _ => true
  | .atom o | .red_ o => atomScratch o
  | _ => false

/-- The words that do not execute on a sextant core but do in a service lane (R389). -/
def computeWord (i : Instr) : Bool :=
  match i with
  | .yield _ | .bkred _ | .sharm _ | .shpub _ | .shdrop _ | .shstat _ | .tcfg _ | .tcfgr _ | .tzero _ | .tget _ | .tset _
  | .tld _ | .tst _ | .tdrain _ | .tfill _ | .sample _ | .imld _ | .imst _ | .tlist _ | .beat _ => true
  | _ => false

/-- The words that need supervisor privilege (R42); the control-register words name a number that is assigned. -/
def supervisorWord (i : Instr) : Bool :=
  match i with
  | .captGroup _ | .captCore _ | .captResume _ | .halt _ | .haltRel _ | .eret _ | .eretExit _ | .tinvInv _ | .tinvRetry _ | .tinvFail _ => true
  | .csrr o | .csrw o => csrKind (csrNumber o) != .none && (csrKind (csrNumber o) != .plain || o.a == 0)
  | _ => false

/-- Agent `a` has retired its word between `s` and `s'` with the registers of `t`: READY at the next word; every other thread is as it
was. -/
def RetiresWith (s s' : State) (a : Agent) (t : Thread) : Prop :=
  getThread s' a = some { t.settled with st := .ready, stamp := dieCycle s (envOf s a).die, pc := t.pc + 8 } ∧ SameThreads s s' a

end Sys2Proof.Machine
end

