-- ==== Sys2Proof/Certificates/Slice0/Obligations.lean ====
section
/-!
DEFINITION. The statements for the provers. The hypotheses `Clear` and `Executes` and the results `wrote`, `retired` and `retiredTo` are
those of Sys2Proof.Safety: a thread whose word nothing of R22 stops, and the state in which its word has retired.
-/

open Sys2Proof Sys2Proof.Machine

/-! ## Encoding -/

/-- R19 to R41: decoding what a well-formed word encodes to gives that word back, with every field at every value. -/
def Obligations.DecodeOfEncode : Prop :=
  ∀ i : Instr, i.isWord = true → i.WellFormed → ∃ w, encode i = some w ∧ decode w = .ok i

/-- R19 to R41: a word that decodes gives a well-formed instruction, whose encoding is that word: no two words mean the same. -/
def Obligations.EncodeOfDecode : Prop :=
  ∀ (w : DWord) (i : Instr), decode w = .ok i → i.isWord = true ∧ i.WellFormed ∧ encode i = some w

/-- Words the chapters give beside their lines decode to those lines. -/
def Obligations.SampleWords : Prop :=
  decode 0x0870800008000101 = .ok (.movih { g := ⟨false, 7⟩, d := 8, a := 0, imm := 0x00800010 }) ∧
  decode 0x0870808FFFFFFC0A = .ok (.aaddi { g := ⟨false, 7⟩, d := 8, a := 8, imm := 0xFFFFFFC0 }) ∧
  decode 0x1010405060000D00 = .ok (.idiv { g := ⟨false, 1⟩, d := 4, a := 5, b := 6, c := 0, mod := 0 }) ∧
  decode 0x1170304050600496 = .ok (.blut { g := ⟨false, 7⟩, d := 3, a := 4, b := 5, c := 6, mod := 0x96 }) ∧
  decode 0x1270204050100012 = .ok (.icmp { g := ⟨false, 7⟩, d := 2, a := 4, b := 5, c := 1, mod := 0x12 }) ∧
  decode 0x0371E00FFFFFFFFC = .ok (.call { g := ⟨false, 7⟩, d := 30, rel := 0xFFFFFFFFC }) ∧
  decode 0x18C090A0B0000024 = .ok (.fadd { g := ⟨true, 4⟩, d := 9, a := 10, b := 11, c := 0, mod := 0x24 }) ∧
  decode 0x2070C07000000200 = .ok (.kput { g := ⟨false, 7⟩, d := 12, a := 7, b := 0, c := 0, mod := 0 }) ∧
  decode 0x3F70014000000200 = .ok (.eret { g := ⟨false, 7⟩, d := 0, a := 20, b := 0, c := 0, mod := 0 })

/-! ## The step -/

/-- The step of a bundle's thread, whose core runs: where the word at its PC decodes to an instruction, the step is that instruction executed for
the thread, in the state that the fetch leaves; a word that acts in the order of the tids of its bundle waits for the threads before it, a LAUNCH
for those that issued before it (R103), and a thread with a request under way runs only words that may run ahead of it, and waits at others. What the
step adds changes nothing where the thread has no place in a queue of the memory system and neither drop nor halt has left it, no group is HALTED and
no core being halted, no request has left such a place, no token has moved, nothing that a capture waits for or a read bound to a window has ended, no
HINGE waits, and no thread waits for registers, its turn, a release or a core that halts. The bundle in which a thread issues, and
what runs ahead, are the model's own: notes/assumptions 1, 14, 58, 59. -/
def Obligations.StepRunsDecodedWord : Prop :=
  (∀ (s s' : State) (a : Agent) (r : List Agent) (t : Thread) (w : DWord) (i : Instr),
    s.todo = [] → s.bundle = a :: r → getThread s a = some t → t.st = .fused → agentOn s a = true →
    fetchWord { s with bundle := r } (envOf s a) t.pc = .ok (w, s') → decode w = .ok i →
    let s0 := { fetched s' a with cur := some a }
    let s1 := if takesIds i then noteLaunch s0 a else s0
    let waits : Prop := (ordered i = true ∧ bundleTurn s1 a = false) ∨ (takesIds i = true ∧ launchTurn s1 a = false)
    (waits → step s = .next (settled s (waitAt s1 a .turn) a)) ∧
    (¬ waits →
      (hasPend s1 a = false → takesIds i = false → step s = mapNext (settled s · a) (exec i s1)) ∧
      (hasPend s1 a = false → takesIds i = true → step s = mapNext (fun u => settled s (unnoteLaunch u a) a) (exec i s1)) ∧
      (hasPend s1 a = true → runsAhead w = false → step s = .next (settled s (waitAt s1 a .pending) a)) ∧
      (hasPend s1 a = true → runsAhead w = true →
        step s = mapNext (fun u => settled s (if aheadOk s1 u a then u else waitAt s1 a .pending) a) (exec i s1)))) ∧
  (∀ f s, mapNext f (.next s) = .next (f s)) ∧
  (∀ s a, (∀ d, a ≠ .sextant d) → fetched s a = s) ∧
  (∀ s a, placed s (fun q => q == .agent a) = false → settlePlace s a = s) ∧
  (∀ s a, inState s a .dropping = false → settleDrop s a = s) ∧
  (∀ s a, inState s a .halted = false → settleHalt s a = s) ∧
  (∀ s a u, u.st ≠ .waiting .regs → getThread s a = some u → (getThread (unnoteLaunch s a) a).map (·.lau) = some u.lau) ∧
  (∀ s0 s, placeLeft s0 s = false → tokensMoved s0 s = false → busyCount s0 ≤ busyCount s → boundReads s0 ≤ boundReads s →
    (∀ g ∈ s.groups, g.2.state ≠ .halted) → (∀ c ∈ s.cores, c.2.freezing = false) → (∀ k ∈ s.stk, k.2.queue = []) →
    (∀ a ∈ allAgents s, ∀ t, getThread s a = some t → t.await = [] ∧
      ∀ w, t.st = .waiting w → w ≠ .regs ∧ w ≠ .turn ∧ (∀ b, w ≠ .drain b) ∧ ∀ c d, w ≠ .halt c d) → settleAll s0 s = s)

/-- R22: the word at a PC with a bit of [63:56] traps 0x05, at a PC that is no multiple of 8 traps 0x04, and a word illegal by its
bits traps 0x01, of a thread with no request under way; one with a request waits for it first (R345). A step with a device step due runs that
one; with none due and no thread of a bundle left, the head of the agenda; a thread that is no longer FUSED, or whose core is stopped, is passed
over. (The agenda is the model's own: notes/assumptions 1; that a trap 0x05
records the PC modulo 2^56 is read as in 35.) R250, R275: time that passes stops at the tick at which a window commits, and the
commit then follows at once; R304: so it does at the limit of a drain. -/
def Obligations.StepFaultsAndTurns : Prop :=
  (∀ (s : State) (a : Agent) (r : List Agent) (t : Thread), s.todo = [] → s.bundle = a :: r → getThread s a = some t → t.st = .fused →
    agentOn s a = true →
    ((∀ d, a ≠ .sextant d) → vaOk t.pc.toNat = false → hasPend s a = false →
      step s = .next (settled s (trap { s with bundle := r } a 0x05 0 (t.pc.toNat % 2 ^ 56)) a)) ∧
    ((∀ d, a ≠ .sextant d) → vaOk t.pc.toNat = true → t.pc.toNat % 8 ≠ 0 → hasPend s a = false →
      step s = .next (settled s (trap { s with bundle := r } a 0x04 0 t.pc.toNat) a)) ∧
    (∀ w s' x, fetchWord { s with bundle := r } (envOf s a) t.pc = .ok (w, s') → decode w = .error x →
      step s = .next (settled s (if hasPend (fetched s' a) a then waitAt (fetched s' a) a .pending else trap (fetched s' a) a 0x01) a)) ∧
    (∀ f, fetchWord { s with bundle := r } (envOf s a) t.pc = .error (.fault f) → hasPend s a = true →
      step s = .next (settled s (waitAt { s with bundle := r } a .pending) a))) ∧
  (∀ s i arg r, s.todo = (i, arg) :: r → step s = mapNext (settleAll s) (exec i { s with todo := r, arg := arg, cur := none })) ∧
  (∀ s i arg r, s.todo = [] → s.bundle = [] → s.agenda = .ev i arg :: r → i.isWord = false →
    step s = mapNext (settleAll s) (exec i { s with agenda := r, arg := arg, cur := none })) ∧
  (∀ s n r, s.todo = [] → s.bundle = [] → s.agenda = .tick n :: r →
    step s = .next (settleAll s (passTime { s with agenda := r, cur := none } n))) ∧
  (∀ s a r t, s.todo = [] → s.bundle = a :: r → getThread s a = some t → t.st ≠ .fused ∨ agentOn s a = false →
    step s = .next (settleAll s { s with bundle := r })) ∧
  (∀ s n, dueAt s = [] → (passTime s n).dev.tick = (s.dev.tick + n) % 2 ^ 64 ∧ (passTime s n).todo = s.todo ∧
    (passTime s n).mem = s.mem ∧ (passTime s n).cores = s.cores ∧ (passTime s n).groups = s.groups) ∧
  (∀ s n k w, (k, w) ∈ s.wins → w.state = .publishing ∨ w.state = .dropping → s.dev.tick ≤ w.tick → w.tick < 2 ^ 64 →
    (passTime s n).dev.tick ≤ w.tick ∧ ((passTime s n).dev.tick = w.tick → ∃ arg : EvArg, arg.n1 = k ∧
      ((if w.state = .publishing then Instr.shutterCommit else .shutterDropCommit), arg) ∈ (passTime s n).todo)) ∧
  (∀ s n k v, (k, v) ∈ s.stk → v.state = .closing → s.dev.tick ≤ v.began + 1000000 → v.began + 1000000 < 2 ^ 64 →
    (passTime s n).dev.tick ≤ v.began + 1000000 ∧ ((passTime s n).dev.tick = v.began + 1000000 → ∃ arg : EvArg, arg.n1 = k ∧
      (Instr.drainTimeout, arg) ∈ (passTime s n).todo))

/-- No instruction of the word is refused or faults where a thread issues it, and no step of the device is refused. That a step of the
device which is not due changes nothing is the model's choice: notes/assumptions 11. -/
def Obligations.EveryInstructionGoesOn : Prop :=
  (∀ i s a t, i.isWord = true → Executes s a t → ∃ s', exec i s = .next s') ∧
  (∀ i s, i.isWord = false → ∃ s', exec i s = .next s')

/-- R21: a thread executes a word when p[PI] XOR PN = 1; PI = 7 with PN = 1 is no word. A word whose guard is false writes nothing:
it retires with the PC advanced by 8, unless a check of R22 that comes before the guard traps; and retiring alone changes nothing
but the thread's PC and its readiness. -/
def Obligations.FalseGuardDoesNothing : Prop :=
  (∀ i s a t g s', i.guard? = some g → Executes s a t → guardHolds g t = false → exec i s = .next s' →
    s' = retire s (envOf s a) t ∨ s' = trap s a 0x01 ∨ s' = trap s a 0x03 ∨ s' = trap s a 0x02) ∧
  (∀ (g : GuardF) t, guardHolds g t = Bool.xor (readP t g.pi.toNat) g.pn) ∧
  (∀ w, fGuard w = ⟨true, 7⟩ → ∃ x, decode w = .error x) ∧
  (∀ s a t g pol needs body, Passes s a t pol needs → guardHolds g t = false →
    issue s g pol needs body = .next (retire s (envOf s a) t)) ∧
  (∀ s a t, getThread s a = some t → steps s (envOf s a) = false →
    getThread (retire s (envOf s a) t) a =
      some { t.settled with st := .ready, stamp := dieCycle s (envOf s a).die, pc := t.pc + 8 } ∧
    SameThreads s (retire s (envOf s a) t) a ∧ SameOutside s (retire s (envOf s a) t) ∧ SameObjects s (retire s (envOf s a) t) ∧
    (retire s (envOf s a) t).dev = s.dev)

/-- R22 step 4, R29, R31: any word one of whose operands fails its check traps 0x02, whatever the guard, where it passes the checks before;
the check fails for an x register above the declared count, a k register on the sextant core or above 159, a pair that is odd, a quad that is no
multiple of 4, and for either where one of its registers is above the count; shown on IADD, IADD64 and AADDI. R27, R38, R175, R184, R188, R189: a number or type code that the
entry does not allow traps 0x02, whatever the guard. -/
def Obligations.OperandLimits : Prop :=
  (∀ s a t g pol needs body, Executes s a t → pol.place.allows (envOf s a) = true → pol.ill (envOf s a) = false →
    pol.right.allows (envOf s a) = true → (∃ n ∈ needs, n.ok (envOf s a) = false) → issue s g pol needs body = .next (trap s a 0x02)) ∧
  (∀ (e : Env) (r : RegNo),
    ((Need.sx r).ok e = true ↔ r = 0 ∨ r.toNat ≤ e.nregs) ∧ ((Need.dx r).ok e = true ↔ r = 0 ∨ r.toNat ≤ e.nregs) ∧
    ((Need.sp r).ok e = true ↔ r.toNat % 2 = 0 ∧ (r = 0 ∨ r.toNat + 1 ≤ e.nregs)) ∧
    ((Need.dp r).ok e = true ↔ r.toNat % 2 = 0 ∧ (r = 0 ∨ r.toNat + 1 ≤ e.nregs)) ∧
    ((Need.sq r).ok e = true ↔ r.toNat % 4 = 0 ∧ (r = 0 ∨ r.toNat + 3 ≤ e.nregs)) ∧
    ((Need.dq r).ok e = true ↔ r.toNat % 4 = 0 ∧ (r = 0 ∨ r.toNat + 3 ≤ e.nregs)) ∧
    ((Need.kx r).ok e = true ↔ e.onSextant = false ∧ r.toNat ≤ 159) ∧
    ((Need.kp r).ok e = true ↔ e.onSextant = false ∧ r.toNat % 2 = 0 ∧ r.toNat ≤ 158) ∧
    ((Need.pr r).ok e = true ↔ r.toNat ≤ 7) ∧ ((Need.tile r).ok e = true ↔ r.toNat ≤ 15) ∧ ((Need.bar r).ok e = true ↔ r.toNat ≤ 15) ∧
    ((Need.sem r).ok e = true ↔ r.toNat ≤ 31)) ∧
  (∀ s a t (o : OpR), Executes s a t →
    (o.d.toNat > (envOf s a).nregs ∨ (kA o = false ∧ o.a.toNat > (envOf s a).nregs) ∨
      (kA o = true ∧ ((envOf s a).onSextant = true ∨ o.a.toNat > 159))) →
    exec (.iadd o) s = .next (trap s a 0x02)) ∧
  (∀ s a t (o : OpR), Executes s a t → (o.d.toNat % 2 = 1 ∨ (o.d ≠ 0 ∧ o.d.toNat + 1 > (envOf s a).nregs)) →
    exec (.iadd64 o) s = .next (trap s a 0x02)) ∧
  (∀ s a t (o : OpI), Executes s a t → (o.d.toNat % 2 = 1 ∨ o.a.toNat % 2 = 1) → exec (.aaddi o) s = .next (trap s a 0x02)) ∧
  (∀ s a t (o : OpR), Executes s a t →
    (o.d.toNat % 2 = 1 ∨ o.d.toNat > 6 → exec (.hsetp2 o) s = .next (trap s a 0x02)) ∧
    (o.c.toNat = 0 ∨ (3 ≤ o.c.toNat ∧ o.c.toNat ≤ 10) → exec (.f2h o) s = .next (trap s a 0x02) ∧ exec (.h2f o) s = .next (trap s a 0x02)) ∧
    (o.c.toNat < 3 ∨ (8 < o.c.toNat ∧ o.c.toNat ≤ 10) → exec (.cvtq o) s = .next (trap s a 0x02) ∧ exec (.cvtd o) s = .next (trap s a 0x02) ∧
      exec (.xscale o) s = .next (trap s a 0x02)) ∧
    (20 ≤ o.b.toNat → exec (.sread o) s = .next (trap s a 0x02)) ∧
    (8 ≤ o.d.toNat → exec (.icmp o) s = .next (trap s a 0x02) ∧ exec (.fsetp o) s = .next (trap s a 0x02)))

/-- R42, R43, R389: a word that executes in groups only traps 0x01 elsewhere, one that no sextant core executes traps 0x01 there,
and a supervisor word traps 0x03 in user mode, whatever its guard and its operands; BEAT traps 0x03 but in lane 0. R79, R90: CSRR and CSRW
of a number that no chapter assigns trap 0x01. -/
def Obligations.PlaceAndPrivilegeTraps : Prop :=
  (∀ i s a t, groupWord i = true → Executes s a t → (envOf s a).inGroup = false → exec i s = .next (trap s a 0x01)) ∧
  (∀ i s d t, computeWord i = true → Executes s (.sextant d) t → exec i s = .next (trap s (.sextant d) 0x01)) ∧
  (∀ i s a t, supervisorWord i = true → Executes s a t → (envOf s a).sup = false → exec i s = .next (trap s a 0x03)) ∧
  (∀ s a t (o : OpR), Executes s a t → (∀ d, a ≠ .sextant d) → (∀ c, a ≠ .lane c 0) → exec (.beat o) s = .next (trap s a 0x03)) ∧
  (∀ s a t (o : OpR), Executes s a t → csrKind (csrNumber o) = .none →
    exec (.csrr o) s = .next (trap s a 0x01) ∧ exec (.csrw o) s = .next (trap s a 0x01))

/-! ## Registers, retiring and trapping -/

/-- R28: x0 reads zero and p7 reads true, and writes to them are dropped; x0 lies within every operand's limits; a write to another
register is read back there and nowhere else, a pair low half first. -/
def Obligations.RegisterRules : Prop :=
  (∀ t : Thread, readX t 0 = 0 ∧ readPair t 0 = 0 ∧ readP t 7 = true) ∧
  (∀ (t : Thread) v w b, writeX t 0 v = t ∧ writePair t 0 w = t ∧ writeP t 7 b = t) ∧
  (∀ e : Env, (Need.sx 0).ok e = true ∧ (Need.dx 0).ok e = true ∧ (Need.sp 0).ok e = true ∧ (Need.dp 0).ok e = true ∧
    (Need.sq 0).ok e = true ∧ (Need.dq 0).ok e = true) ∧
  (∀ (t : Thread) (r k : Nat) v, readX (writeX t r v) k = if k = r ∧ r ≠ 0 then v else readX t k) ∧
  (∀ (t : Thread) (r k : Nat) v, readP (writeP t r v) k = if k = r ∧ r < 7 then v else readP t k) ∧
  (∀ (t : Thread) (r k : Nat) v, r ≠ 0 → readX (writePair t r v) k =
    if k = r then v.extractLsb' 0 32 else if k = r + 1 then v.extractLsb' 32 32 else readX t k) ∧
  (∀ (t : Thread) (r : Nat) v, { writeX t r v with x := t.x, bad := t.bad } = t) ∧
  (∀ (t : Thread) (r : Nat) b, { writeP t r b with p := t.p } = t)

/-- R19, R161: a word that retires leaves its thread READY at the next word with its new registers; every other thread, and
everything that is no thread, is as it was; what its waiting attempts kept, which is the model's own (notes/assumptions 5), is dropped.
R365: a thread that DBGST steps completes its word and traps 0x12 at the next one. -/
def Obligations.RetireEffect : Prop :=
  (∀ s a t t' needs, getThread s a = some t → steps s (envOf s a) = false →
    getThread (wrote s a needs t') a =
      some { t'.settled with st := .ready, stamp := dieCycle s (envOf s a).die, pc := t'.pc + 8 } ∧
    SameThreads s (wrote s a needs t') a ∧ SameOutside s (wrote s a needs t') ∧ SameObjects s (wrote s a needs t') ∧
    (wrote s a needs t').dev = s.dev ∧ (∀ c, (getCore (wrote s a needs t') c).recs = (getCore s c).recs)) ∧
  (∀ s gid tid t t' needs, getThread s (.thread gid tid) = some t → steps s (envOf s (.thread gid tid)) = true →
    ∃ v, getThread (wrote s (.thread gid tid) needs t') (.thread gid tid) = some v ∧ v.st = .trapped ∧ v.code = 0x12 ∧
      v.pc = t'.pc + 8 ∧ v.x = t'.x ∧ v.p = t'.p) ∧
  (∀ t : Thread, { t.settled with relBound := t.relBound, view := t.view, rows := t.rows, tc := t.tc, stores := t.stores, bids := t.bids } = t ∧
    t.settled.relBound = none ∧ t.settled.view = none ∧ t.settled.rows = none ∧ t.settled.tc = none ∧ t.settled.stores = [] ∧
    t.settled.bids = [])

/-- R168 to R175, R178: a word that reads and writes registers only (NOP, the immediate, integer, logic, compare and address families, MOV,
SREAD and the floating-point families) leaves memory, every other thread and every object as they were, also where it traps or waits. -/
def Obligations.RegisterWordsFrame : Prop :=
  ∀ i s s' a, registerOnly i = true → s.cur = some a → exec i s = .next s' →
    SameOutside s s' ∧ SameThreads s s' a ∧ SameObjects s s'

/-- R345, R347: a group thread that traps stops TRAPPED at its PC with its registers, and its record, with the saved PC, the code
and the argument, waits on its core behind those already there. R349: a service lane that traps stops TRAPPED, and the trap of its
core follows at once, as a step that stands first in the model's list of due steps (notes/assumptions 1). R380: a sextant core outside its exception saves its PC in SXEPC and the event in SXCAUSE and goes on at
SXVEC inside it; inside the exception it stops with DEVST FAILED and FCODE 5. -/
def Obligations.TrapEntry : Prop :=
  (∀ s gid tid t code arg va, getThread s (.thread gid tid) = some t →
    let e := envOf s (.thread gid tid)
    let s' := trap s (.thread gid tid) code arg va
    getThread s' (.thread gid tid) =
      some { t.settled with st := .trapped, code := code, arg := arg, va := va, dispatched := false } ∧
    (getCore s' e.coreNo).recs = (getCore s e.coreNo).recs ++
      [{ kind := 0, code := code, epc := t.pc, arg := arg, slot := (sliceOf (e.group s) e.rank).2, tid := tid, q := 0, va := va,
         gid := gid }] ∧
    (∀ c, c ≠ e.coreNo → getCore s' c = getCore s c) ∧
    SameThreads s s' (.thread gid tid) ∧ SameOutside s s' ∧ SameObjects s s' ∧ s'.dev = s.dev) ∧
  (∀ s c l t code arg va, getThread s (.lane c l) = some t →
    getThread (trap s (.lane c l) code arg va) (.lane c l) =
      some { t.settled with st := .trapped, code := code, arg := arg, va := va } ∧
    (trap s (.lane c l) code arg va).todo = s.todo ++ [(.serviceLaneTrap, { n1 := c, n2 := l })]) ∧
  (∀ s d code arg va, (getDie s d).sx.inExc = false →
    (getDie (trap s (.sextant d) code arg va) d).sx =
      { (getDie s d).sx with epc := (getDie s d).sx.th.pc, causeKind := 0, causeCode := code, causeCore := 0, inExc := true,
                             th := { (getDie s d).sx.th.settled with pc := (getDie s d).sx.vec, st := .ready } } ∧
    (trap s (.sextant d) code arg va).dev = s.dev) ∧
  (∀ s d code arg va, (getDie s d).sx.inExc = true →
    (getDie (trap s (.sextant d) code arg va) d).sx = { (getDie s d).sx with running := false } ∧
    (trap s (.sextant d) code arg va).dev = { s.dev with state := .failed, fcode := 5 })

/-! ## Reset and memory -/

/-- R369, R16, R316, R305: what a cold reset leaves: the tick zero, STATE ROM, every core and every sextant core but that of die 0
stopped, which is in its boot ROM, every stack OWNED by floor(s / 2) and not degraded, every link training, no line poisoned, no
context, group, window or aperture in use. The moment of reset and the boot ROM are read as in notes/assumptions 34. -/
def Obligations.ResetValues : Prop :=
  State.reset.dev.tick = 0 ∧ State.reset.dev.state = .rom ∧
  (∀ c, (getCore State.reset c).running = false ∧ (getCore State.reset c).sb = [] ∧ (getCore State.reset c).l1 = []) ∧
  (∀ d, d ≠ 0 → (getDie State.reset d).sx.running = false) ∧
  (getDie State.reset 0).sx.running = true ∧ (getDie State.reset 0).sx.rom = true ∧
  (∀ k, (getStack State.reset k).state = .owned ∧ (getStack State.reset k).owner = k / 2 ∧ (getStack State.reset k).degl = false ∧
    (getStack State.reset k).degh = false) ∧
  (∀ l, (getLink State.reset l).state = .training) ∧
  State.reset.poison = [] ∧
  (∀ c, (getCtx State.reset c).state = .free) ∧ (∀ a, (getAp State.reset a).state = .free) ∧
  (∀ n, (getWin State.reset n).state = .free) ∧ (∀ g, getGroup State.reset g = none)

/-- The memory after reset has its canonical form. What an unlisted address reads as is the model's choice: notes/assumptions 2. -/
def Obligations.ResetMemoryCanonical : Prop := MemOk State.reset

/-- Every step keeps the canonical form of memory: strictly rising addresses, and no entry equal to what an unlisted address reads as.
What an unlisted address reads as is the model's choice: notes/assumptions 2. -/
def Obligations.StepKeepsMemoryCanonical : Prop := ∀ s s', MemOk s → step s = .next s' → MemOk s'

/-- R3 and R238: bytes written are read back, in order, and a masked line write changes exactly the bytes its mask names. The canonical
form of memory is the model's own: notes/assumptions 2. -/
def Obligations.MemoryReadsWhatWasWritten : Prop :=
  (∀ s pa l, MemOk s → memBytes (memPut s pa l) pa l.length = l) ∧
  (∀ s pa (m : LineMask) (d : Line) k, MemOk s → memByte (putMasked s pa m d) k =
    if pa ≤ k ∧ k < pa + 128 ∧ m.getLsbD (k - pa) = true then lineByte d (k - pa) else memByte s k) ∧
  (∀ n v, ofBytes (toBytes v n) = v % 256 ^ n) ∧
  (∀ s s' pa, MemOk s → MemOk s' → (∀ a, memByte s a = memByte s' a) → s.mem = s'.mem ∧ memByte s pa = memByte s' pa)

/-- R3, R216, R232: a plain line of DRAM or bank memory reads as the bytes of its frame; a masked write to a line changes exactly the
bytes its mask names. R238, R239: a store-buffer entry that may be performed and whose plain line its home L2 holds goes to that line,
dirty, and leaves the store buffer; no byte of DRAM or bank memory changes. That an entry keeps the frame it was checked with is read as
in notes/assumptions 8; entries that a TINV has passed (stale), as in 82. -/
def Obligations.LinesHoldTheirBytes : Prop :=
  (∀ s ctx frame (a : Attr) lp i, a.df = 0 → paRegion frame ≠ 3 → i < 128 →
    lineByte (belowLine s ctx frame a lp) i = memByte s (frame + 128 * lp + i)) ∧
  (∀ (l n : Line) (m : LineMask) i, i < 128 → lineByte (mergeLine l n m) i = if m.getLsbD i then lineByte n i else lineByte l i) ∧
  (∀ (i j : Nat) (b : List Byte), i + b.length ≤ 128 → j < 128 →
    (maskOf i b.length).getLsbD j = (decide (i ≤ j) && decide (j < i + b.length)) ∧
    (i ≤ j → j < i + b.length → lineByte (placeBytes i b) j = nthD b (j - i) 0)) ∧
  (∀ s core (x : SbEntry) l, x ∈ (getCore s core).sb → entryReady s core x = true → paRegion x.frame = 0 → x.attr.df = 0 →
    vaPlc (x.line * 128) ≠ 33 → x.bad = false → genCurrent s (x.write core) = true →
    isolated s (x.write core) = false → findLine (getDie s x.home).l2 x.tag x.line x.gen = some l → x.stale = false ∨ l.frame = x.frame →
    ∃ s', performEntry s core x = .ok s' ∧ s'.mem = s.mem ∧ (∀ y ∈ (getCore s' core).sb, y.id ≠ x.id) ∧
      ∃ l', findLine (getDie s' x.home).l2 x.tag x.line x.gen = some l' ∧ l'.data = mergeLine l.data x.data x.mask ∧
        l'.dirty = l.dirty ||| x.mask)

/-! ## Arithmetic -/

/-- R169: each word of the immediate family completes with what its row of the table gives; MOVIH leaves the lower half of its pair.
FN4 values 11 to 15, a nonzero A of MOVI or MOVIH, and a nonzero I[31:5] of a shift are no words. -/
def Obligations.ImmediateResults : Prop :=
  (∀ s a t (o : OpI), Clear s a t o.g {} [.dx o.d] →
    exec (.movi o) s = .next (wrote s a [.dx o.d] (writeX t o.d.toNat o.imm))) ∧
  (∀ s a t (o : OpI), Clear s a t o.g {} [.dp o.d] →
    exec (.movih o) s = .next (wrote s a [.dp o.d] (if o.d = 0 then t else writeX t (o.d.toNat + 1) o.imm))) ∧
  ImmWrites .iaddi (fun x i => x + i) ∧
  ImmWrites .imuli (fun x i => x * i) ∧
  ImmWrites .andi (fun x i => x &&& i) ∧
  ImmWrites .ori (fun x i => x ||| i) ∧
  ImmWrites .xori (fun x i => x ^^^ i) ∧
  ImmWrites .shli (fun x i => BitVec.ofNat 32 (x.toNat * 2 ^ (i.toNat % 32))) ∧
  ImmWrites .shri (fun x i => BitVec.ofNat 32 (x.toNat / 2 ^ (i.toNat % 32))) ∧
  ImmWrites .sari (fun x i => BitVec.ofInt 32 (x.toInt / 2 ^ (i.toNat % 32))) ∧
  (∀ s a t (o : OpI), Clear s a t o.g {} [.dp o.d, .sp o.a] →
    exec (.aaddi o) s = .next (wrote s a [.dp o.d, .sp o.a]
      (writePair t o.d.toNat (readPair t o.a.toNat + o.imm.signExtend 64)))) ∧
  (∀ w, fMaj w = 8 → 11 ≤ (w.extractLsb' 0 4).toNat → ∃ x, decode w = .error x) ∧
  (∀ o : OpI, ((Instr.movi o).WellFormed ∨ (Instr.movih o).WellFormed → o.a = 0) ∧
    ((Instr.shli o).WellFormed ∨ (Instr.shri o).WellFormed ∨ (Instr.sari o).WellFormed → o.imm.toNat < 32))

/-- R170, R171: each word of the integer family completes with what its row gives, division with its borderline cases, none of which
traps. The fields a row does not name are reserved: C, and B and MOD[6] of IABS. (A k operand in a service lane is a free value:
notes/assumptions 17.) -/
def Obligations.IntegerResults : Prop :=
  Writes2 .iadd (fun a b => a + b) ∧
  Writes2 .isub (fun a b => a - b) ∧
  Writes2 .imul (fun a b => BitVec.ofInt 32 (a.toInt * b.toInt)) ∧
  Writes2 .imulh (fun a b => BitVec.ofInt 32 (a.toInt * b.toInt / 2 ^ 32)) ∧
  Writes2 .imulhu (fun a b => BitVec.ofNat 32 (a.toNat * b.toNat / 2 ^ 32)) ∧
  Writes3 .imad (fun a b c => BitVec.ofInt 32 (a.toInt * b.toInt + c.toNat)) ∧
  Writes2 .imin (fun a b => if b.toInt < a.toInt then b else a) ∧
  Writes2 .imax (fun a b => if a.toInt < b.toInt then b else a) ∧
  Writes2 .umin (fun a b => if b.toNat < a.toNat then b else a) ∧
  Writes2 .umax (fun a b => if a.toNat < b.toNat then b else a) ∧
  Writes1 .iabs (fun a => if a = 0x80000000 then 0x80000000 else BitVec.ofInt 32 a.toInt.natAbs) ∧
  Writes2 .iadds (fun a b => BitVec.ofInt 32 (max (-2147483648) (min (a.toInt + b.toInt) 2147483647))) ∧
  Writes2 .isubs (fun a b => BitVec.ofInt 32 (max (-2147483648) (min (a.toInt - b.toInt) 2147483647))) ∧
  Writes2 .idiv (fun a b =>
    if b = 0 then 0xFFFFFFFF else if a = 0x80000000 ∧ b = 0xFFFFFFFF then 0x80000000
    else BitVec.ofInt 32 (a.toInt.tdiv b.toInt)) ∧
  Writes2 .udiv (fun a b => if b = 0 then 0xFFFFFFFF else BitVec.ofNat 32 (a.toNat / b.toNat)) ∧
  Writes2 .irem (fun a b =>
    if b = 0 then a else if a = 0x80000000 ∧ b = 0xFFFFFFFF then 0 else BitVec.ofInt 32 (a.toInt.tmod b.toInt)) ∧
  Writes2 .urem (fun a b => if b = 0 then a else BitVec.ofNat 32 (a.toNat % b.toNat)) ∧
  Writes3 .dp4a (fun a b c => BitVec.ofInt 32 (c.toNat +
    ((a.extractLsb' 0 8).toInt * (b.extractLsb' 0 8).toInt + (a.extractLsb' 8 8).toInt * (b.extractLsb' 8 8).toInt +
      (a.extractLsb' 16 8).toInt * (b.extractLsb' 16 8).toInt + (a.extractLsb' 24 8).toInt * (b.extractLsb' 24 8).toInt))) ∧
  Writes3 .dp4au (fun a b c => BitVec.ofNat 32 (c.toNat +
    ((a.extractLsb' 0 8).toNat * (b.extractLsb' 0 8).toNat + (a.extractLsb' 8 8).toNat * (b.extractLsb' 8 8).toNat +
      (a.extractLsb' 16 8).toNat * (b.extractLsb' 16 8).toNat + (a.extractLsb' 24 8).toNat * (b.extractLsb' 24 8).toNat))) ∧
  (∀ o : OpR, (∀ i ∈ [Instr.iadd o, .isub o, .imul o, .imulh o, .imulhu o, .imin o, .imax o, .umin o, .umax o, .iabs o, .iadds o,
      .isubs o, .idiv o, .udiv o, .irem o, .urem o], i.WellFormed → o.c = 0) ∧
    ((Instr.iabs o).WellFormed → o.b = 0 ∧ o.mod.getLsbD 6 = false))

/-- R172: each word of the logic family completes with the value its row gives; the bit-field and table words are described bit by
bit: BLUT's table, the field that BFE and BFEU take, the bits BFI replaces, BSHUF's bytes, and CLZ's count. POPC, CLZ and BREV
reserve B and MOD[6]. (A k operand in a service lane is a free value: notes/assumptions 17.) -/
def Obligations.LogicResults : Prop :=
  Writes2 .and_ (fun a b => a &&& b) ∧
  Writes2 .or_ (fun a b => a ||| b) ∧
  Writes2 .xor_ (fun a b => a ^^^ b) ∧
  Writes2 .andn (fun a b => a &&& ~~~b) ∧
  WritesPlain3 .blut (fun o a b c => blut o.mod a b c) ∧
  Writes2 .shl (fun a b => BitVec.ofNat 32 (a.toNat * 2 ^ b.toNat)) ∧
  Writes2 .shr_ (fun a b => BitVec.ofNat 32 (a.toNat / 2 ^ b.toNat)) ∧
  Writes2 .sar (fun a b => BitVec.ofInt 32 (a.toInt / 2 ^ min b.toNat 31)) ∧
  Writes2 .rol (fun a b => a.rotateLeft (b.toNat % 32)) ∧
  Writes2 .bfe bfe ∧ Writes2 .bfeu bfeu ∧ Writes3 .bfi bfi ∧
  Writes1 .popc (fun a => BitVec.ofNat 32 ((List.range 32).countP a.getLsbD)) ∧
  Writes1 .clz clz ∧
  Writes1 .brev (fun a => a.reverse) ∧
  Writes3 .bshuf bshuf ∧
  (∀ (m : BitVec 8) (a b c : Word) (i : Nat), i < 32 →
    (blut m a b c).getLsbD i = m.getLsbD (4 * (a.getLsbD i).toNat + 2 * (b.getLsbD i).toNat + (c.getLsbD i).toNat)) ∧
  (∀ (a b : Word) (i : Nat), i < 32 → (bfeu a b).getLsbD i =
    (decide (i < min (b.toNat / 256 % 256) 32) && a.getLsbD (b.toNat % 256 + i))) ∧
  (∀ (a b : Word) (i : Nat), i < 32 → b.toNat / 256 % 256 ≠ 0 → (bfe a b).getLsbD i =
    (let k := b.toNat % 256 + min i (min (b.toNat / 256 % 256) 32 - 1)
     if k < 32 then a.getLsbD k else a.getLsbD 31)) ∧
  (∀ (a b : Word), b.toNat / 256 % 256 = 0 → bfe a b = 0) ∧
  (∀ (a b c : Word) (i : Nat), i < 32 → (bfi a b c).getLsbD i =
    (let pos := b.toNat % 256
     if pos ≤ i ∧ i < pos + min (b.toNat / 256 % 256) 32 then a.getLsbD (i - pos) else c.getLsbD i)) ∧
  (∀ (a b c : Word) (i : Nat), i < 4 → (bshuf a b c).extractLsb' (8 * i) 8 =
    (let ctl := c.extractLsb' (8 * i) 8
     let y := (b ++ a : BitVec 64).extractLsb' (8 * (ctl.toNat % 8)) 8
     if ctl.getLsbD 4 then 0 else if ctl.getLsbD 3 then y.reverse else y)) ∧
  clz 0 = 32 ∧
  (∀ (a : Word), a ≠ 0 → (clz a).toNat < 32 ∧ a.getLsbD (31 - (clz a).toNat) = true ∧
    ∀ i, 31 - (clz a).toNat < i → i < 32 → a.getLsbD i = false) ∧
  (∀ o : OpR, (∀ i ∈ [Instr.popc o, .clz o, .brev o], i.WellFormed → o.b = 0 ∧ o.c = 0 ∧ o.mod.getLsbD 6 = false) ∧
    (∀ i ∈ [Instr.and_ o, .or_ o, .xor_ o, .andn o, .shl o, .shr_ o, .sar o, .rol o, .bfe o, .bfeu o], i.WellFormed → o.c = 0))

/-- R173: each word of the compare and predicate family completes with the effect its row gives; a predicate number above 7 traps
0x02. R33: the conditions on two values, signed for lt to ge and unsigned for ltu to geu, the combinations with p[C], and the codes
and fields that are reserved; PSCAT, like PLUT and PGAT, has no k selects. (A k operand in a service lane is a free value:
notes/assumptions 17.) -/
def Obligations.CompareResults : Prop :=
  (∀ s a t (o : OpR), Clear s a t o.g {} [.pr o.d, needSel (kA o) o.a, needSel (kB o) o.b, .pr o.c] →
    exec (.icmp o) s = .next (wrote s a [.pr o.d, needSel (kA o) o.a, needSel (kB o) o.b, .pr o.c]
      (writeP t o.d.toNat (combine (o.mod.toNat / 16 % 4) (condCode (o.mod.toNat % 16) (valA s a t o) (valB s a t o))
        (readP t o.c.toNat))))) ∧
  (∀ s a t (o : OpR), Clear s a t o.g {} [.dx o.d, needSel (kA o) o.a, needSel (kB o) o.b, .pr o.c] →
    exec (.icmpm o) s = .next (wrote s a [.dx o.d, needSel (kA o) o.a, needSel (kB o) o.b, .pr o.c]
      (writeX t o.d.toNat (if combine (o.mod.toNat / 16 % 4) (condCode (o.mod.toNat % 16) (valA s a t o) (valB s a t o))
        (readP t o.c.toNat) then 0xFFFFFFFF else 0)))) ∧
  (∀ s a t (o : OpR), Clear s a t o.g {} [.dx o.d, needSel (kA o) o.a, needSel (kB o) o.b, .pr o.c] →
    exec (.sel o) s = .next (wrote s a [.dx o.d, needSel (kA o) o.a, needSel (kB o) o.b, .pr o.c]
      (writeX t o.d.toNat (if readP t o.c.toNat then valA s a t o else valB s a t o)))) ∧
  (∀ s a t (o : OpR), Clear s a t o.g {} [.pr o.d, .pr o.a, .pr o.b, .pr o.c] →
    exec (.plut o) s = .next (wrote s a [.pr o.d, .pr o.a, .pr o.b, .pr o.c]
      (writeP t o.d.toNat (o.mod.getLsbD
        (4 * (readP t o.a.toNat).toNat + 2 * (readP t o.b.toNat).toNat + (readP t o.c.toNat).toNat))))) ∧
  (∀ s a t (o : OpR), Clear s a t o.g {} [.dx o.d] →
    ∃ v : Word, exec (.pgat o) s = .next (wrote s a [.dx o.d] (writeX t o.d.toNat v)) ∧
      ∀ i, i < 32 → v.getLsbD i = (decide (i < 8) && readP t i)) ∧
  (∀ s a t (o : OpR), Clear s a t o.g {} [.sx o.a, .sx o.b] →
    ∃ p : BitVec 8, exec (.pscat o) s = .next (wrote s a [.sx o.a, .sx o.b] { t with p := p }) ∧
      ∀ i, i < 7 → p.getLsbD i = if (readX t o.b.toNat).getLsbD i then (readX t o.a.toNat).getLsbD i else t.p.getLsbD i) ∧
  (∀ (w : Nat) (a b : BitVec w),
    condCode 0 a b = decide (a = b) ∧ condCode 1 a b = decide (a ≠ b) ∧
    condCode 2 a b = decide (a.toInt < b.toInt) ∧ condCode 3 a b = decide (a.toInt ≤ b.toInt) ∧
    condCode 4 a b = decide (a.toInt > b.toInt) ∧ condCode 5 a b = decide (a.toInt ≥ b.toInt) ∧
    condCode 6 a b = decide (a.toNat < b.toNat) ∧ condCode 7 a b = decide (a.toNat ≤ b.toNat) ∧
    condCode 8 a b = decide (a.toNat > b.toNat) ∧ condCode 9 a b = decide (a.toNat ≥ b.toNat)) ∧
  (∀ v p : Bool, combine 0 v p = v ∧ combine 1 v p = (v && p) ∧ combine 2 v p = (v || p) ∧ combine 3 v p = Bool.xor v p) ∧
  (∀ s a t (o : OpR), Executes s a t →
    (8 ≤ o.d.toNat → exec (.icmp o) s = .next (trap s a 0x02)) ∧
    (8 ≤ o.c.toNat → exec (.icmp o) s = .next (trap s a 0x02) ∧ exec (.icmpm o) s = .next (trap s a 0x02) ∧
      exec (.sel o) s = .next (trap s a 0x02)) ∧
    (8 ≤ o.d.toNat ∨ 8 ≤ o.a.toNat ∨ 8 ≤ o.b.toNat ∨ 8 ≤ o.c.toNat → exec (.plut o) s = .next (trap s a 0x02))) ∧
  (∀ o : OpR, ((Instr.icmp o).WellFormed ∨ (Instr.icmpm o).WellFormed →
      o.mod.toNat % 16 ≤ 9 ∧ (o.mod.toNat / 16 % 4 = 0 → o.c = 0)) ∧
    ((Instr.sel o).WellFormed → o.mod.toNat % 64 = 0) ∧ ((Instr.pscat o).WellFormed → o.mod = 0))

/-- R174: each word of the address and 64-bit family completes with the value its row gives, modulo 2^64; a k pair that is odd or ends
past k159 traps 0x02; ACMP reserves MOD[5:4] and AMOV B. (A k operand in a service lane is a free value: notes/assumptions 17.) -/
def Obligations.AddressResults : Prop :=
  WritesPair1 .aadd (fun a b => a + b.signExtend 64) ∧
  WritesPair2 .asub (fun a b => a - b) ∧
  (∀ s a t (o : OpR), Clear s a t o.g {} [.pr o.d, needSelPair (kA o) o.a, needSelPair (kB o) o.b] →
    exec (.acmp o) s = .next (wrote s a [.pr o.d, needSelPair (kA o) o.a, needSelPair (kB o) o.b]
      (writeP t o.d.toNat (condCode (o.mod.toNat % 16) (pairA s a t o) (pairB s a t o))))) ∧
  WritesPair1 .shl64 (fun a b => BitVec.ofNat 64 (a.toNat * 2 ^ b.toNat)) ∧
  WritesPair1 .shr64 (fun a b => BitVec.ofNat 64 (a.toNat / 2 ^ b.toNat)) ∧
  WritesPair2 .iadd64 (fun a b => a + b) ∧
  WritesPair2 .imul64 (fun a b => BitVec.ofNat 64 (a.toNat * b.toNat)) ∧
  (∀ s a t (o : OpR), Clear s a t o.g {} [.dp o.d, needSelPair (kA o) o.a] →
    exec (.amov o) s = .next (wrote s a [.dp o.d, needSelPair (kA o) o.a] (writePair t o.d.toNat (pairA s a t o)))) ∧
  (∀ s a t (o : OpR), Executes s a t →
    (kA o = true → o.a.toNat % 2 = 1 ∨ 158 < o.a.toNat →
      ∀ i ∈ [Instr.aadd o, .asub o, .acmp o, .shl64 o, .shr64 o, .iadd64 o, .imul64 o, .amov o], exec i s = .next (trap s a 0x02)) ∧
    (kB o = true → o.b.toNat % 2 = 1 ∨ 158 < o.b.toNat →
      ∀ i ∈ [Instr.asub o, .acmp o, .iadd64 o, .imul64 o], exec i s = .next (trap s a 0x02))) ∧
  (∀ o : OpR, ((Instr.acmp o).WellFormed → o.mod.toNat / 16 % 4 = 0 ∧ o.mod.toNat % 16 ≤ 9) ∧ ((Instr.amov o).WellFormed → o.b = 0))

/-- R58, R60: a value that an encoding of FP32, BF16 or FP16 represents rounds to that encoding under every mode, and NaN rounds
to the canonical NaN. R60: a value between two neighbours rounds to the one that its mode picks: the nearer, at a tie the one whose encoding is even,
toward zero, up, or down, with its sign; beyond the largest finite value it becomes the infinity or the largest value as the table of overflow
has it, the nearer of the largest and of the next in an unbounded range under RNE. R60 on the grid of integers: m / 2^s rounds to the nearest integer, a tie to the even one, under RNE; toward
zero, up and down under the other modes. -/
def Obligations.RoundingIsRight : Prop :=
  (∀ (ty : Elem) (m : RMode) (n : Nat), ty ∈ [Elem.fp32, .bf16, .fp16] → n < 2 ^ elemBits ty → decodeElem n ty ≠ .nan →
    roundF (decodeElem n ty) ty m = n) ∧
  (∀ m, roundF .nan .fp32 m = 0x7FC00000 ∧ roundF .nan .bf16 m = 0x7FC0 ∧ roundF .nan .fp16 m = 0x7E00) ∧
  (∀ (ty : Elem) (neg : Bool) (m : Nat) (e : Int) (mode : RMode), ty ∈ [Elem.fp32, .bf16, .fp16] →
    let x : Rat := m * pow2 e
    let v (k : Nat) : Rat := ratOf (decodeElem k ty)
    let top := elemMaxEnc ty
    (∀ k, k < top → v k < x → x < v (k + 1) → roundF (.fin neg m e) ty mode = signEnc ty neg +
      match mode with
      | .rne => if 2 * x < v k + v (k + 1) ∨ (2 * x = v k + v (k + 1) ∧ k % 2 = 0) then k else k + 1
      | .zero => k
      | .up => if neg then k else k + 1
      | .down => if neg then k + 1 else k) ∧
    (v top < x → roundF (.fin neg m e) ty mode =
      if (match mode with
        | .rne => decide (v top - v (top - 1) ≤ 2 * (x - v top))
        | .zero => false
        | .up => !neg
        | .down => neg) then infEnc ty neg else top + signEnc ty neg)) ∧
  (∀ b ty m, roundF (.inf b) ty m = infEnc ty b) ∧
  (∀ (neg : Bool) (m s : Nat),
    (2 * roundShift neg m s .rne * 2 ^ s ≤ 2 * m + 2 ^ s ∧ 2 * m ≤ 2 * roundShift neg m s .rne * 2 ^ s + 2 ^ s ∧
      (2 * roundShift neg m s .rne * 2 ^ s = 2 * m + 2 ^ s ∨ 2 * m = 2 * roundShift neg m s .rne * 2 ^ s + 2 ^ s →
        roundShift neg m s .rne % 2 = 0)) ∧
    (roundShift neg m s .zero * 2 ^ s ≤ m ∧ m < (roundShift neg m s .zero + 1) * 2 ^ s) ∧
    (m ≤ roundShift false m s .up * 2 ^ s ∧ roundShift false m s .up * 2 ^ s < m + 2 ^ s) ∧
    (m ≤ roundShift true m s .down * 2 ^ s ∧ roundShift true m s .down * 2 ^ s < m + 2 ^ s) ∧
    roundShift true m s .up = roundShift neg m s .zero ∧ roundShift false m s .down = roundShift neg m s .zero)

/-- R179 to R182: each word of the FP32 family completes with the value its row gives on the prepared operands: the exact value
rounded once under MOD[1:0] and clamped where MOD[2] asks, an operand's encoding for FMIN and FMAX, a condition for FSETP and
FSET. R179: MOD[4] clears and MOD[3] then flips the sign of A, MOD[5] flips that of B and MOD[6] that of C; the other bits stay.
(A k operand in a service lane is a free value: notes/assumptions 17.) -/
def Obligations.FloatResults : Prop :=
  FloatWrites2 .fadd (fun o x y => f32Result o.mod ((f32 x).add (f32 y) (rmodeOf o.mod.toNat))) ∧
  FloatWrites2 .fsub (fun o x y => f32Result o.mod ((f32 x).add (f32 y).negate (rmodeOf o.mod.toNat))) ∧
  FloatWrites2 .fmul (fun o x y => f32Result o.mod ((f32 x).mul (f32 y))) ∧
  FloatWrites3 .ffma (fun o x y z => f32Result o.mod (((f32 x).mul (f32 y)).add (f32 z) (rmodeOf o.mod.toNat))) ∧
  FloatWrites2 .fmin (fun _ x y => BitVec.ofNat 32 (minNum x.toNat y.toNat .fp32)) ∧
  FloatWrites2 .fmax (fun _ x y => BitVec.ofNat 32 (maxNum x.toNat y.toNat .fp32)) ∧
  (∀ s a t (o : OpR), Clear s a t o.g {} [.pr o.d, needSel (kA o) o.a, .sx o.b] →
    exec (.fsetp o) s = .next (wrote s a [.pr o.d, needSel (kA o) o.a, .sx o.b]
      (writeP t o.d.toNat (floatCondHolds (o.c.toNat % 16) (f32 (fltOpA s a t o)) (f32 (fltOpB t o)))))) ∧
  FloatWrites2 .fset (fun o x y => if floatCondHolds (o.c.toNat % 16) (f32 x) (f32 y) then 0x3F800000 else 0) ∧
  FloatWrites2 .fdiv (fun o x y => f32Result o.mod ((f32 x).div (f32 y))) ∧
  FloatWrites1 .fsqrt (fun o x => f32Result o.mod (f32 x).sqrt) ∧
  FloatWrites1 .frnd (fun o x => f32Result o.mod ((f32 x).toIntegral (rmodeOf o.mod.toNat))) ∧
  (∀ s a t (o : OpR),
    (∀ i, i < 31 → (fltOpA s a t o).getLsbD i = (valA s a t o).getLsbD i ∧
      (fltOpB t o).getLsbD i = (readX t o.b.toNat).getLsbD i ∧ (fltOpC t o).getLsbD i = (readX t o.c.toNat).getLsbD i) ∧
    (fltOpA s a t o).getLsbD 31 = Bool.xor (!o.mod.getLsbD 4 && (valA s a t o).getLsbD 31) (o.mod.getLsbD 3) ∧
    (fltOpB t o).getLsbD 31 = Bool.xor ((readX t o.b.toNat).getLsbD 31) (o.mod.getLsbD 5) ∧
    (fltOpC t o).getLsbD 31 = Bool.xor ((readX t o.c.toNat).getLsbD 31) (o.mod.getLsbD 6))

/-- R180 to R182: the special operands: which give NaN, the quotient by zero, the signed zeros, and the conditions on NaN. -/
def Obligations.FloatSpecialOperands : Prop :=
  (∀ x m, Val.add .nan x m = .nan ∧ Val.add x .nan m = .nan ∧ Val.mul .nan x = .nan ∧ Val.mul x .nan = .nan ∧
    Val.div .nan x = .nan ∧ Val.div x .nan = .nan ∧ Val.sqrt .nan = .nan ∧ Val.toIntegral .nan m = .nan) ∧
  (∀ b m, Val.add (.inf b) (.inf (!b)) m = .nan) ∧
  (∀ a b e, Val.mul (.inf a) (.fin b 0 e) = .nan ∧ Val.mul (.fin b 0 e) (.inf a) = .nan) ∧
  (∀ a b n e f, n ≠ 0 → Val.div (.fin a n e) (.fin b 0 f) = .inf (a != b)) ∧
  (∀ a b e f, Val.div (.fin a 0 e) (.fin b 0 f) = .nan ∧ Val.div (.inf a) (.inf b) = .nan) ∧
  (∀ a b n e, f32Result 0 (Val.div (.fin a n e) (.inf b)) = if a = b then 0 else 0x80000000) ∧
  (∀ e, f32Result 0 (Val.sqrt (.fin true 0 e)) = 0x80000000) ∧
  (∀ n e, n ≠ 0 → Val.sqrt (.fin true n e) = .nan) ∧ Val.sqrt (.inf true) = .nan ∧ Val.sqrt (.inf false) = .inf false ∧
  (∀ (x y : Val), x.isNan ∨ y.isNan → ∀ c, c < 14 → floatCondHolds c x y = decide (7 ≤ c)) ∧
  (∀ (x y : Val), x.isNan = false → y.isNan = false →
    floatCondHolds 6 x y = true ∧ floatCondHolds 7 x y = false ∧ ∀ c, c < 6 → floatCondHolds (c + 8) x y = floatCondHolds c x y)

/-- R183, R184: each word of the packed family completes; each element of the result is rounded for itself. R184: HDOT2's result is the
exact sum c + a0 × b0 + a1 × b1 of its terms, rounded once to FP32; a NaN, or infinities of opposite signs, among the terms give
0x7FC00000, an infinity among them itself, and an exact zero is negative where all three terms are. Sums and products of finite values
are exact. (Where one rounding of an exact sum is not the spec's plain words: notes/assumptions 51.) -/
def Obligations.PackedResults : Prop :=
  WritesPlain2 .hadd2 (fun o x y => half2 (halfElem o.mod) (fun u v => u.add v .rne) x y) ∧
  WritesPlain2 .hmul2 (fun o x y => half2 (halfElem o.mod) Val.mul x y) ∧
  WritesPlain3 .hfma2 (fun o x y z => hfma2 (halfElem o.mod) x y z) ∧
  WritesPlain2 .hmin2 (fun o x y => halfPick (halfElem o.mod) minNum x y) ∧
  WritesPlain2 .hmax2 (fun o x y => halfPick (halfElem o.mod) maxNum x y) ∧
  WritesPlain3 .hdot2 (fun o x y z => hdot2 (halfElem o.mod) x y z) ∧
  (∀ s a t (o : OpR), Clear s a t o.g { lim := fun _ => o.d.toNat % 2 != 0 || o.d.toNat > 6 } [.sx o.a, .sx o.b] →
    exec (.hsetp2 o) s = .next (wrote s a [.sx o.a, .sx o.b]
      (writeP (writeP t o.d.toNat (floatCondHolds (o.c.toNat % 16)
          (decodeElem (half (readX t o.a.toNat) 0) (halfElem o.mod)) (decodeElem (half (readX t o.b.toNat) 0) (halfElem o.mod))))
        (o.d.toNat + 1) (floatCondHolds (o.c.toNat % 16)
          (decodeElem (half (readX t o.a.toNat) 1) (halfElem o.mod)) (decodeElem (half (readX t o.b.toNat) 1) (halfElem o.mod)))))) ∧
  (∀ (m : BitVec 8) (f : Val → Val → Val) (x y z : Word) (i : Nat), i < 2 →
    let el := halfElem m
    half (half2 el f x y) i = roundF (f (decodeElem (half x i) el) (decodeElem (half y i) el)) el .rne ∧
    half (hfma2 el x y z) i =
      roundF (((decodeElem (half x i) el).mul (decodeElem (half y i) el)).add (decodeElem (half z i) el) .rne) el .rne ∧
    half (halfPick el minNum x y) i = minNum (half x i) (half y i) el ∧
    half (halfPick el maxNum x y) i = maxNum (half x i) (half y i) el) ∧
  (∀ (x y : Val) (m : RMode), isFin x = true → isFin y = true →
    isFin (x.add y m) = true ∧ ratOf (x.add y m) = ratOf x + ratOf y ∧ isFin (x.mul y) = true ∧ ratOf (x.mul y) = ratOf x * ratOf y) ∧
  (∀ (m : BitVec 8) (x y z : Word),
    let el := halfElem m
    let v (w : Word) (i : Nat) : Val := decodeElem (half w i) el
    let p (i : Nat) : Val := (v x i).mul (v y i)
    let terms : List Val := [f32 z, p 0, p 1]
    (.nan ∈ terms ∨ (.inf true ∈ terms ∧ .inf false ∈ terms) → hdot2 el x y z = 0x7FC00000) ∧
    (∀ b, .nan ∉ terms → .inf b ∈ terms → .inf (!b) ∉ terms → hdot2 el x y z = if b then 0xFF800000 else 0x7F800000) ∧
    ((∀ u ∈ terms, isFin u = true) → ∃ neg n e, hdot2 el x y z = BitVec.ofNat 32 (roundF (.fin neg n e) .fp32 .rne) ∧
      ratOf (.fin neg n e) = ratOf (f32 z) + ratOf (v x 0) * ratOf (v y 0) + ratOf (v x 1) * ratOf (v y 1) ∧
      (n = 0 → neg = terms.all Val.isNeg)))

/-- R185: each word of the approximated family completes with the device's fixed function of the prepared operand, clamped where MOD[2]
asks. R185: the exact cases: NaN, the zeros, the infinities, negative operands, the powers of two of FRCP, FRSQ and FLOG2, of either
sign and subnormal ones too, the integral arguments of FEXP2 and the ends of its range and of FTANH's. R185's bounds: FRCP and FRSQ within
one ulp of 1 / a and 1 / √a, or an infinity beyond the largest finite value; FEXP2 and FLOG2 within two ulp of the value as the model
evaluates it; FSIN, FCOS and FTANH within [-1, 1], FTANH with its operand's sign. Which functions the device has within the bounds is
left to the constants of notes/assumptions 6. (A k operand in a service lane is a free value: 17.) -/
def Obligations.ApproximatedResults : Prop :=
  FloatWrites1 .frcp (fun o x => approxFinal o.mod (approxResult .rcp x)) ∧
  FloatWrites1 .frsq (fun o x => approxFinal o.mod (approxResult .rsq x)) ∧
  FloatWrites1 .fexp2 (fun o x => approxFinal o.mod (approxResult .exp2 x)) ∧
  FloatWrites1 .flog2 (fun o x => approxFinal o.mod (approxResult .log2 x)) ∧
  FloatWrites1 .fsin (fun o x => approxFinal o.mod (approxResult .sin x)) ∧
  FloatWrites1 .fcos (fun o x => approxFinal o.mod (approxResult .cos x)) ∧
  FloatWrites1 .ftanh (fun o x => approxFinal o.mod (approxResult .tanh x)) ∧
  (∀ fn (x : Word), (f32 x).isNan → approxResult fn x = 0x7FC00000) ∧
  approxResult .rcp 0 = 0x7F800000 ∧ approxResult .rcp 0x80000000 = 0xFF800000 ∧
  approxResult .rcp 0x7F800000 = 0 ∧ approxResult .rcp 0xFF800000 = 0x80000000 ∧
  approxResult .rsq 0 = 0x7F800000 ∧ approxResult .rsq 0x80000000 = 0xFF800000 ∧ approxResult .rsq 0x7F800000 = 0 ∧
  approxResult .exp2 0 = 0x3F800000 ∧ approxResult .exp2 0x7F800000 = 0x7F800000 ∧ approxResult .exp2 0xFF800000 = 0 ∧
  approxResult .log2 0 = 0xFF800000 ∧ approxResult .log2 0x80000000 = 0xFF800000 ∧ approxResult .log2 0x7F800000 = 0x7F800000 ∧
  approxResult .sin 0 = 0 ∧ approxResult .sin 0x80000000 = 0x80000000 ∧ approxResult .cos 0 = 0x3F800000 ∧
  approxResult .sin 0x7F800000 = 0x7FC00000 ∧ approxResult .cos 0xFF800000 = 0x7FC00000 ∧
  approxResult .tanh 0x80000000 = 0x80000000 ∧ approxResult .tanh 0x7F800000 = 0x3F800000 ∧
  approxResult .tanh 0xFF800000 = 0xBF800000 ∧
  (∀ (x : Word), 0x80000001 ≤ x.toNat → x.toNat ≤ 0xFF800000 →
    approxResult .rsq x = 0x7FC00000 ∧ approxResult .log2 x = 0x7FC00000) ∧
  (∀ (x : Word), 0x43000000 ≤ x.toNat → x.toNat ≤ 0x7F800000 → approxResult .exp2 x = 0x7F800000) ∧
  (∀ (x : Word), 0xC3160001 ≤ x.toNat → x.toNat ≤ 0xFF800000 → approxResult .exp2 x = 0) ∧
  (∀ (x : Word), x.toNat < 0x39800000 → approxResult .tanh x = x.toNat) ∧
  (∀ (x : Word), 0x41100000 ≤ x.toNat → x.toNat ≤ 0x7F800000 → approxResult .tanh x = 0x3F800000) ∧
  (∀ k : Nat, 1 ≤ k → k ≤ 253 → approxResult .rcp (BitVec.ofNat 32 (k * 2 ^ 23)) = (254 - k) * 2 ^ 23 ∧
    approxResult .rcp (BitVec.ofNat 32 (k * 2 ^ 23 + 2 ^ 31)) = (254 - k) * 2 ^ 23 + 2 ^ 31) ∧
  approxResult .rcp 0x7F000000 = 0x00400000 ∧ approxResult .rcp 0x00400000 = 0x7F000000 ∧
  approxResult .rcp 0xFF000000 = 0x80400000 ∧ approxResult .rcp 0x80400000 = 0xFF000000 ∧
  (∀ k : Nat, 1 ≤ k → k ≤ 254 → k % 2 = 1 → approxResult .rsq (BitVec.ofNat 32 (k * 2 ^ 23)) = (381 - k) / 2 * 2 ^ 23) ∧
  (∀ j : Nat, j < 23 → j % 2 = 1 → approxResult .rsq (BitVec.ofNat 32 (2 ^ j)) = (127 + (149 - j) / 2) * 2 ^ 23) ∧
  (∀ j : Nat, j < 23 → approxResult .log2 (BitVec.ofNat 32 (2 ^ j)) = roundF (ofScaled ((j : Int) - 149) 0 false) .fp32 .rne) ∧
  (∀ k : Nat, 1 ≤ k → k ≤ 149 → approxResult .exp2 (BitVec.ofNat 32 (roundF (.fin true k 0) .fp32 .rne)) =
    if k ≤ 126 then (127 - k) * 2 ^ 23 else 2 ^ (149 - k)) ∧
  (∀ (x : Word), 0x80000000 ≤ x.toNat → x.toNat < 0xB9800000 → approxResult .tanh x = x.toNat) ∧
  (∀ (x : Word), 0xC1100000 ≤ x.toNat → x.toNat ≤ 0xFF800000 → approxResult .tanh x = 0xBF800000) ∧
  (∀ (x : Word) (k : Int), isFin (f32 x) = true →
    (pow2 k ≤ 1 / ratOf (f32 x) ∧ 1 / ratOf (f32 x) < pow2 (k + 1)) ∨ (pow2 k ≤ -(1 / ratOf (f32 x)) ∧ -(1 / ratOf (f32 x)) < pow2 (k + 1)) →
    let y := 1 / ratOf (f32 x)
    let r := fp32Val (approxResult .rcp x)
    let u := pow2 (max k (-126) - 23)
    (isFin r = true ∧ y - u ≤ ratOf r ∧ ratOf r ≤ y + u) ∨ (pow2 128 - pow2 104 < y ∧ r = .inf false) ∨
      (pow2 128 - pow2 104 < -y ∧ r = .inf true)) ∧
  (∀ (x : Word) (k : Int), isFin (f32 x) = true → 0 < ratOf (f32 x) → pow2 (2 * k) * ratOf (f32 x) ≤ 1 →
    1 < pow2 (2 * k + 2) * ratOf (f32 x) →
    let r := fp32Val (approxResult .rsq x)
    let u := pow2 (k - 23)
    isFin r = true ∧ u ≤ ratOf r ∧ (ratOf r - u) * (ratOf r - u) * ratOf (f32 x) ≤ 1 ∧
      1 ≤ (ratOf r + u) * (ratOf r + u) * ratOf (f32 x)) ∧
  (∀ (fn : ApproxFn) (x : Word) (neg : Bool) (m : Nat) (e : Int), fn = .exp2 ∨ fn = .log2 →
    let y := approxExact fn neg m e
    let r := fp32Val (approxInexact fn x neg m e)
    (beyondFp32 y = true → r = .inf y.isNeg) ∧
    (beyondFp32 y = false → isFin r = true ∧ ratOf y - 2 * pow2 (ulpExp y) ≤ ratOf r ∧ ratOf r ≤ ratOf y + 2 * pow2 (ulpExp y))) ∧
  (∀ (fn : ApproxFn) (x : Word), fn = .sin ∨ fn = .cos ∨ fn = .tanh → isFin (f32 x) = true →
    approxResult fn x % 2 ^ 31 ≤ 0x3F800000 ∧ (fn = .tanh → approxResult fn x / 2 ^ 31 = x.toNat / 2 ^ 31)) ∧
  (∀ k : Nat, k < 127 → approxResult .exp2 (BitVec.ofNat 32 (roundF (.fin false (k + 1) 0) .fp32 .rne)) = (k + 128) * 2 ^ 23) ∧
  (∀ k : Nat, 1 ≤ k → k ≤ 254 →
    approxResult .log2 (BitVec.ofNat 32 (k * 2 ^ 23)) = roundF (ofScaled ((k : Int) - 127) 0 false) .fp32 .rne)

/-- R187 to R189: each word of the conversion family completes with the value its entry gives. R188: F2H keeps what its type represents and
clamps to [0, 1] where MOD[2] asks; H2F is exact. R63 to R66: an element dequantised is its value times 2^(X - 127), delivered to FP32
exactly, and quantised again is itself; a value between two neighbouring codes goes to the nearer, at a tie to the even one, and one beyond
the largest to the largest; NaN, the infinities and X = 0xFF; and a block's scale is that of its largest magnitude. (Points of rounding:
notes/assumptions 51; a k operand in a service lane is a free value: 17.) -/
def Obligations.ConversionResults : Prop :=
  FloatWrites1 .f2i (fun o x => BitVec.ofInt 32 (toInt (f32 x) (rmodeOf o.mod.toNat) (-2147483648) 2147483647)) ∧
  FloatWrites1 .f2u (fun o x => BitVec.ofInt 32 (toInt (f32 x) (rmodeOf o.mod.toNat) 0 4294967295)) ∧
  (∀ s a t (o : OpR), Clear s a t o.g {} [.dx o.d, needSel (kA o) o.a] →
    exec (.i2f o) s = .next (wrote s a [.dx o.d, needSel (kA o) o.a]
      (writeX t o.d.toNat (f32Result o.mod (ofScaled (valA s a t o).toInt 0 false)))) ∧
    exec (.u2f o) s = .next (wrote s a [.dx o.d, needSel (kA o) o.a]
      (writeX t o.d.toNat (f32Result o.mod (ofScaled (valA s a t o).toNat 0 false))))) ∧
  (∀ s a t (o : OpR), Clear s a t o.g { lim := typeLim o 1 2 } [.dx o.d, needSel (kA o) o.a, .sx o.b] →
    exec (.f2h o) s = .next (wrote s a [.dx o.d, needSel (kA o) o.a, .sx o.b] (writeX t o.d.toNat
      (packHalf (f2hElem o.mod (cType o) (f32 (fltOpA s a t o))) (f2hElem o.mod (cType o) (f32 (fltOpB t o))))))) ∧
  (∀ s a t (o : OpR), Clear s a t o.g { lim := typeLim o 1 2 } [.dp o.d, needSel (kA o) o.a] →
    exec (.h2f o) s = .next (wrote s a [.dp o.d, needSel (kA o) o.a] (writePair t o.d.toNat
      (h2fElem o.mod (cType o) (half (valA s a t o) 1) ++ h2fElem o.mod (cType o) (half (valA s a t o) 0))))) ∧
  (∀ s a t (o : OpR), Clear s a t o.g { lim := typeLim o 3 8 } [.dx o.d, needSel (kA o) o.a, .sx o.b] →
    exec (.cvtq o) s = .next (wrote s a [.dx o.d, needSel (kA o) o.a, .sx o.b] (writeX t o.d.toNat
      (BitVec.ofNat 32 (quantiseOne (f32 (fltOpA s a t o)) (cType o) ((readX t o.b.toNat).toNat % 256))))) ∧
    exec (.cvtd o) s = .next (wrote s a [.dx o.d, needSel (kA o) o.a, .sx o.b] (writeX t o.d.toNat
      (BitVec.ofNat 32 (deliver (dequant ((valA s a t o).toNat % 2 ^ elemBits (cType o)) ((readX t o.b.toNat).toNat % 256) (cType o))
        .fp32))))) ∧
  (∀ s a t (o : OpR), Clear s a t o.g { lim := typeLim o 3 8 } [.dx o.d, needSel (kA o) o.a] →
    exec (.xscale o) s = .next (wrote s a [.dx o.d, needSel (kA o) o.a] (writeX t o.d.toNat
      (BitVec.ofNat 32 (deriveScale [f32 (fltOpA s a t o)] (cType o)))))) ∧
  (∀ (x : Val) (m : RMode) (lo hi : Int), lo ≤ 0 → 0 ≤ hi → lo ≤ toInt x m lo hi ∧ toInt x m lo hi ≤ hi) ∧
  (∀ (lo hi : Int) m, toInt .nan m lo hi = 0 ∧ toInt (.inf false) m lo hi = hi ∧ toInt (.inf true) m lo hi = lo) ∧
  (∀ (m : BitVec 8) (ty : Elem) (n : Nat), ty = .bf16 ∨ ty = .fp16 → n < 2 ^ 16 →
    let x := decodeElem n ty
    (m.getLsbD 2 = false → x ≠ .nan → f2hElem m ty x = n) ∧ (m.getLsbD 2 = false → f2hElem m ty .nan = if ty = .bf16 then 0x7FC0 else 0x7E00) ∧
    (m.getLsbD 2 = true → f2hElem m ty .nan = 0 ∧ (x = .inf false → f2hElem m ty x = if ty = .bf16 then 0x3F80 else 0x3C00) ∧
      (x = .inf true → f2hElem m ty x = 0) ∧ (isFin x = true → f2hElem m ty x =
        if ratOf x ≤ 0 then 0 else if 1 ≤ ratOf x then (if ty = .bf16 then 0x3F80 else 0x3C00) else n)) ∧
    (m.getLsbD 3 = false → m.getLsbD 4 = false → (x = .nan → h2fElem m ty n = 0x7FC00000) ∧
      (x ≠ .nan → isFin (fp32Val (h2fElem m ty n).toNat) = isFin x ∧ ratOf (fp32Val (h2fElem m ty n).toNat) = ratOf x ∧
        (fp32Val (h2fElem m ty n).toNat).isNeg = x.isNeg)) ∧
    h2fElem m ty n = h2fElem 0 ty ((if m.getLsbD 4 then n % 2 ^ 15 else n) ^^^ (if m.getLsbD 3 then 2 ^ 15 else 0))) ∧
  (∀ (ty : Elem) (q x : Nat), 3 ≤ elemCode ty → elemCode ty ≤ 8 → q < 2 ^ elemBits ty →
    dequant q 0xFF ty = .nan ∧
    (x < 255 → isFin (scaledVal q ty) = true → isFin (dequant q x ty) = true ∧
      ratOf (dequant q x ty) = ratOf (scaledVal q ty) * pow2 ((x : Int) - 127) ∧ quantiseOne (dequant q x ty) ty x = q ∧
      (-(pow2 128) < ratOf (dequant q x ty) → ratOf (dequant q x ty) < pow2 128 →
        ratOf (fp32Val (deliver (dequant q x ty) .fp32)) = ratOf (dequant q x ty))) ∧
    (ty = .int8 → ratOf (scaledVal q ty) = signExt q 8 / 64)) ∧
  (∀ (ty : Elem) (x : Nat), 3 ≤ elemCode ty → elemCode ty ≤ 8 →
    (∀ v, quantiseOne v ty 0xFF = 0) ∧
    (x < 255 → quantiseOne .nan ty x = canonNaN ty ∧ quantiseOne (.inf false) ty x = elemMaxEnc ty ∧
      (∀ n e, quantiseOne (.fin false n e) ty x ≤ elemMaxEnc ty) ∧
      (∀ n e, ratOf (dequant (elemMaxEnc ty) x ty) ≤ ratOf (.fin false n e) → quantiseOne (.fin false n e) ty x = elemMaxEnc ty) ∧
      (∀ n e q, q + 1 ≤ elemMaxEnc ty → ratOf (dequant q x ty) ≤ ratOf (.fin false n e) →
        ratOf (.fin false n e) ≤ ratOf (dequant (q + 1) x ty) →
        let two := 2 * ratOf (.fin false n e)
        let mid := ratOf (dequant q x ty) + ratOf (dequant (q + 1) x ty)
        quantiseOne (.fin false n e) ty x = if two < mid then q else if mid < two then q + 1 else if q % 2 = 0 then q else q + 1) ∧
      (∀ n e, ty ≠ .int8 → quantiseOne (.fin true n e) ty x = quantiseOne (.fin false n e) ty x + 2 ^ (elemBits ty - 1)))) ∧
  (∀ (v : List Val) (ty : Elem) (top : Int),
    ((∃ y ∈ v, isFin y = false) → deriveScale v ty = 0xFF) ∧
    ((∀ y ∈ v, isFin y = true ∧ ratOf y = 0) → deriveScale v ty = 0) ∧
    ((∀ y ∈ v, isFin y = true ∧ ratOf y < pow2 (top + 1) ∧ -(pow2 (top + 1)) < ratOf y) →
      (∃ y ∈ v, pow2 top ≤ ratOf y ∨ pow2 top ≤ -(ratOf y)) →
      (deriveScale v ty : Int) = max 0 (min (top - elemEmax ty + 127) 254)))

/-! ## Moves and control -/

/-- R175, R177: MOV and SREAD write x[D]; KPUT writes k[D] on every copy of the group and nothing else of it; KGET reads the issuing
core's copy. R176: what SREAD returns in a group, in a service lane and on a sextant core. That KPUT writes every copy in one step is
read as in notes/assumptions 31; a k operand in a service lane is a free value (17). -/
def Obligations.MoveResults : Prop :=
  (∀ s a t (o : OpR), Clear s a t o.g {} [.dx o.d, .sx o.a] →
    exec (.mov o) s = .next (wrote s a [.dx o.d, .sx o.a] (writeX t o.d.toNat (readX t o.a.toNat)))) ∧
  (∀ s a t (o : OpR), Clear s a t o.g { lim := fun _ => o.b.toNat > 19 } [.dx o.d] →
    exec (.sread o) s = .next (wrote s a [.dx o.d] (writeX t o.d.toNat (specialReg s (envOf s a) o.b.toNat)))) ∧
  (∀ s a t (o : OpR), Executes s a t → 20 ≤ o.b.toNat → exec (.sread o) s = .next (trap s a 0x02)) ∧
  (∀ s a t (o : OpR), Clear s a t o.g { place := .group } [.kx o.d, .sx o.a] →
    exec (.kput o) s = .next (retired s (modGroup s (envOf s a).gid fun g =>
      { g with k := g.k.map fun m => SMap.set m o.d.toNat (readX t o.a.toNat) }) a [.kx o.d, .sx o.a] t)) ∧
  (∀ s a t (o : OpR), Clear s a t o.g { place := .group } [.dx o.d, .kx o.a] →
    exec (.kget o) s = .next (wrote s a [.dx o.d, .kx o.a] (writeX t o.d.toNat (readK s (envOf s a) o.a.toNat)))) ∧
  (∀ (g : Group) (r d k : Nat) (v : Word), r < g.k.length →
    SMap.get (nthD (g.k.map fun m => SMap.set m d v) r []) k 0 = if k = d then v else SMap.get (nthD g.k r []) k 0) ∧
  (∀ s gid tid g, getGroup s gid = some g →
    let e := envOf s (.thread gid tid)
    specialReg s e 0 = BitVec.ofNat 32 (tid % g.gx) ∧ specialReg s e 1 = BitVec.ofNat 32 (tid / g.gx % g.gy) ∧
    specialReg s e 2 = BitVec.ofNat 32 (tid / (g.gx * g.gy)) ∧ specialReg s e 3 = BitVec.ofNat 32 tid ∧
    specialReg s e 4 = BitVec.ofNat 32 (g.gx * g.gy * g.gz) ∧ specialReg s e 5 = BitVec.ofNat 32 (g.flat % g.lx) ∧
    specialReg s e 6 = BitVec.ofNat 32 (g.flat / g.lx % g.ly) ∧ specialReg s e 7 = BitVec.ofNat 32 (g.flat / (g.lx * g.ly)) ∧
    specialReg s e 8 = BitVec.ofNat 32 (tid % 32) ∧
    specialReg s e 9 = BitVec.ofNat 32 (sliceOf g (rankOf g tid)).1 ∧
    specialReg s e 10 = BitVec.ofNat 32 ((sliceOf g (rankOf g tid)).1 / 40) ∧ specialReg s e 11 = BitVec.ofNat 32 (rankOf g tid) ∧
    specialReg s e 12 = g.lid ∧ specialReg s e 13 = BitVec.ofNat 32 g.ctx ∧ specialReg s e 18 = BitVec.ofNat 32 g.depth ∧
    specialReg s e 19 = BitVec.ofNat 32 g.variant) ∧
  (∀ s c l n, n ∈ [1, 2, 5, 6, 7, 11, 12, 13, 18, 19] → specialReg s (envOf s (.lane c l)) n = 0) ∧
  (∀ s c l, specialReg s (envOf s (.lane c l)) 0 = BitVec.ofNat 32 l ∧ specialReg s (envOf s (.lane c l)) 3 = BitVec.ofNat 32 l ∧
    specialReg s (envOf s (.lane c l)) 8 = BitVec.ofNat 32 l ∧ specialReg s (envOf s (.lane c l)) 4 = 32 ∧
    specialReg s (envOf s (.lane c l)) 9 = BitVec.ofNat 32 c ∧ specialReg s (envOf s (.lane c l)) 10 = BitVec.ofNat 32 (c / 40)) ∧
  (∀ s d n, n ∈ [0, 1, 2, 3, 4, 5, 6, 7, 8, 11, 12, 13, 18, 19] → specialReg s (envOf s (.sextant d)) n = 0) ∧
  (∀ s d, specialReg s (envOf s (.sextant d)) 9 = 0xFFFFFFFF ∧ specialReg s (envOf s (.sextant d)) 10 = BitVec.ofNat 32 d) ∧
  (∀ s a, (specialReg s (envOf s a) 17 ++ specialReg s (envOf s a) 16 : BitVec 64) = BitVec.ofNat 64 s.dev.tick ∧
    (specialReg s (envOf s a) 15 ++ specialReg s (envOf s a) 14 : BitVec 64) = BitVec.ofNat 64 (cyclesOf s (envOf s a)))

/-- R25, R44, R165, R168: NOP, and the branches to a target that R25 and R44 admit: the thread goes on there, with the link pair of CALL
and CALLX written; CALLX reads its target before it writes the link. R25, R44, R165: a target outside the address space traps 0x05 and a
register target that is no multiple of 8 traps 0x04, with no link written. The address that a trap of a branch records is read as in
notes/assumptions 35. -/
def Obligations.BranchResults : Prop :=
  (∀ s a t (o : OpR), Clear s a t o.g {} [] → exec (.nop o) s = .next (wrote s a [] t)) ∧
  (∀ s a t (o : OpJ) (n : Nat), Clear s a t o.g {} [] → (t.pc.toNat : Int) + 8 * o.rel.toInt = n → n < 2 ^ 56 →
    exec (.bra o) s = .next (retiredTo s s a [] t (BitVec.ofNat 64 n))) ∧
  (∀ s a t (o : OpJ) (n : Nat), Clear s a t o.g {} [.dp o.d] → (t.pc.toNat : Int) + 8 * o.rel.toInt = n → n < 2 ^ 56 →
    exec (.call o) s = .next (retiredTo s s a [.dp o.d] (writePair t o.d.toNat (t.pc + 8)) (BitVec.ofNat 64 n))) ∧
  (∀ s a t (o : OpR), Clear s a t o.g {} [.sp o.a] → (readPair t o.a.toNat).toNat < 2 ^ 56 → (readPair t o.a.toNat).toNat % 8 = 0 →
    exec (.brx o) s = .next (retiredTo s s a [.sp o.a] t (readPair t o.a.toNat)) ∧
    exec (.ret o) s = .next (retiredTo s s a [.sp o.a] t (readPair t o.a.toNat))) ∧
  (∀ s a t (o : OpR), Clear s a t o.g {} [.dp o.d, .sp o.a] → (readPair t o.a.toNat).toNat < 2 ^ 56 →
    (readPair t o.a.toNat).toNat % 8 = 0 →
    exec (.callx o) s = .next (retiredTo s s a [.dp o.d, .sp o.a] (writePair t o.d.toNat (t.pc + 8)) (readPair t o.a.toNat))) ∧
  (∀ s a t (o : OpJ), Clear s a t o.g {} [] →
    (t.pc.toNat : Int) + 8 * o.rel.toInt < 0 ∨ (t.pc.toNat : Int) + 8 * o.rel.toInt ≥ 2 ^ 56 →
    exec (.bra o) s = .next (trap s a 0x05 0 (wrapInt ((t.pc.toNat : Int) + 8 * o.rel.toInt) 56))) ∧
  (∀ s a t (o : OpJ), Clear s a t o.g {} [.dp o.d] →
    (t.pc.toNat : Int) + 8 * o.rel.toInt < 0 ∨ (t.pc.toNat : Int) + 8 * o.rel.toInt ≥ 2 ^ 56 →
    exec (.call o) s = .next (trap s a 0x05 0 (wrapInt ((t.pc.toNat : Int) + 8 * o.rel.toInt) 56))) ∧
  (∀ s a t (o : OpR), Clear s a t o.g {} [.sp o.a] → (readPair t o.a.toNat).toNat ≥ 2 ^ 56 →
    exec (.brx o) s = .next (trap s a 0x05 0 ((readPair t o.a.toNat).toNat % 2 ^ 56)) ∧
    exec (.ret o) s = .next (trap s a 0x05 0 ((readPair t o.a.toNat).toNat % 2 ^ 56))) ∧
  (∀ s a t (o : OpR), Clear s a t o.g {} [.dp o.d, .sp o.a] → (readPair t o.a.toNat).toNat < 2 ^ 56 →
    (readPair t o.a.toNat).toNat % 8 ≠ 0 → exec (.callx o) s = .next (trap s a 0x04 0 (readPair t o.a.toNat).toNat)) ∧
  (∀ s a t (o : OpR), Clear s a t o.g {} [.sp o.a] → (readPair t o.a.toNat).toNat < 2 ^ 56 → (readPair t o.a.toNat).toNat % 8 ≠ 0 →
    exec (.brx o) s = .next (trap s a 0x04 0 (readPair t o.a.toNat).toNat) ∧
    exec (.ret o) s = .next (trap s a 0x04 0 (readPair t o.a.toNat).toNat)) ∧
  (∀ s a t (o : OpR), Clear s a t o.g {} [.dp o.d, .sp o.a] → (readPair t o.a.toNat).toNat ≥ 2 ^ 56 →
    exec (.callx o) s = .next (trap s a 0x05 0 ((readPair t o.a.toNat).toNat % 2 ^ 56)))

/-- R166: EXIT of a group thread that has no load under way, no pending rendezvous in its span and another live thread in its
group leaves it EXITED with its registers, and IDEM OFF cleared; of a dispatched lane, the lane IDLE; a steward or a sextant core
never issues again. R168: TRAP and BRK trap 0x10 with their number and 0x11 at the next word; SLEEP waits for min(x[A], 2^20)
cycles of the core clock, and a count of zero only yields issue; when the cycles have passed, SLEEP_EXPIRY lets the thread go on.
That EXIT waits for the loads under way and where an event's operand stands are the model's: notes/assumptions 12, 29. -/
def Obligations.EndsAndWaits : Prop :=
  (∀ s gid tid t g u v (o : OpR), Clear s (.thread gid tid) t o.g {} [] → hasPend s (.thread gid tid) = false →
    getGroup s gid = some g → tumblerOf g (tid / 32) = [] → u ≠ tid → getThread s (.thread gid u) = some v → v.st ≠ .exited →
    ∃ s', exec (.exit_ o) s = .next s' ∧
      getThread s' (.thread gid tid) = some { t.settled with st := .exited, idemOff := false }) ∧
  (∀ s c l t (o : OpR), Clear s (.lane c l) t o.g {} [] → hasPend s (.lane c l) = false → l ≠ 0 →
    exec (.exit_ o) s = .next (laneIdle s c l)) ∧
  (∀ s c t (o : OpR), Clear s (.lane c 0) t o.g {} [] → hasPend s (.lane c 0) = false →
    exec (.exit_ o) s = .next (setThread s (.lane c 0) { t with st := .exited })) ∧
  (∀ s d t (o : OpR), Clear s (.sextant d) t o.g {} [] → hasPend s (.sextant d) = false →
    exec (.exit_ o) s = .next (setThread s (.sextant d) { t with st := .exited, idemOff := false })) ∧
  (∀ s a t (o : OpR), Clear s a t o.g {} [] →
    exec (.trap o) s = .next (Sys2Proof.Machine.trap (setThread s a { t with pc := t.pc + 8 }) a 0x10 (o.b.zeroExtend 32)) ∧
    exec (.brk o) s = .next (Sys2Proof.Machine.trap (setThread s a { t with pc := t.pc + 8 }) a 0x11)) ∧
  (∀ s a t (o : OpR), Clear s a t o.g {} [.sx o.a] → readX t o.a.toNat = 0 → exec (.sleep o) s = .next (wrote s a [.sx o.a] t)) ∧
  (∀ s a t (o : OpR), Clear s a t o.g {} [.sx o.a] → readX t o.a.toNat ≠ 0 →
    exec (.sleep o) s = .next (setThread s a
      { t with st := .waiting (.sleep (cyclesOf s (envOf s a) + min (readX t o.a.toNat).toNat (2 ^ 20))) })) ∧
  (∀ s t u, getThread s s.arg.who = some t → t.st = .waiting (.sleep u) → cyclesOf s (envOf s s.arg.who) ≥ u →
    exec .sleepExpiry s = .next (retire s (envOf s s.arg.who) t))

/-- R167, R44: YIELD whose condition holds goes on at its continuation with its status, and with the acquire of its kind; one
whose condition does not hold is PARKED; a continuation that R44 does not admit traps; and YIELD_WAKE lets a parked thread go on
once the condition holds. The condition of a YIELD on a queue, in the order of R132: retired, not accepted, faulted or stopped, or
not yet. The address that a trap records, and where the event's operand stands, are as in notes/assumptions 35, 29. -/
def Obligations.YieldResults : Prop :=
  (∀ s a t (o : OpR) c, Clear s a t o.g (yieldPolicy o) [.dx o.d, .sp o.a, if yieldKind o = 2 then .sp o.c else .sx o.c] →
    targetFault (readPair t o.a.toNat) = some c →
    exec (.yield o) s = .next (trap s a c 0 ((readPair t o.a.toNat).toNat % 2 ^ 56))) ∧
  (∀ s a t (o : OpR), yieldKind o = 2 → Clear s a t o.g (yieldPolicy o) [.dx o.d, .sp o.a, .sp o.c] →
    targetFault (readPair t o.a.toNat) = none →
    exec (.yield o) s = .next (if s.dev.tick ≥ (readPair t o.c.toNat).toNat
      then retiredTo s s a [] (writeX t o.d.toNat 0) (readPair t o.a.toNat)
      else setThread s a { t with st := .parked (.tick (readPair t o.c.toNat).toNat o.d.toNat (readPair t o.a.toNat)), code := 0 })) ∧
  (∀ s a t (o : OpR), yieldKind o = 0 → Clear s a t o.g (yieldPolicy o) [.dx o.d, .sp o.a, .sx o.c] →
    targetFault (readPair t o.a.toNat) = none →
    exec (.yield o) s = .next (
      if (semSeen (getCore s (envOf s a).coreNo) o.b.toNat (envOf s a).ctx).value ≥ (readX t o.c.toNat).toNat
      then retiredTo s (acquire s (envOf s a) (modField o.mod 2 3)) a [] (writeX t o.d.toNat 0) (readPair t o.a.toNat)
      else setThread s a { t with
        st := .parked (.sem o.b.toNat (readX t o.c.toNat).toNat (modField o.mod 2 3) o.d.toNat (readPair t o.a.toNat)), code := 0 })) ∧
  (∀ s a t (o : OpR), yieldKind o = 1 → Clear s a t o.g (yieldPolicy o) [.dx o.d, .sp o.a, .sx o.c] →
    targetFault (readPair t o.a.toNat) = none →
    exec (.yield o) s = .next (match queueTest (getQueue (getCore s (envOf s a).coreNo) o.b.toNat) (readX t o.c.toNat) with
      | some v => retiredTo s (if v = 0 then acquire s (envOf s a) 4 else s) a [] (writeX t o.d.toNat v) (readPair t o.a.toNat)
      | none => setThread s a { t with
        st := .parked (.queue o.b.toNat (readX t o.c.toNat).toNat o.d.toNat (readPair t o.a.toNat)), code := 0 })) ∧
  (∀ s t, getThread s s.arg.who = some t →
    let e := envOf s s.arg.who
    (e.inGroup = true → (e.group s).state = .running) →
    (∀ u d c, t.st = .parked (.tick u d c) → s.dev.tick ≥ u → exec .yieldWake s = .next (retireTo s e (writeX t d 0) c)) ∧
    (∀ n k w d c, t.st = .parked (.sem n k w d c) → (semSeen (getCore s e.coreNo) n e.ctx).value ≥ k →
      exec .yieldWake s = .next (retireTo (acquire s e w) e (writeX t d 0) c)) ∧
    (∀ q n d c v, t.st = .parked (.queue q n d c) → queueTest (getQueue (getCore s e.coreNo) q) (BitVec.ofNat 32 n) = some v →
      exec .yieldWake s = .next (retireTo (if v = 0 then acquire s e 4 else s) e (writeX t d v) c))) ∧
  (∀ (k : EngQ) (n : Word),
    ((k.ret - n).toNat < 2 ^ 31 → queueTest k n = some 0) ∧
    (¬ (k.ret - n).toNat < 2 ^ 31 → (n - k.ret).toNat > (k.acc - k.ret).toNat → queueTest k n = some 2) ∧
    (¬ (k.ret - n).toNat < 2 ^ 31 → (n - k.ret).toNat ≤ (k.acc - k.ret).toNat →
      queueTest k n = if k.st = .faulted ∨ k.st = .stopped then some 1 else none))

/-! ## Synchronisation -/

/-- R198 to R204: a thread whose mask names its own lane alone turns its tumbler at once: its destination receives the result of a
rendezvous of one, and it retires. R198, of each of the six words: an arrival whose mask does not name its own lane, or names a lane with no live
thread, or meets a pending rendezvous of its mask with another key, or overlaps one of another mask, traps 0x0C with nothing written, and so does
every thread that waits in a rendezvous whose mask overlaps, and those are removed; any other arrival joins the rendezvous of its mask, or opens
one: where every lane of the mask has arrived, the word is the turn, and else the thread waits. R199: at the turn every member retires with its
result. Members are distinct threads of the group that no DBGST steps. R202 to R204: what a turn of any
number of members gives each: XSHF the value that its source lane brought, else its own; XRED the fold of all in ascending lanes, XSCN
the fold up to it, or up to the lane before; XBAL the lanes whose predicate was true; XVOTE all, any or alike; and the fold operations. -/
def Obligations.TumblerResults : Prop :=
  (∀ s gid tid t g (o : OpR), getGroup s gid = some g → steps s (envOf s (.thread gid tid)) = false → t.st ≠ .exited →
    readX t o.c.toNat = BitVec.ofNat 32 (2 ^ (tid % 32)) →
    (∀ r ∈ tumblerOf g (tid / 32), r.mask &&& readX t o.c.toNat = 0) →
    (Clear s (.thread gid tid) t o.g groupOnly [.sx o.c] →
      Released s (envOf s (.thread gid tid)) t (syncScope o.mod) →
      ∃ s', exec (.tumb o) s = .next s' ∧ RetiresWith s s' (.thread gid tid) t ∧ (syncScope o.mod = 0 → SameOutside s s')) ∧
    (Clear s (.thread gid tid) t o.g groupOnly [.dx o.d, .sx o.a, .sx o.b, .sx o.c] →
      ∃ s', exec (.xshf o) s = .next s' ∧
        RetiresWith s s' (.thread gid tid) (writeX t o.d.toNat (readX t o.a.toNat)) ∧ SameOutside s s') ∧
    (Clear s (.thread gid tid) t o.g groupOnly [.dx o.d, .sx o.a, .sx o.c] →
      (∃ s', exec (.xred o) s = .next s' ∧
        RetiresWith s s' (.thread gid tid) (writeX t o.d.toNat (readX t o.a.toNat)) ∧ SameOutside s s') ∧
      (∃ s', exec (.xscn o) s = .next s' ∧ RetiresWith s s' (.thread gid tid) (writeX t o.d.toNat
        (if o.mod.getLsbD 4 then foldIdentity (o.mod.toNat % 16) else readX t o.a.toNat)) ∧ SameOutside s s')) ∧
    (Clear s (.thread gid tid) t o.g groupOnly [.dx o.d, .pr o.a, .sx o.c] →
      ∃ s', exec (.xbal o) s = .next s' ∧ RetiresWith s s' (.thread gid tid) (writeX t o.d.toNat
        (if readP t o.a.toNat then BitVec.ofNat 32 (2 ^ (tid % 32)) else 0)) ∧ SameOutside s s') ∧
    (Clear s (.thread gid tid) t o.g groupOnly [.pr o.d, .pr o.a, .sx o.c] → o.mod.toNat ≤ 2 →
      ∃ s', exec (.xvote o) s = .next s' ∧ RetiresWith s s' (.thread gid tid) (writeP t o.d.toNat
        (readP t o.a.toNat || decide (o.mod = 2))) ∧ SameOutside s s')) ∧
  (∀ s gid tid t g (o : OpR) i fn needs, getGroup s gid = some g →
    (i, fn, needs) ∈ ([(.tumb o, 0, [.sx o.c]), (.xshf o, 1, [.dx o.d, .sx o.a, .sx o.b, .sx o.c]), (.xred o, 2, [.dx o.d, .sx o.a, .sx o.c]),
      (.xscn o, 3, [.dx o.d, .sx o.a, .sx o.c]), (.xbal o, 4, [.dx o.d, .pr o.a, .sx o.c]), (.xvote o, 5, [.pr o.d, .pr o.a, .sx o.c])] :
        List (Instr × Nat × List Need)) →
    Clear s (.thread gid tid) t o.g groupOnly needs → (fn = 0 → Released s (envOf s (.thread gid tid)) t (syncScope o.mod)) →
    let m := readX t o.c.toNat
    let l := tumblerOf g (tid / 32)
    let same := l.find? fun r => r.mask == m
    (m.getLsbD (tid % 32) = false ∨ lanesLive g (tid / 32) m = false ∨ (∃ r, same = some r ∧ (r.fn ≠ fn ∨ r.mod ≠ o.mod)) ∨
        (same = none ∧ ∃ r ∈ l, r.mask &&& m ≠ 0) →
      ∃ s' t' g', exec i s = .next s' ∧
        (getThread s' (.thread gid tid) = some t' ∧ t'.st = .trapped ∧ t'.code = 0x0C ∧ t'.pc = t.pc ∧ t'.x = t.x ∧ t'.p = t.p) ∧
        (∀ r ∈ l, r.mask &&& m ≠ 0 → ∀ x ∈ r.got, ∀ u, getThread s (.thread gid x.tid) = some u →
          ∃ u', getThread s' (.thread gid x.tid) = some u' ∧ u'.st = .trapped ∧ u'.code = 0x0C ∧ u'.pc = u.pc ∧ u'.x = u.x ∧ u'.p = u.p) ∧
        getGroup s' gid = some g' ∧ tumblerOf g' (tid / 32) = l.filter fun r => r.mask &&& m == 0) ∧
    (m.getLsbD (tid % 32) = true → lanesLive g (tid / 32) m = true → ∀ rz rest,
      (same = some rz ∧ rz.fn = fn ∧ rz.mod = o.mod ∧ rest = l.filter fun r => r.mask != m) ∨
        (same = none ∧ (∀ r ∈ l, r.mask &&& m = 0) ∧ rz = { mask := m, fn := fn, mod := o.mod, got := [] } ∧ rest = l) →
      let now : Rendezvous := { rz with got := rz.got ++ [arrivalOf (envOf s (.thread gid tid)) t o] }
      ((∀ k, k < 32 → m.getLsbD k = true → ∃ x ∈ now.got, x.lane = k) →
        exec i s = .next (turn (setTumbler s gid (tid / 32) rest) gid now)) ∧
      ((∃ k, k < 32 ∧ m.getLsbD k = true ∧ ∀ x ∈ now.got, x.lane ≠ k) →
        exec i s = .next (waitAt (setTumbler s gid (tid / 32) (rest ++ [now])) (.thread gid tid) .tumbler)))) ∧
  (∀ s gid tid (t : Thread) g (o : OpR), getGroup s gid = some g →
    let x := arrivalOf (envOf s (.thread gid tid)) t o
    x.lane = tid % 32 ∧ x.tid = tid ∧ x.d = o.d ∧ x.va = readX t o.a.toNat ∧ x.vb = readX t o.b.toNat ∧ x.vp = readP t o.a.toNat) ∧
  (∀ s gid g (rz : Rendezvous), getGroup s gid = some g → (rz.got.map (·.tid)).Nodup →
    (∀ m ∈ rz.got, m.tid < g.threads.length ∧ steps s (envOf s (.thread gid m.tid)) = false) →
    ∀ m ∈ rz.got, ∀ t, getThread s (.thread gid m.tid) = some t →
      getThread (turn s gid rz) (.thread gid m.tid) =
        some { (resultOf rz.fn rz.mod rz.got m t).settled with
                 st := .ready
                 stamp := dieCycle s (envOf s (.thread gid m.tid)).die
                 pc := (resultOf rz.fn rz.mod rz.got m t).pc + 8 }) ∧
  (∀ s gid tid t g (o : OpR) l, getGroup s gid = some g →
    Clear s (.thread gid tid) t o.g groupOnly [.dx o.d, .sx o.a, .sx o.c] →
    (readX t o.c.toNat).getLsbD (tid % 32) = true → lanesLive g (tid / 32) (readX t o.c.toNat) = true → tumblerOf g (tid / 32) = [] →
    l < 32 → l ≠ tid % 32 → (readX t o.c.toNat).getLsbD l = true →
    ∃ s', exec (.xred o) s = .next s' ∧ getThread s' (.thread gid tid) = some { t with st := .waiting .tumbler } ∧
      ∃ g', getGroup s' gid = some g' ∧ (tumblerOf g' (tid / 32)).map (fun r => (r.mask, r.got.map (·.tid))) =
        [(readX t o.c.toNat, [tid])]) ∧
  (∀ (mod : BitVec 8) (l : List Arrival) (m : Arrival) (t : Thread), m ∈ l → (l.map (·.lane)).Nodup → (∀ x ∈ l, x.lane < 32) →
    let src (n : Nat) : Prop := match mod.toNat % 4 with
      | 0 => n = m.vb.toNat % 32
      | 1 => n + m.vb.toNat = m.lane
      | 2 => n = m.lane + m.vb.toNat
      | _ => n = m.lane ^^^ (m.vb.toNat % 32)
    let fold (x : Arrival) (r : List Arrival) : Word := r.foldl (fun acc y => foldOp (mod.toNat % 16) acc y.va) x.va
    resultOf 0 mod l m t = t ∧
    (∀ x ∈ l, src x.lane → resultOf 1 mod l m t = writeX t m.d.toNat x.va) ∧
    ((∀ x ∈ l, ¬ src x.lane) → resultOf 1 mod l m t = writeX t m.d.toNat m.va) ∧
    (∀ p r, List.Perm (p ++ m :: r) l → (p ++ m :: r).Pairwise (fun x y => x.lane < y.lane) →
      (∀ x q, p ++ m :: r = x :: q → resultOf 2 mod l m t = writeX t m.d.toNat (fold x q)) ∧
      (∀ x q, mod.getLsbD 4 = false → p ++ [m] = x :: q → resultOf 3 mod l m t = writeX t m.d.toNat (fold x q)) ∧
      (∀ x q, mod.getLsbD 4 = true → p = x :: q → resultOf 3 mod l m t = writeX t m.d.toNat (fold x q)) ∧
      (mod.getLsbD 4 = true → p = [] → resultOf 3 mod l m t = writeX t m.d.toNat (foldIdentity (mod.toNat % 16)))) ∧
    (∃ v : Word, resultOf 4 mod l m t = writeX t m.d.toNat v ∧ ∀ i, i < 32 → v.getLsbD i = l.any (fun x => x.lane == i && x.vp)) ∧
    (mod.toNat = 0 → resultOf 5 mod l m t = writeP t m.d.toNat (l.all (·.vp))) ∧
    (mod.toNat = 1 → resultOf 5 mod l m t = writeP t m.d.toNat (l.any (·.vp))) ∧
    (mod.toNat = 2 → resultOf 5 mod l m t = writeP t m.d.toNat (l.all (fun x => x.vp == m.vp)))) ∧
  (∀ a v : Word, foldOp 0 a v = a + v ∧ foldOp 1 a v = (if v.toInt < a.toInt then v else a) ∧
    foldOp 2 a v = (if a.toInt < v.toInt then v else a) ∧ foldOp 3 a v = (if v.toNat < a.toNat then v else a) ∧
    foldOp 4 a v = (if a.toNat < v.toNat then v else a) ∧ foldOp 5 a v = a &&& v ∧ foldOp 6 a v = a ||| v ∧ foldOp 7 a v = a ^^^ v ∧
    foldOp 8 a v = BitVec.ofNat 32 (roundF ((f32 a).add (f32 v) .rne) .fp32 .rne) ∧
    foldOp 9 a v = BitVec.ofNat 32 (minNum a.toNat v.toNat .fp32) ∧ foldOp 10 a v = BitVec.ofNat 32 (maxNum a.toNat v.toNat .fp32))

/-- R192 to R195: BARI sets a barrier that has no arrivals; BARA and BARS arrive and BARW waits, with the token that R194 gives; a
barrier with arrivals, a second arrival in ALL mode and a token of a phase not begun trap 0x0D. R192, R194: an arrival that does
not meet EXP counts, and sets the thread's flag in ALL mode; the arrival that meets it starts the next phase with no arrivals and
no flags. -/
def Obligations.BarrierResults : Prop :=
  (∀ s a t (o : OpR), Clear s a t o.g groupOnly [.bar o.b, .sx o.a] →
    (getBar ((envOf s a).group s) o.b.toNat).arr = 0 → (readX t o.a.toNat).toNat ≤ 65535 →
    exec (.bari o) s = .next (retired s (modGroup s (envOf s a).gid fun g =>
      { g with bars := SMap.set g.bars o.b.toNat (
                 if readX t o.a.toNat = 0 then { getBar ((envOf s a).group s) o.b.toNat with all := true }
                 else { getBar ((envOf s a).group s) o.b.toNat with all := false, exp := (readX t o.a.toNat).toNat }) })
      a [.bar o.b, .sx o.a] t)) ∧
  (∀ s a t (o : OpR), Clear s a t o.g groupOnly [.bar o.b, .sx o.a] → (readX t o.a.toNat).toNat ≤ 65535 →
    (getBar ((envOf s a).group s) o.b.toNat).arr ≠ 0 → exec (.bari o) s = .next (trap s a 0x0D)) ∧
  (∀ s a t (o : OpR), Clear s a t o.g groupOnly [.dx o.d, .bar o.b] →
    arriveBad ((envOf s a).group s) o.b.toNat (envOf s a).tid = false → Released s (envOf s a) t (syncScope o.mod) →
    exec (.bara o) s = .next (retired s (arrive s (envOf s a).gid o.b.toNat (envOf s a).tid) a [.dx o.d, .bar o.b]
      (writeX t o.d.toNat (phaseOf s (envOf s a) o.b.toNat)))) ∧
  (∀ s a t (o : OpR), Clear s a t o.g groupOnly [.dx o.d, .bar o.b] →
    arriveBad ((envOf s a).group s) o.b.toNat (envOf s a).tid = true → exec (.bara o) s = .next (trap s a 0x0D)) ∧
  (∀ s a t (o : OpR), Clear s a t o.g groupOnly [.bar o.b, .sx o.a] →
    let d := (readX t o.a.toNat - phaseOf s (envOf s a) o.b.toNat).toNat
    exec (.barw o) s = .next (
      if d = 0 then setThread s a { t with st := .waiting (.barw o.b.toNat (readX t o.a.toNat) (syncScope o.mod) false), relBound := none }
      else if d < 2 ^ 31 then trap s a 0x0D
      else retired s (acquire s (envOf s a) (syncScope o.mod)) a [.bar o.b, .sx o.a] t)) ∧
  (∀ s a t (o : OpR), Clear s a t o.g groupOnly [.bar o.b] →
    arriveBad ((envOf s a).group s) o.b.toNat (envOf s a).tid = false → Released s (envOf s a) t (syncScope o.mod) →
    let s1 := arrive s (envOf s a).gid o.b.toNat (envOf s a).tid
    let tok := phaseOf s (envOf s a) o.b.toNat
    exec (.bars o) s = .next (
      if phaseOf s1 (envOf s a) o.b.toNat = tok
      then setThread s1 a { t with st := .waiting (.barw o.b.toNat tok (syncScope o.mod) true), relBound := none }
      else retired s (acquire s1 (envOf s a) (syncScope o.mod)) a [.bar o.b] t)) ∧
  (∀ s gid n tid g, getGroup s gid = some g →
    let b := getBar g n
    (b.arr + 1 ≠ barExp g b → ∃ g', getGroup (arrive s gid n tid) gid = some g' ∧ g'.threads = g.threads ∧
      getBar g' n = { b with arr := b.arr + 1, arrived := if b.all then tid :: b.arrived else b.arrived }) ∧
    (b.arr + 1 = barExp g b → ∃ g', getGroup (arrive s gid n tid) gid = some g' ∧
      getBar g' n = { b with phase := b.phase + 1, arr := 0, arrived := [] }))

/-- R206, R208: SEMI takes a semaphore that is free or the context's own, and sets VALUE and CEIL; another context's gives status
1; a ceiling or a value out of range traps 0x02. R207, R209 to R211, with waiters present or none: SEMS adds its count, and traps 0x0A past the
ceiling; SEMW takes its count where it is the first waiter that VALUE meets, and else waits behind the others; after SEMI and SEMS the service of
the first waiter that VALUE meets, in the order of arrival, is due at once; a count of 0 changes no semaphore; SEMR reads VALUE and CEIL;
SEMW_SERVICE takes the count of the first waiter that VALUE meets and lets it retire. (A service is a step of its own: notes/assumptions 1.) -/
def Obligations.SemaphoreResults : Prop :=
  (∀ s a t (o : OpR), Clear s a t o.g groupOnly [.dx o.d, .sem o.b, .sx o.a, .sx o.c] →
    let v := (readX t o.a.toNat).toNat
    let c := (readX t o.c.toNat).toNat
    let m := getSem (getCore s (envOf s a).coreNo) o.b.toNat
    (c = 0 ∨ c > 65535 ∨ v > c → exec (.semi o) s = .next (trap s a 0x02)) ∧
    (c ≠ 0 → c ≤ 65535 → v ≤ c → m.owner.isSome = true → m.owner ≠ some (envOf s a).ctx →
      exec (.semi o) s = .next (wrote s a [.dx o.d, .sem o.b, .sx o.a, .sx o.c] (writeX t o.d.toNat 1))) ∧
    (c ≠ 0 → c ≤ 65535 → v ≤ c → m.owner = none ∨ m.owner = some (envOf s a).ctx →
      exec (.semi o) s = .next (pokeSem (retired s (modSem s (envOf s a).coreNo o.b.toNat fun m =>
        { m with owner := some (envOf s a).ctx, value := v, ceil := c }) a [.dx o.d, .sem o.b, .sx o.a, .sx o.c]
        (writeX t o.d.toNat 0)) (envOf s a).coreNo o.b.toNat))) ∧
  (∀ s a t (o : OpR), Clear s a t o.g groupOnly [.sem o.b, .sx o.a] →
    let e := envOf s a
    let n := (readX t o.a.toNat).toNat
    let m := getSem (getCore s e.coreNo) o.b.toNat
    (m.owner = some e.ctx → m.value + n > m.ceil → exec (.sems o) s = .next (trap s a 0x0A)) ∧
    (m.owner = some e.ctx → m.value + n ≤ m.ceil → n ≠ 0 → Released s e t (syncScope o.mod) →
      exec (.sems o) s = .next (pokeSem (retired s (modSem s e.coreNo o.b.toNat fun m => { m with value := m.value + n }) a
        [.sem o.b, .sx o.a] t) e.coreNo o.b.toNat)) ∧
    (m.owner ≠ some e.ctx ∨ m.value ≤ m.ceil → n = 0 →
      (Released s e t (syncScope o.mod) → exec (.sems o) s = .next (wrote s a [.sem o.b, .sx o.a] t)) ∧
      exec (.semw o) s = .next (retired s (acquire s e (syncScope o.mod)) a [.sem o.b, .sx o.a] t)) ∧
    (m.owner ≠ some e.ctx → n ≠ 0 → exec (.sems o) s = .next (trap s a 0x0A) ∧ exec (.semw o) s = .next (trap s a 0x02)) ∧
    (m.owner = some e.ctx → n > m.ceil → exec (.semw o) s = .next (trap s a 0x02)) ∧
    (m.owner = some e.ctx → n ≤ m.ceil → n ≠ 0 →
      let w : SemWaiter := { who := .thread a, ctx := e.ctx, count := n }
      let now : Sem := { m with waiters := m.waiters ++ [w] }
      (firstMet now ≠ some w →
        exec (.semw o) s = .next (waitAt (modSem s e.coreNo o.b.toNat fun _ => now) a (.semw o.b.toNat n (syncScope o.mod)))) ∧
      (firstMet now = some w → steps s e = false → ∃ s', exec (.semw o) s = .next s' ∧ RetiresWith s s' a t ∧
        getSem (getCore s' e.coreNo) o.b.toNat = takeCount now w) ∧
      (m.waiters = [] → m.value < n → firstMet now ≠ some w) ∧
      (m.waiters = [] → m.value ≥ n → firstMet now = some w ∧ takeCount now w = { m with value := m.value - n }))) ∧
  (∀ s a t (o : OpR), Clear s a t o.g groupOnly [.dp o.d, .sem o.b] →
    let m := getSem (getCore s (envOf s a).coreNo) o.b.toNat
    exec (.semr o) s = .next (wrote s a [.dp o.d, .sem o.b] (writePair t o.d.toNat
      (if m.owner = some (envOf s a).ctx then BitVec.ofNat 64 (m.value + m.ceil * 2 ^ 32) else 0)))) ∧
  (∀ m : Sem, (∀ w, firstMet m = some w ↔ ∃ l r, m.waiters = l ++ w :: r ∧ (m.owner = some w.ctx ∧ w.count ≤ m.value) ∧
      ∀ x ∈ l, ¬ (m.owner = some x.ctx ∧ x.count ≤ m.value)) ∧
    (∀ w, (takeCount m w).value = m.value - w.count ∧ (takeCount m w).waiters = m.waiters.filter (fun x => x.who != w.who))) ∧
  (∀ s c n, (firstMet (getSem (getCore s c) n) = none → pokeSem s c n = s) ∧
    (∀ w a, firstMet (getSem (getCore s c) n) = some w → w.who = .thread a →
      pokeSem s c n = { s with todo := s.todo ++ [(.semwService, { n1 := c, n2 := n })] }) ∧
    (∀ w q, firstMet (getSem (getCore s c) n) = some w → w.who = .engine q →
      pokeSem s c n = { s with todo := s.todo ++ [(.engineWaitMet, { n1 := c, n2 := q })] })) ∧
  (∀ s w a t k n c, firstMet (getSem (getCore s s.arg.n1) s.arg.n2) = some w → w.who = .thread a →
    getThread s a = some t → t.st = .waiting (.semw k n c) → steps s (envOf s a) = false →
    ∃ s', exec .semwService s = .next s' ∧ RetiresWith s s' a t ∧
      getSem (getCore s' s.arg.n1) s.arg.n2 = takeCount (getSem (getCore s s.arg.n1) s.arg.n2) w)

/-! ## Memory instructions -/

/-- R213, R224, R256: an address with a bit that names no placement traps 0x05, a misaligned one 0x04, in LD and ST, before any
access; LDSC and STSC trap 0x07 outside the scratch range and the group's allocation and 0x04 misaligned. -/
def Obligations.AccessAddressTraps : Prop :=
  (∀ s a t (o : OpM), Clear s a t o.g {} [widthDest o.d (memWidth o), needSelPair (memK o) o.b] →
    let va := (memAddr s (envOf s a) t o).toNat
    let stop (c : Nat) : Host.Outcome State Fault Refusal :=
      .next (passFree (trap s a c 0 va) (envOf s a) [widthDest o.d (memWidth o), needSelPair (memK o) o.b])
    (vaOk va = false → exec (.ld o) s = stop 0x05) ∧
    (vaOk va = true → va % widthBytes (memWidth o) ≠ 0 → exec (.ld o) s = stop 0x04)) ∧
  (∀ s a t (o : OpM), Clear s a t o.g {} [widthSrc o.d (memWidth o), needSelPair (memK o) o.b] →
    let va := (memAddr s (envOf s a) t o).toNat
    let stop (c : Nat) : Host.Outcome State Fault Refusal :=
      .next (passFree (trap s a c 0 va) (envOf s a) [widthSrc o.d (memWidth o), needSelPair (memK o) o.b])
    (vaOk va = false → exec (.st o) s = stop 0x05) ∧
    (vaOk va = true → va % widthBytes (memWidth o) ≠ 0 → exec (.st o) s = stop 0x04)) ∧
  (∀ s a t (o : OpM), Clear s a t o.g { place := .group } [widthDest o.d (memWidth o), needSel (memK o) o.b] →
    let n := widthBytes (memWidth o)
    let x := (scratchAddr s (envOf s a) t o).toNat
    (x ≥ 2 ^ 27 → exec (.ldsc o) s = .next (trap s a 0x07)) ∧
    (x < 2 ^ 27 → x % n ≠ 0 → exec (.ldsc o) s = .next (trap s a 0x04)) ∧
    (x < 2 ^ 27 → x % n = 0 → scratchRank x ≥ ((envOf s a).group s).slices.length ∨
      scratchByte x + n > ((envOf s a).group s).scratchSize → exec (.ldsc o) s = .next (trap s a 0x07))) ∧
  (∀ s a t (o : OpM), Clear s a t o.g { place := .group } [widthSrc o.d (memWidth o), needSel (memK o) o.b] →
    let n := widthBytes (memWidth o)
    let x := (scratchAddr s (envOf s a) t o).toNat
    (x ≥ 2 ^ 27 → exec (.stsc o) s = .next (trap s a 0x07)) ∧
    (x < 2 ^ 27 → x % n ≠ 0 → exec (.stsc o) s = .next (trap s a 0x04)) ∧
    (x < 2 ^ 27 → x % n = 0 → scratchRank x ≥ ((envOf s a).group s).slices.length ∨
      scratchByte x + n > ((envOf s a).group s).scratchSize → exec (.stsc o) s = .next (trap s a 0x07)))

/-- R256, R242: an LD whose checks pass, and whose bytes can be read now, writes them zero- or sign-extended to its destination, with
its acquire; an ST whose checks pass, whose thread has no load under way (R239, R240) and whose release is over retires with its bytes in
the store buffer. That a load reads memory when
it issues, where the agenda does not defer it, is read as in notes/assumptions 12. -/
def Obligations.LoadStoreResults : Prop :=
  (∀ s a t (o : OpM) g s1, Clear s a t o.g {} [widthDest o.d (memWidth o), needSelPair (memK o) o.b] →
    let e := envOf s a
    let acc : Acc := { threadAcc e (memAddr s e t o) (widthBytes (memWidth o)) with l1 := loadL1 s e o }
    (memOrder o = 1 → hasPend s a = false) → vaOk acc.va = true → acc.va % widthBytes (memWidth o) = 0 →
    check s acc = .ok (g, s1) → pendOnLine s a g = false →
    (canDefer s e g (memOrder o == 1) = true → dataFault s1 g = none → exec (.ld o) s =
      .next (passFree (sendPend { s1 with defer := false } e t (loadPend o g acc)) e
        [widthDest o.d (memWidth o), needSelPair (memK o) o.b])) ∧
    (canDefer s e g (memOrder o == 1) = false → ∀ b s2, readBytes s acc { install := loadL1 s e o, nt := memCache o == 2 } = .ok (b, s2) →
    exec (.ld o) s = .next (retired s (if memOrder o = 1 then acquire s2 e o.scope.toNat else s2) a
      [widthDest o.d (memWidth o), needSelPair (memK o) o.b] (writeWidth t o.d.toNat (memWidth o) (ofBytes b))))) ∧
  (∀ s a t (o : OpM) g s1 s2, Clear s a t o.g {} [widthSrc o.d (memWidth o), needSelPair (memK o) o.b] →
    let e := envOf s a
    let va := memAddr s e t o
    vaOk va.toNat = true → va.toNat % widthBytes (memWidth o) = 0 → hasPend s a = false →
    check s { threadAcc e va (widthBytes (memWidth o)) with kind := 1, write := true } = .ok (g, s1) →
    (memOrder o = 2 → Released s1 e t o.scope.toNat) → pushStore s1 e g (storeBytes t o.d.toNat (memWidth o)) (memCache o == 2) = .ok s2 →
    exec (.st o) s = .next (retired s s2 a [widthSrc o.d (memWidth o), needSelPair (memK o) o.b] t))

/-- R239: with room in the store buffer of its core, a store adds one entry, for the bytes of its line that it stores and no others, and
changes only the lines of that core's L1 that hold its line; memory below, every other core, every die and every group are as they were.
R239: the bytes of a store are those that the store buffer lays over its line. That lines are compared by tag and line, an entry keeps
what its check found and bears a fresh identity, and a sextant core has no store buffer, is read as in notes/assumptions 5, 8, 30, 39. -/
def Obligations.StoreEntersBuffer : Prop :=
  (∀ s e (g : Target) bytes nt c s', e.core = some c → (getCore s c).sb.length < 64 → pushStore s e g bytes nt = .ok s' →
    (∃ x, (getCore s' c).sb = (getCore s c).sb ++ [x] ∧ x.tag = g.tag ∧ x.line = g.va / 128 ∧ x.gen = g.gen ∧ x.frame = g.frame ∧
      x.who = e.who ∧ x.mask = maskOf (g.va % 128) bytes.length ∧ x.data = placeBytes (g.va % 128) bytes) ∧
    (∀ l ∈ (getCore s' c).l1, l ∈ (getCore s c).l1 ∨ (l.tag = g.tag ∧ l.line = g.va / 128 ∧ l.gen = g.gen)) ∧
    { getCore s' c with sb := [], l1 := [] } = { getCore s c with sb := [], l1 := [] } ∧
    (∀ k, k ≠ c → getCore s' k = getCore s k) ∧ s'.dies = s.dies ∧ s'.groups = s.groups ∧ s'.dev = s.dev ∧ SameOutside s s') ∧
  (∀ s e (g : Target) bytes nt c s' (l : Line), e.core = some c → (getCore s c).sb.length < 64 → g.va % 128 + bytes.length ≤ 128 →
    pushStore s e g bytes nt = .ok s' → lineBytes (overlay l (sbLine s' (some c) g)) (g.va % 128) bytes.length = bytes)

/-- R145, R256: LDSC reads the bytes of the group's scratch, and STSC writes its bytes there and no others, with the order each
asks. -/
def Obligations.ScratchResults : Prop :=
  (∀ s a t (o : OpM), Clear s a t o.g { place := .group } [widthDest o.d (memWidth o), needSel (memK o) o.b] →
    let n := widthBytes (memWidth o)
    let x := (scratchAddr s (envOf s a) t o).toNat
    scratchFault ((envOf s a).group s) x n n = none → scratchBad ((envOf s a).group s) x n = false → (memOrder o = 1 → hasPend s a = false) →
    exec (.ldsc o) s = .next (retired s (if memOrder o = 1 then acquire s (envOf s a) o.scope.toNat else s) a [widthDest o.d (memWidth o), needSel (memK o) o.b]
      (writeWidth t o.d.toNat (memWidth o) (ofBytes (scratchRead ((envOf s a).group s) x n))))) ∧
  (∀ s a t (o : OpM), Clear s a t o.g { place := .group } [widthSrc o.d (memWidth o), needSel (memK o) o.b] →
    let n := widthBytes (memWidth o)
    let x := (scratchAddr s (envOf s a) t o).toNat
    scratchFault ((envOf s a).group s) x n n = none → hasPend s a = false →
    (memOrder o = 2 → Released s (envOf s a) t o.scope.toNat) →
    exec (.stsc o) s = .next (retired s (modGroup s (envOf s a).gid fun g => scratchWrite g x (storeBytes t o.d.toNat (memWidth o))) a
      [widthSrc o.d (memWidth o), needSel (memK o) o.b] t)) ∧
  (∀ (g : Group) x (l : List Byte) k, SMap.get (scratchWrite g x l).scratch k 0 =
    if x ≤ k ∧ k < x + l.length then nthD l (k - x) 0 else SMap.get g.scratch k 0)

/-- R261, R263: an atomic on scratch whose checks pass, and one on global memory whose checks pass and whose home can be reached now,
read the old value and write the new one in one step, after their release and with their acquire; ATOM returns the old value, RED
nothing; the core's L1 line goes. R262: the new value of each operation at each of its widths; CAS writes nothing where the old value
differs, and RED has neither CAS nor EXCH. That an atomic acts when it issues, where the agenda does not defer it, after the loads of its
thread, which lines it compares, and that it takes one token, are read as in notes/assumptions 12, 39, 53. -/
def Obligations.AtomicResults : Prop :=
  (∀ s a t (o : OpA), atomScratch o = true → hasPend s a = false → (atomRel o = true → Released s (envOf s a) t o.scope.toNat) →
    let e := envOf s a
    let x := (readX t o.a.toNat).toNat
    let g := e.group s
    let old := scratchRead g x (atomBytes o)
    let s' := match atomicBytes o.op (atomBytes o) (wideRead t (atomWide o) o.b) (wideRead t (atomWide o) o.c) old with
      | some new => modGroup s e.gid fun g => scratchWrite g x new
      | none => s
    let s'' := if atomAcq o then acquire s' e o.scope.toNat else s'
    scratchFault g x (atomBytes o) (atomBytes o) = none → scratchBad g x (atomBytes o) = false →
    (Clear s a t o.g (atomPolicy o) (atomNeeds o false) →
      exec (.atom o) s = .next (retired s s'' a (atomNeeds o false) (wideWrite t (atomWide o) o.d (ofBytes old)))) ∧
    (Clear s a t o.g (atomPolicy o) (atomNeeds o true) → exec (.red_ o) s = .next (retired s s'' a (atomNeeds o true) t))) ∧
  (∀ s a t (o : OpA) g s1 s2 old s3 red, atomScratch o = false → hasPend s a = false →
    let e := envOf s a
    let va := readPair t o.a.toNat
    vaOk va.toNat = true → va.toNat % atomBytes o = 0 →
    check s { threadAcc e va (atomBytes o) with kind := 3, write := true, plain := true, l1 := false } = .ok (g, s1) →
    atomFault s1 o red g = none →
    (atomRel o = true → Released s1 e t o.scope.toNat) → flushTarget s1 e g = some s2 →
    goesOut s2 e g (atomAcq o) = false →
    homeUpdate s2 (.agent a) a e.ctx true g (atomBytes o)
      (atomicBytes o.op (atomBytes o) (wideRead t (atomWide o) o.b) (wideRead t (atomWide o) o.c)) true (e.group s2).launch = .ok (old, s3) →
    Clear s a t o.g (atomPolicy o) (atomNeeds o red) →
    let s4 := dropL1Line s3 e.core g.tag (g.va / 128) g.frame
    exec (if red then .red_ o else .atom o) s = .next (retired s (if atomAcq o then acquire s4 e o.scope.toNat else s4) a (atomNeeds o red)
      (if red then t else wideWrite t (atomWide o) o.d (ofBytes old)))) ∧
  (∀ (old b c : Word), atomicNew .add 32 old.toNat b.toNat c.toNat = some (old + b).toNat ∧
    atomicNew .min 32 old.toNat b.toNat c.toNat = some (if b.toInt < old.toInt then b else old).toNat ∧
    atomicNew .max 32 old.toNat b.toNat c.toNat = some (if old.toInt < b.toInt then b else old).toNat ∧
    atomicNew .umin 32 old.toNat b.toNat c.toNat = some (min old.toNat b.toNat) ∧
    atomicNew .umax 32 old.toNat b.toNat c.toNat = some (max old.toNat b.toNat) ∧
    atomicNew .and 32 old.toNat b.toNat c.toNat = some (old &&& b).toNat ∧
    atomicNew .or 32 old.toNat b.toNat c.toNat = some (old ||| b).toNat ∧
    atomicNew .xor 32 old.toNat b.toNat c.toNat = some (old ^^^ b).toNat ∧
    atomicNew .exch 32 old.toNat b.toNat c.toNat = some b.toNat ∧
    atomicNew .cas 32 old.toNat b.toNat c.toNat = (if old = b then some c.toNat else none) ∧
    atomicNew .incw 32 old.toNat b.toNat c.toNat = some (if b.toNat ≤ old.toNat then 0 else old.toNat + 1)) ∧
  (∀ (old b c : Word),
    atomicNew .fadd 32 old.toNat b.toNat c.toNat = some (roundF ((f32 old).add (f32 b) .rne) .fp32 .rne) ∧
    ((f32 old).isNan ∨ (f32 b).isNan → atomicNew .fadd 32 old.toNat b.toNat c.toNat = some 0x7FC00000) ∧
    atomicNew .fmax 32 old.toNat b.toNat c.toNat = some (maxNum old.toNat b.toNat .fp32)) ∧
  (∀ (old b c : DWord), atomicNew .add 64 old.toNat b.toNat c.toNat = some (old + b).toNat ∧
    atomicNew .min 64 old.toNat b.toNat c.toNat = some (if b.toInt < old.toInt then b else old).toNat ∧
    atomicNew .max 64 old.toNat b.toNat c.toNat = some (if old.toInt < b.toInt then b else old).toNat ∧
    atomicNew .umin 64 old.toNat b.toNat c.toNat = some (min old.toNat b.toNat) ∧
    atomicNew .umax 64 old.toNat b.toNat c.toNat = some (max old.toNat b.toNat) ∧
    atomicNew .and 64 old.toNat b.toNat c.toNat = some (old &&& b).toNat ∧
    atomicNew .or 64 old.toNat b.toNat c.toNat = some (old ||| b).toNat ∧
    atomicNew .xor 64 old.toNat b.toNat c.toNat = some (old ^^^ b).toNat ∧
    atomicNew .exch 64 old.toNat b.toNat c.toNat = some b.toNat ∧
    atomicNew .cas 64 old.toNat b.toNat c.toNat = (if old = b then some c.toNat else none)) ∧
  (∀ o : OpA, ((Instr.atom o).WellFormed ∨ (Instr.red_ o).WellFormed →
      modField o.mod 0 3 = 2 ∨ (modField o.mod 0 3 = 3 ∧ o.op ≠ .fadd ∧ o.op ≠ .fmax ∧ o.op ≠ .incw)) ∧
    ((Instr.red_ o).WellFormed → o.op ≠ .exch ∧ o.op ≠ .cas))

/-- R249, R264 to R267: FENCE retires once its release is done, with its acquire; FPROM of a victim with no access outstanding gives
status 0 and of a halted one 1, whose frozen stores it does not wait for, and a victim past 639 traps 0x02; CINV drops the core's lines of
its range; CWB at die scope retires when no older entry of its range is left in the core's store buffer, and at system scope once the
dirty bytes of every home L2 line of the range are written back too, those lines kept. Each range is checked first; with length 0 its pair
is not read. FPROM_RECEIPT drains the victim and wakes the thread. That these words wait for their thread's loads, and which lines a range
names, are read as in notes/assumptions 12, 48; what a halted core has still to freeze, as in 77. R241: an acquire at die scope or wider
leaves in the core's L1 no line of a tag relevant to the thread, and changes nothing else but what fills under way will install; at a
narrower scope it changes nothing. -/
def Obligations.FenceResults : Prop :=
  (∀ s a t (o : OpS), Clear s a t o.g {} [] → hasPend s a = false → Released s (envOf s a) t o.scope.toNat →
    (modField o.mod 5 2 = 2 → exec (.fence o) s = .next (wrote s a [] t)) ∧
    (modField o.mod 5 2 ≠ 2 → exec (.fence o) s = .next (retired s (acquire s (envOf s a) o.scope.toNat) a [] t))) ∧
  (∀ s a t (o : OpS), Clear s a t o.g {} [.dx o.d, .sx o.a] →
    let v := (readX t o.a.toNat).toNat
    (v > 639 → exec (.fprom o) s = .next (trap s a 0x02)) ∧
    (v ≤ 639 → hasPend s a = false → Released s (envOf s a) t 4 →
      (receiptDue s v = true →
      exec (.fprom o) s = .next (retired s (acquire (receipt s (envOf s a) v) (envOf s a) 4) a [.dx o.d, .sx o.a]
        (writeX t o.d.toNat (if (getCore s v).halted then 1 else 0)))))) ∧
  (∀ s a t (o : OpS), Clear s a t o.g {} [.np o.a, .sx o.b] →
    (readX t o.b.toNat ≠ 0 → needsAwait [.sp o.a] t = false ∧ needsBad [.sp o.a] t = false) →
    let va := (readPair t o.a.toNat).toNat
    let n := (readX t o.b.toNat).toNat
    (∀ c, rangeFault va n = some c → exec (.cinv o) s = .next (trap s a c 0 va) ∧ exec (.cwb o) s = .next (trap s a c 0 va)) ∧
    (rangeFault va n = none → ∀ c, (envOf s a).core = some c → exec (.cinv o) s =
      .next (retired s (dropL1 s c fun tag line => tagRelevant s (envOf s a) tag && inRange va n line) a [.np o.a, .sx o.b] t)) ∧
    (rangeFault va n = none → o.scope.toNat ≠ 5 → ∀ c, (envOf s a).core = some c →
      ((getCore s c).sb.any fun x => tagRelevant s (envOf s a) x.tag && inRange va n x.line) = false →
      exec (.cwb o) s = .next (wrote s a [.np o.a, .sx o.b] t)) ∧
    (rangeFault va n = none → o.scope.toNat = 5 →
      (∀ c, (envOf s a).core = some c → ∀ x ∈ (getCore s c).sb, (tagRelevant s (envOf s a) x.tag && inRange va n x.line) = false) →
      let s1 := cleanL2 s fun x => tagRelevant s (envOf s a) x.tag && inRange va n x.line
      (anyPosted s1 (fun tag line => tagRelevant s (envOf s a) tag && inRange va n line) = false →
        exec (.cwb o) s = .next (retired s s1 a [.np o.a, .sx o.b] t)) ∧
      (anyPosted s1 (fun tag line => tagRelevant s (envOf s a) tag && inRange va n line) = true →
        exec (.cwb o) s = .next (setThread s1 a { t with st := .waiting (.shutter 1024 0), relBound := some (t.relBound.getD s.uid) })))) ∧
  (∀ s f d, d < 16 → (getDie (cleanL2 s f) d).l2 = (getDie s d).l2.map fun c => if f c then { c with dirty := 0 } else c) ∧
  (∀ s d (c : CLine) i, MemOk s → admits s (paStack c.pa) d = true → heldTurn s s.uid (paStack c.pa) d (c.pa / 128) = true →
    (getCtx s c.ctx).rate = 0 → (getDie s (getStack s (paStack c.pa)).owner).tokq = [] → i < 128 →
    memByte (writeBack s d c) (c.pa + i) = if c.dirty.getLsbD i then lineByte c.data i else memByte s (c.pa + i)) ∧
  (∀ s a t (o : OpS), Clear s a t o.g {} [.np o.a, .sx o.b] → readX t o.b.toNat ≠ 0 → needsAwait [.sp o.a] t = false →
    needsBad [.sp o.a] t = true → exec (.cinv o) s = .next (trap s a 0x08) ∧ exec (.cwb o) s = .next (trap s a 0x08)) ∧
  (∀ s t v, getThread s s.arg.who = some t → t.st = .waiting (.fprom v) →
    let s' := drainAll s v
    exec .fpromReceipt s = .next (if receiptDue s' v then wake s' s.arg.who else s')) ∧
  (∀ s v, receiptDue s v = true ↔ (∀ p ∈ s.pends, p.core = v → p.drop = true ∨ p.host = true) ∧
    (((getCore s v).halted = true ∧ (getCore s v).freezing = false) ∨ (getCore s v).sb = [])) ∧
  (∀ s v, retiredDone s v = true ↔ (getCore s v).sb = [] ∧ ∀ p ∈ s.pends, p.core = v → p.drop = true ∨ p.host = true) ∧
  (∀ va n, rangeFault va n = none → n % 128 = 0 ∧ (n = 0 ∨ (va % 128 = 0 ∧ vaOk va = true ∧ vaOfs va + n ≤ 2 ^ 50))) ∧
  (∀ s e scope,
    (wideScope s e scope = false → acquire s e scope = s) ∧
    (∀ c, wideScope s e scope = true → e.core = some c →
      (∀ l ∈ (getCore (acquire s e scope) c).l1, tagRelevant s e l.tag = false ∧ l ∈ (getCore s c).l1) ∧
      { getCore (acquire s e scope) c with l1 := [] } = { getCore s c with l1 := [] } ∧
      (∀ k, k ≠ c → getCore (acquire s e scope) k = getCore s k) ∧
      (acquire s e scope).dies = s.dies ∧ (acquire s e scope).groups = s.groups ∧ (acquire s e scope).mem = s.mem))

/-- R268 to R270: a bank operation at an address of a bank whose checks pass updates the 32 words of the line in one step from 128 bytes
of scratch, word by word; BKRED returns the fold of the line's words, by the operations of R203 or of magnitudes; an address of no bank
traps 0x05 and a misaligned one 0x04, in each of the six words. That it acts when it issues, where the agenda does not defer it, after the loads of its thread, and that a fold is rounded
as its entry says, are read as in notes/assumptions 12, 51. -/
def Obligations.BankResults : Prop :=
  (∀ s a t (o : OpS) (f : Word → Word → Word) (i : Instr) g s1 s2 old s3,
    (i = .bkvaddf o ∧ f = foldOp 8) ∨ (i = .bkvaddi o ∧ f = fun w v => w + v) ∨ (i = .bkvmaxf o ∧ f = foldOp 10) ∨
      (i = .bkvmaxa o ∧ f = fun w v => foldOp 10 w (v &&& 0x7FFFFFFF)) ∨
      (i = .bkvaddh o ∧ f = half2 (if o.mod.getLsbD 0 then .bf16 else .fp16) fun x y => x.add y .rne) →
    Clear s a t o.g { place := .group } [.sp o.a, .sx o.b] → hasPend s a = false →
    let e := envOf s a
    let va := readPair t o.a.toNat
    let off := (readX t o.b.toNat).toNat
    bankFault va.toNat = none → bankSourceFault (e.group s) off = none → check s (bankAcc e va true) = .ok (g, s1) →
    scratchBad (e.group s) off 128 = false → Released s1 e t o.scope.toNat → flushTarget s1 e g = some s2 →
    let left (s : State) : State := dropL1Line s e.core g.tag (g.va / 128) g.frame
    let s2 := left s2
    goesOut s2 e g false = false →
    (poisoned s2 g.pa 128 = true → exec i s = .next (retired s (left s2) a [.sp o.a, .sx o.b] t)) ∧
    (poisoned s2 g.pa 128 = false → homeUpdate s2 (.agent a) a e.ctx true g 128
      (fun old => some (bankWords f old (scratchRead (e.group s) off 128))) true (e.group s2).launch = .ok (old, s3) →
    exec i s = .next (retired s (left s3) a [.sp o.a, .sx o.b] t))) ∧
  (∀ s a t (o : OpS) g s1 s2 old s3, Clear s a t o.g { place := .compute } [.dx o.d, .sp o.a] → hasPend s a = false →
    let e := envOf s a
    let va := readPair t o.a.toNat
    bankFault va.toNat = none → check s (bankAcc e va false) = .ok (g, s1) → dataFault s1 g = none →
    flushTarget s1 e g = some s2 →
    let left (s : State) : State := dropL1Line s e.core g.tag (g.va / 128) g.frame
    let s2 := left s2
    goesOut s2 e g (o.scope.toNat != 0) = false →
    homeUpdate s2 (.agent a) a e.ctx true g 128 (fun _ => none) = .ok (old, s3) →
    exec (.bkred o) s = .next (retired s (if o.scope.toNat = 0 then left s3 else acquire (left s3) e o.scope.toNat) a [.dx o.d, .sp o.a]
      (writeX t o.d.toNat (bankFold (modField o.mod 0 4) (wordsOf old))))) ∧
  (∀ code x (l : List Word), (code ≤ 10 → bankFold code (x :: l) = l.foldl (foldOp code) x) ∧
    bankFold 11 (x :: l) = (l.map (· &&& 0x7FFFFFFF)).foldl (foldOp 10) (x &&& 0x7FFFFFFF)) ∧
  (∀ s a t (o : OpS) c, bankFault (readPair t o.a.toNat).toNat = some c →
    (Clear s a t o.g { place := .group } [.sp o.a, .sx o.b] →
      ∀ i ∈ [Instr.bkvaddf o, .bkvaddi o, .bkvmaxf o, .bkvmaxa o, .bkvaddh o], exec i s = .next (trap s a c 0 (readPair t o.a.toNat).toNat)) ∧
    (Clear s a t o.g { place := .compute } [.dx o.d, .sp o.a] → exec (.bkred o) s = .next (trap s a c 0 (readPair t o.a.toNat).toNat))) ∧
  (∀ va, (vaOk va = false → bankFault va = some 0x05) ∧ (vaOk va = true → vaPlc va < 16 ∨ vaPlc va > 31 → bankFault va = some 0x05) ∧
    (vaOk va = true → 16 ≤ vaPlc va → vaPlc va ≤ 31 → bankFault va = if va % 128 = 0 then none else some 0x04)) ∧
  (∀ (f : Word → Word → Word) (old src : List Byte) i, i < 32 → old.length = 128 → src.length = 128 →
    BitVec.ofNat 32 (ofBytes (sliceBytes (bankWords f old src) (4 * i) 4)) =
      f (BitVec.ofNat 32 (ofBytes (sliceBytes old (4 * i) 4))) (BitVec.ofNat 32 (ofBytes (sliceBytes src (4 * i) 4))))

/-- R274 to R277: SHARM traps on a malformed range, gives status 2 without the write right or over an armed window, 3 for a page that may not be
armed, 1 with no free window, and else arms the lowest free window with g = 0, every other window as it was, and no line of the range left in any L1
or L2; SHPUB and SHDROP of a FREE window give 1, of an ARMED one without the right 2, and else begin a commit 512 ticks on; one of a window whose
commit is under way waits behind it; SHSTAT reads g and the state. -/
def Obligations.ShutterInstructions : Prop :=
  (∀ s a t (o : OpR), Clear s a t o.g { place := .compute } [.dp o.d, .sp o.a, .sx o.b] →
    let e := envOf s a
    let base := (readPair t o.a.toNat).toNat
    let n := (readX t o.b.toNat).toNat
    let sp := spaceOf s e.ctx base
    let done (st w : Nat) (s' : State) : Host.Outcome State Fault Refusal :=
      .next (retired s s' a [.dp o.d, .sp o.a, .sx o.b] (writePair t o.d.toNat (BitVec.ofNat 64 (st + 2 ^ 32 * w))))
    (∀ c, sharmFault base n = some c → exec (.sharm o) s = .next (trap s a c 0 base)) ∧
    (sharmFault base n = none → Released s e t 4 →
      (writeRight s e.ctx sp.tag = false ∨ overlaps s sp.tag base n = true → exec (.sharm o) s = done 2 0xFFFFFFFF s) ∧
      (writeRight s e.ctx sp.tag = true → overlaps s sp.tag base n = false → pagesArm s sp e base n = .ok false →
        exec (.sharm o) s = done 3 0xFFFFFFFF s) ∧
      (writeRight s e.ctx sp.tag = true → overlaps s sp.tag base n = false → pagesArm s sp e base n = .ok true →
        (freeWin s = none → exec (.sharm o) s = done 1 0xFFFFFFFF s) ∧
        (∀ w s1, freeWin s = some w → s1 = drainWhere s (fun x => lineIn sp.tag base (65536 * n) x.tag x.line) →
          anyBuffered s1 (fun x => lineIn sp.tag base (65536 * n) x.tag x.line) = false →
          ∃ s2, exec (.sharm o) s = done 0 w s2 ∧ getWin s2 w = { state := .armed, tag := sp.tag, base := base, n := n } ∧
            (∀ k, k ≠ w → getWin s2 k = getWin s k) ∧
            (∀ c, ∀ x ∈ (getCore s2 c).l1, lineIn sp.tag base (65536 * n) x.tag x.line = false) ∧
            (∀ d, ∀ x ∈ (getDie s2 d).l2, lineIn sp.tag base (65536 * n) x.tag x.line = false))))) ∧
  (∀ s a t (o : OpR), Clear s a t o.g { place := .compute } [.dx o.d, .sx o.a] →
    let n := (readX t o.a.toNat).toNat
    let e := envOf s a
    (n > 1023 → exec (.shpub o) s = .next (trap s a 0x02) ∧ exec (.shdrop o) s = .next (trap s a 0x02)) ∧
    (n ≤ 1023 → (getWin s n).state = .free → exec (.shpub o) s = .next (wrote s a [.dx o.d, .sx o.a] (writeX t o.d.toNat 1)) ∧
      exec (.shdrop o) s = .next (wrote s a [.dx o.d, .sx o.a] (writeX t o.d.toNat 1))) ∧
    (n ≤ 1023 → (getWin s n).state = .armed → writeRight s e.ctx (getWin s n).tag = false →
      exec (.shpub o) s = .next (wrote s a [.dx o.d, .sx o.a] (writeX t o.d.toNat 2)) ∧
      exec (.shdrop o) s = .next (wrote s a [.dx o.d, .sx o.a] (writeX t o.d.toNat 2))) ∧
    (n ≤ 1023 → (getWin s n).state = .publishing ∨ (getWin s n).state = .dropping →
      let s1 := setThread (setWin s n { getWin s n with queue := (getWin s n).queue ++ [a] }) a { t with st := .waiting (.shutter n o.d.toNat) }
      exec (.shpub o) s = .next s1 ∧ exec (.shdrop o) s = .next s1) ∧
    (n ≤ 1023 → (getWin s n).state = .armed → writeRight s e.ctx (getWin s n).tag = true →
      Released s e t 4 →
      exec (.shpub o) s = .next (beginCommit s e t n o.d.toNat .publishing) ∧
      exec (.shdrop o) s = .next (beginCommit s e t n o.d.toNat .dropping))) ∧
  (∀ s e t n d st, getWin (beginCommit s e t n d st) n =
    { getWin s n with state := st, tick := s.dev.tick + 512, issuer := some e.who }) ∧
  (∀ s a t (o : OpR), Clear s a t o.g { place := .compute } [.dp o.d, .sx o.a] →
    (o.mod.getLsbD 0 = true → hasPend s a = false) → (readX t o.a.toNat).toNat ≤ 1023 →
    let w := getWin s (readX t o.a.toNat).toNat
    exec (.shstat o) s = .next (retired s (if o.mod.getLsbD 0 then acquire s (envOf s a) 4 else s) a [.dp o.d, .sx o.a] (writePair t o.d.toNat (BitVec.ofNat 64
      (if tagRelevant s (envOf s a) w.tag then
        w.g.toNat + (match w.state with | .free => 0 | .armed => 1 | .publishing => 2 | .dropping => 3) * 2 ^ 32 else 0)))))

/-! ## Engines, tiles, images and rays -/

/-- R129: ENQ of a slot that the thread's context owns, whose patched template passes R127's checks, at a queue that is not full
is accepted: ACC rises by one, the entry joins the queue, and the pair x[D] receives the sequence number and status 0; a slot of
another context traps 0x0B; a patch that is only kept gives status 2; a full queue gives ENQ.try status 1 and makes ENQ wait.
R113, R117: an entry that joins a queue that is not IDLE raises ACC by one, stands behind the entries held, and changes no other
queue of the core. -/
def Obligations.EnqueueResults : Prop :=
  (∀ s a t (o : OpE), Clear s a t o.g { place := .group, lim := notEngine o } [.dp o.d, .sx o.b] →
    let e := envOf s a
    let pw := (readX t o.b.toNat).toNat
    let q := o.q.toNat
    let v := getTemplate (getCore s e.coreNo) q (field pw 26 6)
    let tpl := tplPatch v.words (field pw 22 4) (field pw 0 16)
    let kept := if bit pw 21 then setTemplate s e.coreNo q (field pw 26 6) { v with words := tpl } else s
    field pw 16 4 = 0 → (bit pw 20 = true → bit pw 21 = true) →
    (v.owner ≠ some e.ctx → exec (.enq o) s = .next (trap s a 0x0B)) ∧
    (v.owner = some e.ctx → bit pw 20 = true →
      exec (.enq o) s = .next (retired s kept a [.dp o.d, .sx o.b] (writePair t o.d.toNat (BitVec.ofNat 64 (2 ^ 32 * 2))))) ∧
    (v.owner = some e.ctx → bit pw 20 = false → templateFault s e q tpl = none → queueFull s e.coreNo q = true →
      exec (.enq o) s = .next (if o.mod.getLsbD 0
        then retired s s a [.dp o.d, .sx o.b] (writePair t o.d.toNat (BitVec.ofNat 64 (2 ^ 32)))
        else setThread s a { t with st := .waiting (.enq q o.d (readX t o.b.toNat)) })) ∧
    (v.owner = some e.ctx → bit pw 20 = false → templateFault s e q tpl = none → queueFull s e.coreNo q = false →
      exec (.enq o) s = .next (retired s (acceptEntry kept e.coreNo q (entryOf s e q (field pw 26 6) tpl v.bad)).2 a [.dp o.d, .sx o.b]
        (writePair t o.d.toNat (((getQueue (getCore s e.coreNo) q).acc + 1).zeroExtend 64))))) ∧
  (∀ s c q (x : Entry), (getQueue (getCore s c) q).st ≠ .idle →
    let s' := (acceptEntry s c q x).2
    (acceptEntry s c q x).1 = (getQueue (getCore s c) q).acc + 1 ∧
    (getQueue (getCore s' c) q).acc = (getQueue (getCore s c) q).acc + 1 ∧
    (getQueue (getCore s' c) q).entries = (getQueue (getCore s c) q).entries ++ [x] ∧
    (getQueue (getCore s' c) q).ret = (getQueue (getCore s c) q).ret ∧
    (∀ p, p ≠ q → getQueue (getCore s' c) p = getQueue (getCore s c) p) ∧ SameOutside s s')

/-- R130 to R133: TPLW fills a template slot from memory for its context; QSTAT reads the queue's registers or a pending queue's
length; QWAIT gives its status or waits; QPUSH appends one of at most 64 items and QPOP takes the oldest. -/
def Obligations.QueueInstructions : Prop :=
  (∀ s a t (o : OpE) b s', Clear s a t o.g { place := .group, lim := notEngine o } [.sp o.a, .sx o.b] →
    (readX t o.b.toNat).toNat ≤ 63 → (readPair t o.a.toNat).toNat % 32 = 0 → hasPend s a = false →
    readRange s (threadAcc (envOf s a) (readPair t o.a.toNat) 32) {} = .ok (b, s') →
    exec (.tplw o) s = .next (retired s (setTemplate s' (envOf s a).coreNo o.q.toNat (readX t o.b.toNat).toNat
      { words := BitVec.ofNat 256 (ofBytes b), owner := some (envOf s a).ctx }) a [.sp o.a, .sx o.b] t)) ∧
  (∀ s a t (o : OpE), Executes s a t → (envOf s a).inGroup = true → guardHolds o.g t = true → needsAwait [.dp o.d] t = false →
    (Need.dp o.d).ok (envOf s a) = true → o.q.toNat ≤ 3 ∨ (16 ≤ o.q.toNat ∧ o.q.toNat ≤ 19 ∧ modField o.mod 0 2 = 0) →
    let k := getQueue (getCore s (envOf s a).coreNo) o.q.toNat
    exec (.qstat o) s = .next (wrote s a [.dp o.d] (writePair t o.d.toNat (BitVec.ofNat 64 (
      if o.q.toNat ≥ 16 then (pendItems s (envOf s a) o.q.toNat).length + 64 * 2 ^ 32
      else match modField o.mod 0 2 with
        | 0 => k.ret.toNat + 2 ^ 32 * readQctl k
        | 1 => readQflt k
        | _ => readQfva k))))) ∧
  (∀ s a t (o : OpE), Clear s a t o.g { place := .group, lim := notEngine o } [.dx o.d, .sx o.b] →
    let k := getQueue (getCore s (envOf s a).coreNo) o.q.toNat
    let n := readX t o.b.toNat
    exec (.qwait o) s = .next (match queueTest k n with
      | some st => retired s (if st = 0 then acquire s (envOf s a) 4 else s) a [.dx o.d, .sx o.b] (writeX t o.d.toNat st)
      | none => waitAt s a (.qwait o.q.toNat n.toNat))) ∧
  (∀ s a t (o : OpE), Clear s a t o.g { place := .group, lim := notPending o } [.dx o.d, .sx o.b] →
    let l := pendItems s (envOf s a) o.q.toNat
    (l.length ≥ 64 → exec (.qpush o) s = .next (wrote s a [.dx o.d, .sx o.b] (writeX t o.d.toNat 1))) ∧
    (l.length < 64 → exec (.qpush o) s = .next (retired s (setItems s (envOf s a) o.q.toNat (l ++ [readX t o.b.toNat])) a
      [.dx o.d, .sx o.b] (writeX t o.d.toNat 0)))) ∧
  (∀ s a t (o : OpE), Clear s a t o.g { place := .group, lim := notPending o } [.dp o.d] →
    (pendItems s (envOf s a) o.q.toNat = [] →
      exec (.qpop o) s = .next (wrote s a [.dp o.d] (writePair t o.d.toNat (BitVec.ofNat 64 (2 ^ 32))))) ∧
    (∀ v r, pendItems s (envOf s a) o.q.toNat = v :: r →
      exec (.qpop o) s = .next (retired s (setItems s (envOf s a) o.q.toNat r) a [.dp o.d]
        (writePair t o.d.toNat (v.zeroExtend 64))))) ∧
  (∀ (t : BitVec 256) h v i, h < 16 → i < 256 →
    (tplPatch t h v).getLsbD i = if 16 * h ≤ i ∧ i < 16 * h + 16 then v.testBit (i - 16 * h) else t.getLsbD i)

/-- R279 to R281, R292: TCFG gives a free or own tile its control word and owner, another context's gives status 1, a word with
reserved bits traps 0x02 and no shape 0x0E; TCFGR reads it back; TZERO clears the bytes; TGET and TSET read and write bytes of a
usable tile within its 4096, aligned, and trap 0x0E, 0x02 and 0x04 in that order. -/
def Obligations.TileInstructions : Prop :=
  (∀ s a t (o : OpR), Clear s a t o.g { place := .compute } [.dx o.d, .tile o.a, .sx o.b] →
    let e := envOf s a
    let v := (readX t o.b.toNat).toNat
    let w := tileOf s e o.a
    (v ≥ 2 ^ 17 → exec (.tcfg o) s = .next (trap s a 0x02)) ∧
    (v < 2 ^ 17 → tcOk v = false → exec (.tcfg o) s = .next (trap s a 0x0E)) ∧
    (v < 2 ^ 17 → tcOk v = true → w.owner.isSome = true → w.owner ≠ some e.ctx →
      exec (.tcfg o) s = .next (wrote s a [.dx o.d, .tile o.a, .sx o.b] (writeX t o.d.toNat 1))) ∧
    (v < 2 ^ 17 → tcOk v = true → w.owner = none ∨ w.owner = some e.ctx →
      exec (.tcfg o) s = .next (retired s (modTile s e.coreNo o.a.toNat fun w => { w with tc := v, owner := some e.ctx, lmask := 0 }) a
        [.dx o.d, .tile o.a, .sx o.b] (writeX t o.d.toNat 0)))) ∧
  (∀ s a t (o : OpR), Clear s a t o.g { place := .compute } [.dx o.d, .tile o.a] →
    exec (.tcfgr o) s = .next (wrote s a [.dx o.d, .tile o.a]
      (writeX t o.d.toNat (BitVec.ofNat 32 (tcfgrWord (tileOf s (envOf s a) o.a) (envOf s a).ctx))))) ∧
  (∀ s a t (o : OpR), Clear s a t o.g { place := .compute } [.tile o.d] →
    exec (.tzero o) s = .next (if (tileOf s (envOf s a) o.d).owner = some (envOf s a).ctx
      then retired s (modTile s (envOf s a).coreNo o.d.toNat fun w => { w with data := 0, bad := [], lmask := 0 }) a [.tile o.d] t
      else trap s a 0x0E)) ∧
  (∀ s a t (o : OpR), let needs : List Need := [if tgetWide o then .dp o.d else .dx o.d, .tile o.a, .sx o.b]
    Clear s a t o.g { place := .compute } needs →
    let i := (readX t o.b.toNat).toNat
    let w := tileOf s (envOf s a) o.a
    (∀ c, tgetFault s (envOf s a) o.a i (tgetBytes o) = some c → exec (.tget o) s = .next (trap s a c)) ∧
    (tgetFault s (envOf s a) o.a i (tgetBytes o) = none → tileBad w i (tgetBytes o) = false →
      exec (.tget o) s = .next (wrote s a needs (if tgetWide o then writePair t o.d.toNat (w.data.extractLsb' (8 * i) 64)
        else writeX t o.d.toNat (w.data.extractLsb' (8 * i) 32))))) ∧
  (∀ s a t (o : OpR), let needs : List Need := [.tile o.d, if tgetWide o then .sp o.a else .sx o.a, .sx o.b]
    Clear s a t o.g { place := .compute } needs →
    let i := (readX t o.b.toNat).toNat
    (∀ c, tgetFault s (envOf s a) o.d i (tgetBytes o) = some c → exec (.tset o) s = .next (trap s a c)) ∧
    (tgetFault s (envOf s a) o.d i (tgetBytes o) = none →
      exec (.tset o) s = .next (retired s (modTile s (envOf s a).coreNo o.d.toNat fun w => clearLmask (tilePut w i
        (if tgetWide o then toBytes (readPair t o.a.toNat).toNat 8 else toBytes (readX t o.a.toNat).toNat 4))) a needs t))) ∧
  (∀ s e n i k, (tgetFault s e n i k = none ↔ (tileOf s e n).owner = some e.ctx ∧ i + k ≤ 4096 ∧ i % k = 0) ∧
    ((tileOf s e n).owner ≠ some e.ctx → tgetFault s e n i k = some 0x0E) ∧
    ((tileOf s e n).owner = some e.ctx → 4096 < i + k → tgetFault s e n i k = some 0x02) ∧
    ((tileOf s e n).owner = some e.ctx → i + k ≤ 4096 → i % k ≠ 0 → tgetFault s e n i k = some 0x04)) ∧
  (∀ (w : Tile) i (l : List Byte) j, i + l.length ≤ 4096 → j < 4096 → (tilePut w i l).data.extractLsb' (8 * j) 8 =
    if i ≤ j ∧ j < i + l.length then nthD l (j - i) 0 else w.data.extractLsb' (8 * j) 8)

/-- R281, R287: TMMA, TADD and TCVT whose tiles are ready enter q1 as an entry with the captured control words and retire; tiles
that are not ready trap 0x0E, and a full q1 makes the thread wait with its words; a combination the entry does not accept traps
0x02; the retry at a q1 with room goes on. R288: a K-block of TMMA adds to each word of TD the exact sum of its 32 products, each an
element of TA times one of TB times their scales, rounded once, or for INT32 the exact integer modulo 2^32. R289, R290: each element of a
row of TADD and TCVT, with the scale bytes a TCVT derives. (The exact sums are read as in notes/assumptions 51.) -/
def Obligations.MatrixInstructions : Prop :=
  (∀ s a t (o : OpT) (op : Nat) (i : Instr), (op, i) ∈ [(0, Instr.tmma o), (1, .tadd o), (2, .tcvt o)] → Executes s a t →
    (envOf s a).inGroup = true →
    let e := envOf s a
    let m := matOfWord op o
    let tpl := matTemplate m (o.mod.getLsbD 5) (modField o.mod 0 5)
    (comboOk m = false → exec i s = .next (trap s a 0x02)) ∧
    (comboOk m = true → guardHolds o.g t = true →
      (matReady (getCore s e.coreNo) (matOf tpl) e.ctx = false → exec i s = .next (trap s a 0x0E)) ∧
      (matReady (getCore s e.coreNo) (matOf tpl) e.ctx = true → queueFull s e.coreNo 1 = true →
        exec i s = .next (setThread s a { t with st := .waiting (.matrix tpl) })) ∧
      (matReady (getCore s e.coreNo) (matOf tpl) e.ctx = true → queueFull s e.coreNo 1 = false →
        Released s e t 2 →
        exec i s = .next (retired s (acceptEntry s e.coreNo 1 (matEntry s e tpl)).2 a [] t)))) ∧
  (∀ s t tpl, getThread s s.arg.who = some t → t.st = .waiting (.matrix tpl) → ((envOf s s.arg.who).group s).state = .running →
    coreOn s (envOf s s.arg.who).coreNo = true → bundleTurn s s.arg.who = true →
    queueFull s (envOf s s.arg.who).coreNo 1 = false →
    (matReady (getCore s (envOf s s.arg.who).coreNo) (matOf tpl) (envOf s s.arg.who).ctx = false →
      exec .matrixIssueRetry s = .next (trap s s.arg.who 0x0E)) ∧
    (matReady (getCore s (envOf s s.arg.who).coreNo) (matOf tpl) (envOf s s.arg.who).ctx = true → Released s (envOf s s.arg.who) t 2 →
      exec .matrixIssueRetry s = .next (retire (acceptEntry s (envOf s s.arg.who).coreNo 1 (matEntry s (envOf s s.arg.who) tpl)).2
        (envOf s s.arg.who) t))) ∧
  (∀ (m : MatOp) gen gs, m.op < 4 → m.td < 16 → m.ta < 16 → m.tb < 16 → m.ts < 16 → m.ea < 16 → m.eb < 16 → m.acc < 16 → m.gran < 4 →
    gs < 32 → matOf (matTemplate m gen gs) = m ∧ tplGen (matTemplate m gen gs) = gen ∧ tplGsem (matTemplate m gen gs) = gs ∧
      tplGcnt (matTemplate m gen gs) = 1) ∧
  (∀ (k : Core) (m : MatOp) (tcs : SMap Nat) j,
    let tc (n : Nat) : Nat := SMap.get tcs n 0
    let tl := getTile k
    let td := getTile (matUnit k m tcs j) m.td
    let el (w : Tile) (n code r i : Nat) : Nat := packedElem (rowOf w (tc n) r) (codeType code) i
    (∀ n, n ≠ m.td → n ≠ m.ts → getTile (matUnit k m tcs j) n = tl n) ∧ td.lmask = 0 ∧
    (m.op = 0 → ∀ i n, i < 32 → n < 32 →
      let fa := blockFactors m (tl m.ta) (tl m.ts) (tc m.ta) (tc m.ts) m.ea i i j
      let fb := blockFactors m (tl m.tb) (tl m.ts) (tc m.tb) (tc m.ts) m.eb n (32 + n) j
      td.data.extractLsb' (8 * (128 * i + 4 * n)) 32 = BitVec.ofNat 32 (tmmaWord m (ofBytes (tileBytes (tl m.td) (128 * i + 4 * n) 4)) fa fb) ∧
      (∀ h, h < 32 → nthD fa h (.nan, .nan) =
        if m.gran = 0 then (decodeElem (el (tl m.ta) m.ta m.ea i (32 * j + h)) (codeType m.ea), .fin false 1 0)
        else (scaledVal (el (tl m.ta) m.ta m.ea i (32 * j + h)) (codeType m.ea),
          decodeElem (scaleByte (tl m.ts) (tc m.ts) i ((32 * j + h) / granSize m.gran (tmmaDepth m.ea))) .e8m0))) ∧
    (comboOk m = true → matFits m tc = true → ∀ r i, tcOk (tc m.td) = true → r < tcRows (tc m.td) → tcElems (tc m.td) = some i.succ →
      ∀ e, e ≤ i →
      (m.op = 1 → j = r → el td m.td m.acc r e = taddElem m (el (tl m.ta) m.ta m.ea r e) (el (tl m.tb) m.tb m.eb r e)) ∧
      (m.op ≠ 0 → j < tcRows (tc m.td) → j ≠ r → rowOf td (tc m.td) r = rowOf (tl m.td) (tc m.td) r) ∧
      (m.op = 2 → j = r → el td m.td m.acc r e =
        nthD (tcvtRow m (tl m.ts) (tc m.ts) r (rowElems (tl m.ta) (tc m.ta) m.ea (i + 1) r)).1 e 0))) ∧
  (∀ (m : MatOp) (old : Nat) (a b : List (Val × Val)), m.acc = 0 → a.length = b.length →
    let prods := (a.zip b).map fun p => product4 p.1.1 p.2.1 p.1.2 p.2.2
    (.nan ∈ prods ∨ (.inf false ∈ prods ∧ .inf true ∈ prods) → tmmaWord m old a b = 0x7FC00000) ∧
    (∀ n, .nan ∉ prods → .inf n ∈ prods → .inf (!n) ∉ prods →
      tmmaWord m old a b = roundF ((fp32Val old).add (.inf n) .rne) .fp32 .rne) ∧
    ((∀ p ∈ a ++ b, isFin p.1 = true ∧ isFin p.2 = true) → ∃ neg n e,
      ratOf (.fin neg n e) = ((a.zip b).map fun p => ratOf p.1.1 * ratOf p.2.1 * (ratOf p.1.2 * ratOf p.2.2)).sum ∧
      (n = 0 → neg = prods.all Val.isNeg) ∧
      tmmaWord m old a b = roundF ((fp32Val old).add (fp32Val (roundF (.fin neg n e) .fp32 .rne)) .rne) .fp32 .rne)) ∧
  (∀ (m : MatOp) (old : Nat) (l r : List Nat), m.acc ≠ 0 →
    tmmaWord m old (l.map fun q => (decodeElem q .int8, .fin false 1 0)) (r.map fun q => (decodeElem q .int8, .fin false 1 0)) =
      wrapInt ((old : Int) + ((l.zip r).map fun p => signExt p.1 8 * signExt p.2 8).sum) 32) ∧
  (∀ (m : MatOp) a b, (m.acc = 9 → taddElem m a b = (a + b) % 2 ^ 32) ∧
    (m.acc ≠ 9 → taddElem m a b = roundF ((decodeElem a (codeType m.ea)).add (decodeElem b (codeType m.eb)) .rne) (codeType m.acc) .rne)) ∧
  (∀ (m : MatOp) (ts : Tile) tsc r (a : List Nat) e, e < a.length →
    let q := nthD a e 0
    let out := nthD (tcvtRow m ts tsc r a).1 e 0
    let v := decodeElem q (codeType m.ea)
    let n := granSize m.gran a.length
    (isFloatCode m.ea = true → m.gran = 0 → isFloatCode m.acc = true → out = roundF v (codeType m.acc) .rne) ∧
    (isFloatCode m.ea = true → m.gran = 0 → isFloatCode m.acc = false → out = roundSatStep v (codeType m.acc) 0) ∧
    (isFloatCode m.ea = true → m.gran ≠ 0 →
      let x := deriveScale (((a.drop (n * (e / n))).take n).map fun q => decodeElem q (codeType m.ea)) (codeType m.acc)
      out = quantiseOne v (codeType m.acc) x ∧ ∃ l, (tcvtRow m ts tsc r a).2 = some l ∧ nthD l (e / n) 0 = x) ∧
    (isFloatCode m.ea = false → m.gran = 0 → out = deliver v (codeType m.acc)) ∧
    (isFloatCode m.ea = false → m.gran ≠ 0 →
      out = deliver (dequant q (scaleByte ts tsc r (e / n)) (codeType m.ea)) (codeType m.acc)))

/-- R293 to R296: TLD whose rows can all be read fills the tile row by row and clears its mask, and where rows fault the others land,
the mask names those left and the fault of the lowest is taken; TST and TDRAIN store the tile's bytes, with every row checked first;
TFILL sets a tile from a pair and 4096 bytes. An unusable tile traps 0x0E, a misaligned row 0x04, both checked when the word issues; a TLD or TST that
has waited goes by the control word of its issue (R283, R293). Loads act at issue as in
notes/assumptions 12. -/
def Obligations.TileMemoryInstructions : Prop :=
  (∀ s a t (o : OpR), Clear s a t o.g { place := .compute, ill := tileScopeIll o } [.tile o.d, .sp o.a, .sx o.b] →
    let e := envOf s a
    let base := readPair t o.a.toNat
    let stride := readX t o.b.toNat
    let w := tileOf s e o.d
    let l1 := tmemCache o != 1 && !(tmemOrder o == 1 && wideScope s e o.c.toNat)
    let tc := issueTc t w
    (t.tc = none → tc = w.tc ∧ issueFault s e t o.d base stride = tileMemFault s e o.d base stride) ∧
    (∀ n, t.tc = some n → tc = n ∧ issueFault s e t o.d base stride = none) ∧
    (t.tc = none → w.owner ≠ some e.ctx →
      exec (.tld o) s = .next (trap s a 0x0E) ∧ (t.stores = [] → exec (.tst o) s = .next (trap s a 0x0E))) ∧
    (t.tc = none → w.owner = some e.ctx → base.toNat % 4 ≠ 0 ∨ stride.toNat % 4 ≠ 0 →
      exec (.tld o) s = .next (trap s a 0x04 0 base.toNat) ∧
        (t.stores = [] → exec (.tst o) s = .next (trap s a 0x04 0 base.toNat))) ∧
    (issueFault s e t o.d base stride = none →
      let x := tldRows e (fun r => { rowAcc e (tileRowVa base stride r) (tcRb tc) with l1 := l1 })
        { install := l1, nt := tmemCache o == 2 } (tcRb tc) { s := s, tile := w, left := tldTodo w t a }
      (x.wait = none → x.fault = none →
        let s1 := modTile x.s e.coreNo o.d.toNat fun _ => { x.tile with lmask := 0, lwho := a, lpc := t.pc }
        exec (.tld o) s = .next (retired s (if tmemOrder o = 1 then acquire s1 e o.c.toNat else s1) a [.tile o.d, .sp o.a, .sx o.b] t)) ∧
      (∀ f, x.wait = none → x.fault = some f →
        exec (.tld o) s = .next (takeFault (modTile x.s e.coreNo o.d.toNat fun _ =>
          { x.tile with lmask := rowMask x.left, lwho := a, lpc := t.pc }) a f))) ∧
    ((tmemOrder o = 2 → Released s e t o.c.toNat) → t.stores = [] → issueFault s e t o.d base stride = none →
      tileBad w 0 (tcRb tc * tcRows tc) = false → ∀ ts s1 s2 p,
      checkRows s e base stride (tcRb tc) (upTo (tcRows tc)) [] = .ok (ts, s1) →
      let s0 := modThread s1 a fun u => { u with rows := some [tcRb tc * tcRows tc] }
      pushEntries s0 e (entriesOf s0 e ts (tileBytes w 0 (tcRb tc * tcRows tc)) (tmemCache o == 2)) = (s2, [], p) →
      exec (.tst o) s = .next (retired s s2 a [.tile o.d, .sp o.a, .sx o.b] t))) ∧
  (∀ s a t (o : OpR), Clear s a t o.g { place := .compute } [.dp o.d, .tile o.b, .sp o.a] →
    let e := envOf s a
    let va := readPair t o.a.toNat
    let w := tileOf s e o.b
    (t.stores = [] → e.sup = false → w.owner ≠ some e.ctx → exec (.tdrain o) s = .next (trap s a 0x03)) ∧
    (t.stores = [] → w.owner = some e.ctx → va.toNat % 128 ≠ 0 → exec (.tdrain o) s = .next (trap s a 0x04 0 va.toNat)) ∧
    (w.owner = some e.ctx → va.toNat % 128 = 0 → tileBad w 0 4096 = false → t.stores = [] → ∀ ts s1 s2 p,
      checkPieces s { rowAcc e va 4096 with kind := 1, write := true } (piecesOf va.toNat 4096) [] = .ok (ts, s1) →
      pushEntries s1 e (entriesOf s1 e ts (tileBytes w 0 4096) false) = (s2, [], p) →
      exec (.tdrain o) s = .next (retired s s2 a [.dp o.d, .tile o.b, .sp o.a]
        (writePair t o.d.toNat (BitVec.ofNat 64 (readTilst w)))))) ∧
  (∀ s a t (o : OpR) b s1, Clear s a t o.g { place := .compute } [.sp o.d, .tile o.b, .sp o.a] →
    let e := envOf s a
    let va := readPair t o.a.toNat
    let v := (readPair t o.d.toNat).toNat
    tfillDenied (tileOf s e o.b) e v = false → tfillBits v = false → tcOk (field v 0 17) = true → va.toNat % 128 = 0 → hasPend s a = false →
    readRange s (rowAcc e va 4096) {} = .ok (b, s1) →
    exec (.tfill o) s = .next (retired s (modTile s1 e.coreNo o.b.toNat fun _ => tilePut { tc := field v 0 17, owner := tfillOwner v } 0 b)
      a [.sp o.d, .tile o.b, .sp o.a] t)) ∧
  (∀ e acc m rb (x : RowRun) r b s', x.wait = none → threadRead x.s e (acc r) m = .ok (b, s') →
    let y := tldRow e acc m rb x r
    r ∉ y.left ∧ (∀ q, q ≠ r → (q ∈ y.left ↔ q ∈ x.left)) ∧ y.fault = x.fault ∧ y.wait = none ∧
      (b.length = rb → r * rb + rb ≤ 4096 → ∀ i, i < 4096 → y.tile.data.extractLsb' (8 * i) 8 =
        if r * rb ≤ i ∧ i < r * rb + rb then nthD b (i - r * rb) 0 else x.tile.data.extractLsb' (8 * i) 8)) ∧
  (∀ e acc m rb (x : RowRun) r f, x.wait = none → threadRead x.s e (acc r) m = .error (.fault f) →
    let y := tldRow e acc m rb x r
    y.left = x.left ∧ y.tile = x.tile ∧ y.wait = none ∧ y.fault = some (x.fault.getD f)) ∧
  (∀ (l : List Nat) i, i < 64 → (rowMask l).getLsbD i = l.contains i)

/-- R339 to R341: a sample whose descriptor and texels can be read writes the quad x[D] of its four channels; IMLD outside the image
writes zero and inside it the texel's bytes; IMST outside the image stores nothing and inside it stores the texel. R340: a NaN coordinate
gives four canonical NaNs; without .lin the sample is the texel at the floors of u × W and v × H, with .lin each axis takes two neighbours
with weights 1 - a and a, each channel being the exact weighted sum rounded once; clamp, wrap and border take an index outside the axis to
the edge, to its residue and to zeros. Points that R340 leaves unstated are read as in notes/assumptions 26; that B is a pair, and an odd
D outside the image, as in 86 and 87. -/
def Obligations.ImageInstructions : Prop :=
  (∀ s a t (o : OpR) m s1 l s2, Clear s a t o.g { place := .compute } [.dq o.d, .sp o.a, .sp o.b] →
    readImg s (envOf s a) o (readPair t o.a.toNat).toNat = .ok (m, s1) →
    sampleAt s1 (envOf s a) o m ((readPair t o.b.toNat).extractLsb' 0 32).toNat ((readPair t o.b.toNat).extractLsb' 32 32).toNat =
      .ok (l, s2) →
    exec (.sample o) s = .next (retired s s2 a [.dq o.d, .sp o.a, .sp o.b] (writeQuad t o.d.toNat (BitVec.ofNat 128 (packBits 32 l))))) ∧
  (∀ s a t (o : OpR) m s1, Clear s a t o.g { place := .compute } [.dx o.d, .sp o.a, .sp o.b] →
    readImg s (envOf s a) o (readPair t o.a.toNat).toNat = .ok (m, s1) → texelRegBad (envOf s a) m (.dp o.d) = false →
    (m.fmt = 2 → needsAwait [.dp o.d] t = false) →
    let i := ((readPair t o.b.toNat).extractLsb' 0 32).toNat
    let j := ((readPair t o.b.toNat).extractLsb' 32 32).toNat
    (i ≥ m.w ∨ j ≥ m.h →
      exec (.imld o) s = .next (retired s s1 a [.dx o.d, .sp o.a, .sp o.b] (writeWidth t o.d.toNat (if m.fmt = 2 then 3 else 2) 0))) ∧
    (i < m.w → j < m.h → addrFault (m.texel i j) (texelSize m.fmt) = none → ∀ b s2,
      threadRead s1 (envOf s a) (imgAcc (envOf s a) o (m.texel i j) (texelSize m.fmt)) (imgMode o) = .ok (b, s2) →
      exec (.imld o) s = .next (retired s s2 a [.dx o.d, .sp o.a, .sp o.b] (writeWidth t o.d.toNat (if m.fmt = 2 then 3 else 2)
        (ofBytes b))))) ∧
  (∀ s a t (o : OpR) m s1, Clear s a t o.g { place := .compute } [.sx o.d, .sp o.a, .sp o.b] →
    readImg s (envOf s a) o (readPair t o.a.toNat).toNat = .ok (m, s1) → texelRegBad (envOf s a) m (.sp o.d) = false →
    (m.fmt = 2 → needsAwait [.sp o.d] t = false ∧ needsBad [.sp o.d] t = false) →
    let i := ((readPair t o.b.toNat).extractLsb' 0 32).toNat
    let j := ((readPair t o.b.toNat).extractLsb' 32 32).toNat
    (i ≥ m.w ∨ j ≥ m.h → exec (.imst o) s = .next (retired s s1 a [.sx o.d, .sp o.a, .sp o.b] t)) ∧
    (i < m.w → j < m.h → addrFault (m.texel i j) (texelSize m.fmt) = none → ∀ g s2 s3,
      check s1 { imgAcc (envOf s a) o (m.texel i j) (texelSize m.fmt) with kind := 1, write := true } = .ok (g, s2) →
      pushStore s2 (envOf s a) g (storeBytes t o.d.toNat (if m.fmt = 2 then 3 else 2)) (imgCache o == 2) = .ok s3 →
      exec (.imst o) s = .next (retired s s3 a [.sx o.d, .sp o.a, .sp o.b] t))) ∧
  (∀ s e (o : OpR) m u v, (fp32Val u).isNan = true ∨ (fp32Val v).isNan = true →
    sampleAt s e o m u v = .ok (List.replicate 4 0x7FC00000, s)) ∧
  (∀ s e (o : OpR) m u v, o.mod.getLsbD 0 = false → isFin (fp32Val u) = true → isFin (fp32Val v) = true → ∀ i j : Int,
    (i : Rat) ≤ ratOf (fp32Val u) * (m.w : Rat) → ratOf (fp32Val u) * (m.w : Rat) < (i : Rat) + 1 →
    (j : Rat) ≤ ratOf (fp32Val v) * (m.h : Rat) → ratOf (fp32Val v) * (m.h : Rat) < (j : Rat) + 1 →
    (∀ x y b s', adr m.amu m.w i = .at_ x → adr m.amv m.h j = .at_ y → addrFault (m.texel x y) (texelSize m.fmt) = none →
      threadRead s e (imgAcc e o (m.texel x y) (texelSize m.fmt)) (imgMode o) = .ok (b, s') →
      sampleAt s e o m u v = .ok ((texelChans m.fmt b).map Chan.enc, s')) ∧
    (adr m.amu m.w i = .border ∨ adr m.amv m.h j = .border → sampleAt s e o m u v = .ok (List.replicate 4 0, s))) ∧
  (∀ s e (o : OpR) m u v l s', isFin (fp32Val u) = true → isFin (fp32Val v) = true →
    readTerms s e o m ((axisOf m.amv m.h v (o.mod.getLsbD 0)).flatMap fun y =>
      (axisOf m.amu m.w u (o.mod.getLsbD 0)).map fun x => (x.1 * y.1, x.2, y.2)) [] = .ok (l, s') →
    sampleAt s e o m u v = .ok ((upTo 4).map fun k => (blend (l.map fun t => (t.1, nthD t.2 k .zero))).enc, s')) ∧
  (∀ mode (w : Nat) u (i : Int) (a : Rat), isFin (fp32Val u) = true → 0 ≤ a → a < 1 → (i : Rat) + a = ratOf (fp32Val u) * (w : Rat) - 1 / 2 →
    axisOf mode w u true = (1 - a, adr mode w i) :: (if a = 0 then [] else [(a, adr mode w (i + 1))])) ∧
  (∀ (w : Nat) (i : Int), 0 < w → (∃ k, adr 0 w i = .at_ k ∧ (k : Int) = max 0 (min i (w - 1))) ∧
    (∃ k, adr 1 w i = .at_ k ∧ (k : Int) = i % w) ∧ (0 ≤ i → i < w → adr 2 w i = .at_ i.toNat) ∧ (i < 0 ∨ w ≤ i → adr 2 w i = .border)) ∧
  (∀ l : List (Rat × Rat), ∃ n, blend (l.map fun x => (x.1, .fin x.2 false)) = .fin ((l.map fun x => x.1 * x.2).sum) n) ∧
  (∀ (b : List Byte) i, i < 4 → (∃ n, nthD (texelChans 0 b) i .nan = .fin (((nthD b i 0).toNat : Rat) / 255) n)) ∧
  (∀ n, n < 2 ^ 32 → isFin (fp32Val n) = true → (chanOf n .fp32).enc = n)

/-- R342, R343: TRACE checks its operands in their order, waits at a full q2 and else enters it with its ray entry and receives the
sequence number; the retry does the same; TLIST of a slot above 63, or of a tile its frame does not have, traps 0x02; of a slot that is
another context's it gives 0xFFFFFFFE and 0, of the context's own one that is not CLOSED 0xFFFFFFFE and its STATE, of a CLOSED one
0xFFFFFFFF and the count where x[C] reaches it, else PID and KEY, with an acquire at device scope. R336: a triangle is hit where the line
meets it at one point with t in range, with its exact t and barycentric coordinates rounded; a box where some t in range lies in it, at
the least such t rounded; the walk visits the nearer of two children that are hit and pushes the other, skips a popped entry beyond tcur,
and ends at the first hit under TERM. R335: reserved FLAGS give STATUS 3 and a ray that R335 calls a miss STATUS 0. Reads act at issue as
in notes/assumptions 12; a walk runs in one step (19). -/
def Obligations.RayInstructions : Prop :=
  (∀ s a t (o : OpR), Clear s a t o.g { place := .group } [.dx o.d, .sp o.a, .sx o.b, .sx o.c] →
    let e := envOf s a
    let ray := (readPair t o.a.toNat).toNat
    let area := (readX t o.b.toNat).toNat
    let c := (readX t o.c.toNat).toNat
    let tpl := traceTpl o ray area c
    (ray % 64 ≠ 0 → exec (.trace o) s = .next (trap s a 0x04 0 (ray % 2 ^ 56))) ∧
    (ray % 64 = 0 → area % 16 ≠ 0 → exec (.trace o) s = .next (trap s a 0x04)) ∧
    (ray % 64 = 0 → area % 16 = 0 → c > 56 → exec (.trace o) s = .next (trap s a 0x02)) ∧
    (ray % 64 = 0 → area % 16 = 0 → c ≤ 56 → scratchOut (e.group s) area (16 * (c + 9)) = true →
      exec (.trace o) s = .next (trap s a 0x0B)) ∧
    (ray % 64 = 0 → area % 16 = 0 → c ≤ 56 → scratchOut (e.group s) area (16 * (c + 9)) = false →
      Released s e t 2 →
      (queueFull s e.coreNo 2 = true → exec (.trace o) s = .next (setThread s a { t with st := .waiting (.trace tpl o.d.toNat) })) ∧
      (queueFull s e.coreNo 2 = false → exec (.trace o) s = .next (retired s (acceptEntry s e.coreNo 2
        { gid := e.gid, ctx := e.ctx, launch := (e.group s).launch, slot := 0, tpl := tpl }).2 a [.dx o.d, .sp o.a, .sx o.b, .sx o.c]
        (writeX t o.d.toNat ((getQueue (getCore s e.coreNo) 2).acc + 1)))))) ∧
  (∀ s t tpl d, getThread s s.arg.who = some t → t.st = .waiting (.trace tpl d) → ((envOf s s.arg.who).group s).state = .running →
    coreOn s (envOf s s.arg.who).coreNo = true → bundleTurn s s.arg.who = true →
    let e := envOf s s.arg.who
    queueFull s e.coreNo 2 = false →
    exec .traceIssueRetry s = .next (retire (acceptEntry s e.coreNo 2
      { gid := e.gid, ctx := e.ctx, launch := (e.group s).launch, slot := 0, tpl := tpl }).2 e
      (writeX t d ((getQueue (getCore s e.coreNo) 2).acc + 1)))) ∧
  (∀ s a t (o : OpR), Clear s a t o.g { place := .compute } [.dp o.d, .sx o.a, .sx o.b, .sx o.c] → hasPend s a = false →
    let slot := (readX t o.a.toNat).toNat
    let f := getFrame s (envOf s a).die slot
    (slot > 63 → exec (.tlist o) s = .next (trap s a 0x02)) ∧
    (slot ≤ 63 → f.st = 0 ∨ f.owner ≠ (envOf s a).ctx →
      exec (.tlist o) s = .next (retired s (acquire s (envOf s a) 4) a [.dp o.d, .sx o.a, .sx o.b, .sx o.c]
        (writePair t o.d.toNat 0x00000000FFFFFFFE))) ∧
    (slot ≤ 63 → f.st ≠ 0 → f.owner = (envOf s a).ctx → frmTw f.desc * frmTh f.desc ≤ (readX t o.b.toNat).toNat →
      exec (.tlist o) s = .next (trap s a 0x02)) ∧
    (slot ≤ 63 → f.st = 1 ∨ f.st = 2 → f.owner = (envOf s a).ctx → (readX t o.b.toNat).toNat < frmTw f.desc * frmTh f.desc →
      exec (.tlist o) s = .next (retired s (acquire s (envOf s a) 4) a [.dp o.d, .sx o.a, .sx o.b, .sx o.c]
        (writePair t o.d.toNat (BitVec.ofNat 32 f.st ++ (0xFFFFFFFE : Word))))) ∧
    (slot ≤ 63 → f.st = 3 → f.owner = (envOf s a).ctx → (readX t o.b.toNat).toNat < frmTw f.desc * frmTh f.desc → ∀ c s1,
      let acc (va n : Nat) : Acc := { threadAcc (envOf s a) (BitVec.ofNat 64 va) n with l1 := false }
      readRange s (acc (frmCnts f.desc + 4 * (readX t o.b.toNat).toNat) 4) { install := false } = .ok (c, s1) →
      (ofBytes c ≤ (readX t o.c.toNat).toNat →
        exec (.tlist o) s = .next (retired s (acquire s1 (envOf s a) 4) a [.dp o.d, .sx o.a, .sx o.b, .sx o.c]
          (writePair t o.d.toNat (BitVec.ofNat 32 (ofBytes c) ++ (0xFFFFFFFF : Word))))) ∧
      (∀ b s2, (readX t o.c.toNat).toNat < ofBytes c → hasPend s1 a = false →
        readRange s1 (acc (frmList f.desc + 512 * (readX t o.b.toNat).toNat + 8 * (readX t o.c.toNat).toNat) 8) { install := false } =
          .ok (b, s2) →
        exec (.tlist o) s = .next (retired s (acquire s2 (envOf s a) 4) a [.dp o.d, .sx o.a, .sx o.b, .sx o.c]
          (writePair t o.d.toNat (BitVec.ofNat 32 (word32 b 4) ++ BitVec.ofNat 32 (word32 b 0))))))) ∧
  (∀ (w : Walker) v0 v1 v2 t te u v face w', v0.fin = true → v1.fin = true → v2.fin = true → w.io.fin = true → w.id.fin = true →
    w.tri v0 v1 v2 = (some (t, te, u, v, face), w') → ∃ uq vq : Rat,
      0 ≤ uq ∧ 0 ≤ vq ∧ uq + vq ≤ 1 ∧ te = roundRat t ∧ u = roundRat uq ∧ v = roundRat vq ∧
      atLeast t w.tmin = true ∧ atMost t w.tcur = true ∧ w.meets v0.q v1.q v2.q t uq vq ∧
      (face = 1 ↔ 0 < ((v1.q.sub v0.q).cross (v2.q.sub v0.q)).dot w.id.q) ∧ (w.cullb = true → face = 0)) ∧
  (∀ (w : Walker) v0 v1 v2 (t uq vq : Rat), v0.fin = true → v1.fin = true → v2.fin = true → w.io.fin = true → w.id.fin = true →
    let det := ((v1.q.sub v0.q).cross (v2.q.sub v0.q)).dot w.id.q
    det ≠ 0 → 0 ≤ uq → 0 ≤ vq → uq + vq ≤ 1 → atLeast t w.tmin = true → atMost t w.tcur = true → (w.cullb = true → det ≤ 0) →
    w.meets v0.q v1.q v2.q t uq vq →
    w.tri v0 v1 v2 = (some (t, roundRat t, roundRat uq, roundRat vq, if 0 < det then 1 else 0), w)) ∧
  (∀ (w : Walker) mn mx, mn.fin = true → mx.fin = true → w.io.fin = true → w.id.fin = true → isFin (fp32Val w.tmin) = true →
    isFin (fp32Val w.tcur) = true →
    ((∀ t, w.inBox mn.q mx.q t → False) → w.box mn mx = (none, w)) ∧
    (∀ t, w.inBox mn.q mx.q t → (∀ t', w.inBox mn.q mx.q t' → t ≤ t') → w.box mn mx = (some (roundRat t), w))) ∧
  (∀ fuel (w : Walker) p, (ptrBad p = true → walkRay (fuel + 1) w (some p) = .malformed w) ∧
    (ptrBad p = false → ptrKind p = 0 → walkRay (fuel + 1) w (some p) = walkRay fuel w none) ∧
    (w.chip = [] → w.area.n = 0 → w.area.linked = false → w.back = none → walkRay (fuel + 1) w none = .done w) ∧
    (∀ x r, w.chip = x :: r → x.frame = false → valLt (fp32Val w.tcur) (fp32Val x.t) = true →
      walkRay (fuel + 1) w none = walkRay fuel { w with chip := r } none) ∧
    (∀ x r, w.chip = x :: r → x.frame = false → valLt (fp32Val w.tcur) (fp32Val x.t) = false →
      walkRay (fuel + 1) w none = walkRay fuel { w with chip := r } (some x.ptr)) ∧
    (∀ b w1, ptrBad p = false → w.node p = .ok (b, w1) →
      (∀ t te u v face w2, ptrKind p = 2 → w1.tri (vecAt b 0) (vecAt b 12) (vecAt b 24) = (some (t, te, u, v, face), w2) →
        w2.better t (word32 b 36) = true →
        let w3 := { w2 with best := some { exact_ := t, t := te, u := u, v := v, pid := word32 b 36, iid := w2.iid, face := face } }
        walkRay (fuel + 1) w (some p) = if w2.term then .done w3 else walkRay fuel w3 none) ∧
      (∀ w2, ptrKind p = 2 → w1.tri (vecAt b 0) (vecAt b 12) (vecAt b 24) = (none, w2) →
        walkRay (fuel + 1) w (some p) = walkRay fuel w2 none) ∧
      (∀ h0 h1 w2 w3, ptrKind p = 1 → (ptrBad (word64 b 48) = true ∨ ptrKind (word64 b 48) ≠ 0) →
        (ptrBad (word64 b 56) = true ∨ ptrKind (word64 b 56) ≠ 0) → w1.box (vecAt b 0) (vecAt b 12) = (h0, w2) →
        w2.box (vecAt b 24) (vecAt b 36) = (h1, w3) →
        (h0 = none → h1 = none → walkRay (fuel + 1) w (some p) = walkRay fuel w3 none) ∧
        (h0 ≠ none → h1 = none → walkRay (fuel + 1) w (some p) = walkRay fuel w3 (some (word64 b 48))) ∧
        (h0 = none → h1 ≠ none → walkRay (fuel + 1) w (some p) = walkRay fuel w3 (some (word64 b 56))) ∧
        (∀ t0 t1, h0 = some t0 → h1 = some t1 → w3.chip.length < 8 →
          walkRay (fuel + 1) w (some p) = if valLt (fp32Val t1) (fp32Val t0)
            then walkRay fuel { w3 with chip := { ptr := word64 b 48, t := t0, frame := false } :: w3.chip } (some (word64 b 56))
            else walkRay fuel { w3 with chip := { ptr := word64 b 56, t := t1, frame := false } :: w3.chip } (some (word64 b 48)))))) ∧
  (∀ (w : Walker) x, 8 ≤ w.chip.length → w.area.c ≤ w.area.n → (w.push x).isNone = true) ∧
  (∀ (w : Walker) b, (8 ≤ word32 b 48 → recordOf (runRay w b) = some (plainRecord 3, w)) ∧
    (word32 b 48 < 8 → rayMiss b = true → w.best.isNone = true → recordOf (runRay w b) = some (plainRecord 0, w)))

/-! ## Work, supervisor and stack words -/

/-- R102 to R108: LAUNCH of a well-formed record gives status 2, 3 or 1 where a cancel, the depth or the number of children forbids it,
and else creates the child and gives status 0 with its id; a malformed record traps 0x0B; CANCEL, CNTR, PHASE and IDEM do what their
entries say. R103: a child takes the next launch id of its context, never 0, one depth below its parent, in no graph. R102: a cancel of a
launch reaches every launch below it that has not completed: none of its groups starts any more, those not started count as ended, CANCELLED
is set in its counter, and its resident groups that are not masked are asked to drop, but not the group of the thread that cancels. What a
fault of a record read does, and the die it comes from, are as in notes/assumptions 20, a launch that pre-emption left a group of as in 54. -/
def Obligations.WorkInstructions : Prop :=
  (∀ s a t (o : OpR) b s1, Clear s a t o.g workPolicy [.dp o.d, .sp o.a] →
    let e := envOf s a
    let va := (readPair t o.a.toNat).toNat
    let needs : List Need := [.dp o.d, .sp o.a]
    addrFault va 64 = none → Released s e t 4 → recordRead s e va = .ok (b, s1) →
    (launchOf b = none → exec (.launch o) s = .next (trap s1 a 0x0B)) ∧
    (∀ r k s2, launchOf b = some r → recordRead s1 e r.kdesc = .ok (k, s2) →
      (kdescOf r.kdesc k = none → exec (.launch o) s = .next (trap s2 a 0x0B)) ∧
      (∀ kd i, kdescOf r.kdesc k = some kd → r.cnt = some i → counterHeld s2 e.ctx i = true →
        exec (.launch o) s = .next (trap s2 a 0x0B)) ∧
      (∀ kd, kdescOf r.kdesc k = some kd → (∀ i, r.cnt = some i → counterHeld s2 e.ctx i = false) →
        let g := e.group s2
        let child := createChild s2 g.launch kd r r.param
        exec (.launch o) s = .next (
          if cancelReached s2 g.launch then retired s s2 a needs (writePair t o.d.toNat ((0 : Word) ++ (2 : Word)))
          else if g.depth ≥ g.depthMax then
            retired s (refuseLaunch s2 e.ctx) a needs (writePair t o.d.toNat ((0 : Word) ++ (3 : Word)))
          else if pendingChildren s2 e.ctx ≥ 65536 then retired s s2 a needs (writePair t o.d.toNat ((0 : Word) ++ (1 : Word)))
          else retired s child.2.2 a needs (writePair t o.d.toNat (child.2.1 ++ (0 : Word))))))) ∧
  (∀ s a t (o : OpR), Clear s a t o.g workPolicy (.dx o.d :: (if modField o.mod 0 2 = 0 then [.sx o.a] else [])) →
    let e := envOf s a
    let g := e.group s
    let r := match modField o.mod 0 2 with
      | 0 => cancelById s e.gid e.ctx (readX t o.a.toNat)
      | 1 => cancelOwnGraph s e.gid g.launch
      | 2 => cancelOwnPhase s e.gid e.ctx
      | _ => cancelOwnJob s e.gid e.ctx
    exec (.cancel o) s = .next (retired s r.2 a (.dx o.d :: (if modField o.mod 0 2 = 0 then [.sx o.a] else []))
      (writeX t o.d.toNat (BitVec.ofNat 32 r.1)))) ∧
  (∀ s own ctx id, (launchById s ctx id = none → cancelById s own ctx id = (2, s)) ∧
    (∀ u l, launchById s ctx id = some (u, l) → l.complete || cancelReached s u → cancelById s own ctx id = (1, s)) ∧
    (∀ u l, launchById s ctx id = some (u, l) → l.complete = false → cancelReached s u = false →
      cancelById s own ctx id = (0, cancelTree s own u))) ∧
  (∀ s a t (o : OpR), Clear s a t o.g workPolicy [.dp o.d, .sx o.a] →
    let i := (readX t o.a.toNat).toNat
    (i > 1023 → exec (.cntrRd o) s = .next (trap s a 0x02)) ∧
    (i ≤ 1023 → hasPend s a = false → exec (.cntrRd o) s = .next (retired s (acquire s (envOf s a) 4) a [.dp o.d, .sx o.a]
      (writePair t o.d.toNat (BitVec.ofNat 64 (counterGet s (envOf s a).ctx i)))))) ∧
  (∀ s a t (o : OpR), Clear s a t o.g workPolicy [.dp o.d, .sx o.a, .sx o.b] →
    let i := (readX t o.a.toNat).toNat
    let ctx := (envOf s a).ctx
    (i > 1023 ∨ counterHeld s ctx i = true → exec (.cntrAdd o) s = .next (trap s a 0x02)) ∧
    (i ≤ 1023 → counterHeld s ctx i = false → exec (.cntrAdd o) s =
      .next (retired s (counterAdd s ctx i (readX t o.b.toNat).toNat) a [.dp o.d, .sx o.a, .sx o.b]
        (writePair t o.d.toNat (BitVec.ofNat 64 (counterGet s ctx i)))))) ∧
  (∀ s a t (o : OpR), Clear s a t o.g workPolicy [.dx o.d] →
    exec (.phaseRd o) s = .next (wrote s a [.dx o.d] (writeX t o.d.toNat
      (BitVec.ofNat 32 (((getCtx s (envOf s a).ctx).job.map (·.index)).getD 0))))) ∧
  (∀ s a t (o : OpR), Clear s a t o.g workPolicy [.sx o.a] →
    exec (.phaseNext o) s = .next (retired s
      (modJob s (envOf s a).ctx fun j => { j with next := some (readX t o.a.toNat).toNat }) a [.sx o.a] t)) ∧
  (∀ s gid tid t (o : OpR), Clear s (.thread gid tid) t o.g workPolicy [] → steps s (envOf s (.thread gid tid)) = false →
    (∃ s', exec (.idemOff o) s = .next s' ∧ getThread s' (.thread gid tid) = some { t.settled with
      st := .ready, stamp := dieCycle s (envOf s (.thread gid tid)).die, pc := t.pc + 8, idemOff := true }) ∧
    (∃ s', exec (.idemOn o) s = .next s' ∧ getThread s' (.thread gid tid) = some { t.settled with
      st := .ready, stamp := dieCycle s (envOf s (.thread gid tid)).die, pc := t.pc + 8, idemOff := false })) ∧
  (∀ s p l kd r param, getLaunch s p = some l → p ≠ s.uid →
    let y := createChild s p kd r param
    y.1 = s.uid ∧ y.2.1 = (if (getCtx s l.ctx).nextLid = 0 then 1 else (getCtx s l.ctx).nextLid) ∧ y.2.1 ≠ 0 ∧
    getLaunch y.2.2 p = some { l with kids := l.kids + 1 } ∧
    (∃ v, getLaunch y.2.2 y.1 = some
      { ctx := l.ctx, lid := y.2.1, depth := l.depth + 1, kd := kd, variant := v, param := param
        lx := r.lx, ly := r.ly, lz := r.lz, cnt := r.cnt, parent := .launch p, graph := none
        phase := ((getCtx s l.ctx).job.map (·.index)).getD 0 }) ∧
    (∀ u, u ≠ p → u ≠ y.1 → getLaunch y.2.2 u = getLaunch s u)) ∧
  (∀ s own top u l, getLaunch s u = some l →
    let t := cancelTree s own top
    (isBelow s (s.launches.length + 1) top u = false → getLaunch t u = some l) ∧
    (isBelow s (s.launches.length + 1) top u = true → l.cancelled = true ∨ l.complete = true → getLaunch t u = some l) ∧
    (isBelow s (s.launches.length + 1) top u = true → l.cancelled = false → l.complete = false → ∃ l', getLaunch t u = some l' ∧ l'.cancelled = true ∧
      nextGroup l' = none ∧ l'.ended = l.ended + (l.total - l.next + l.requeue.length) ∧ l'.kids = l.kids ∧
      (∀ i, l.cnt = some i → MemOk s → (∀ v m, getLaunch s v = some m → isBelow s (s.launches.length + 1) top v = true → m.ctx = l.ctx) →
        bit (counterGet t l.ctx i) 62 = true))) ∧
  (∀ s own top gid g, getGroup s gid = some g →
    let t := cancelTree s own top
    (gid = own → getGroup t gid = some g) ∧
    (g.state = .draining ∨ g.state = .dropping ∨ g.drop.isSome = true ∨ isMasked g = true → getGroup t gid = some g) ∧
    ((∀ h, (gid, h) ∈ s.groups → isBelow s (s.launches.length + 1) top h.launch = false) → getGroup t gid = some g) ∧
    (∀ l, gid ≠ own → isBelow s (s.launches.length + 1) top g.launch = true → getLaunch s g.launch = some l → l.cancelled = false → l.complete = false →
      g.state = .running → g.drop = none → isMasked g = false → getGroup t gid = some { g with drop := some .cancel }))

/-- R90, R358 to R360: CSRR and CSRW of an assigned number at an index in range, once the fence of R90 is over, read or write the
register; a write that is not allowed, and an index out of range, trap 0x02; BEAT records the tick and returns the period; HALT, which
waits for its core to stop, and HALT.rel. R380: SXVEC and SXEPC read bits [55:3] of what was written, SXCAUSE its fields, on a sextant
core only. R347, R348: TRECA, TRECB and TRECC read a lane's record, and TXREG reads and writes a register, the predicates or IDEM of a
thread the lane may reach. R88, R365, R367: L2QUOTA, DBGST and CKADR read what was written, within their limits. A core that is halted
freezes once what had issued there is over: notes/assumptions 77. -/
def Obligations.ControlRegisterInstructions : Prop :=
  (∀ s a t (o : OpR), Clear s a t o.g (csrPolicy o) [.dp o.d, .sx o.a] →
    let e := envOf s a
    let i := (readX t o.a.toNat).toNat
    (csrIndexOk o i = false → exec (.csrr o) s = .next (trap s a 0x02)) ∧
    (csrIndexOk o i = true → hasPend s a = false → Released s e t 5 →
      (csrRead s e (csrNumber o) i = none → exec (.csrr o) s = .next (trap s a 0x02)) ∧
      (∀ v, csrRead s e (csrNumber o) i = some v → exec (.csrr o) s =
        .next (retired s (acquire s e 5) a [.dp o.d, .sx o.a] (writePair t o.d.toNat (BitVec.ofNat 64 v)))))) ∧
  (∀ s a t (o : OpR), Clear s a t o.g (csrPolicy o) [.sp o.d, .sx o.a] →
    let e := envOf s a
    let i := (readX t o.a.toNat).toNat
    let v := (readPair t o.d.toNat).toNat
    (csrIndexOk o i = false → exec (.csrw o) s = .next (trap s a 0x02)) ∧
    (csrIndexOk o i = true → hasPend s a = false → Released s e t 5 →
      (csrWrite s e (csrNumber o) i v = .bad → exec (.csrw o) s = .next (trap s a 0x02)) ∧
      (∀ s1, csrWrite s e (csrNumber o) i v = .ok s1 →
        exec (.csrw o) s = .next (retired s (acquire s1 e 5) a [.sp o.d, .sx o.a] t)) ∧
      (∀ w s1, csrWrite s e (csrNumber o) i v = .wait w s1 →
        exec (.csrw o) s = .next (passFree (takeStop s1 a (.wait w)) e [.sp o.d, .sx o.a])))) ∧
  (∀ s e c v, csrWrite s e 0x0C00 c v = .ok (writeTvec s c v) ∧ csrRead (writeTvec s c v) e 0x0C00 c = some (field v 3 53 * 8)) ∧
  (∀ s e d v, csrWrite s e 0x0C06 d v = if 1 ≤ field v 0 7 ∧ field v 0 7 ≤ 100
    then .ok (expireDue (modDie s d fun x => { x with period := field v 0 7 }) d) else .bad) ∧
  (∀ s e i v, e.onSextant = true →
    (∃ s1, csrWrite s e 0x0D00 i v = .ok s1 ∧ csrRead s1 e 0x0D00 i = some (field v 3 53 * 8) ∧ SameOutside s s1 ∧
      csrRead s1 e 0x0D01 i = csrRead s e 0x0D01 i ∧ csrRead s1 e 0x0D02 i = csrRead s e 0x0D02 i) ∧
    (∃ s1, csrWrite s e 0x0D01 i v = .ok s1 ∧ csrRead s1 e 0x0D01 i = some (field v 3 53 * 8) ∧ SameOutside s s1 ∧
      csrRead s1 e 0x0D00 i = csrRead s e 0x0D00 i ∧ csrRead s1 e 0x0D02 i = csrRead s e 0x0D02 i) ∧
    csrWrite s e 0x0D02 i v = .ok s ∧
    (∀ x, x = (getDie s e.die).sx →
      csrRead s e 0x0D00 i = some x.vec.toNat ∧ csrRead s e 0x0D01 i = some x.epc.toNat ∧
      csrRead s e 0x0D02 i = some (x.causeCode + 2 ^ 8 * x.causeCore + 2 ^ 14 * x.causeKind + 2 ^ 16 * x.events.length))) ∧
  (∀ s e n i v, e.onSextant = false → n = 0x0D00 ∨ n = 0x0D01 ∨ n = 0x0D02 → csrRead s e n i = none ∧ csrWrite s e n i v = .bad) ∧
  (∀ s e i v, (laneRec s e = none → ∀ n, n = 0x0C01 ∨ n = 0x0C02 ∨ n = 0x0C03 → csrRead s e n i = none ∧ csrWrite s e n i v = .bad) ∧
    (∀ r, laneRec s e = some r → csrRead s e 0x0C01 i = some (r.epc.toNat % 2 ^ 56 + 2 ^ 56 * r.code) ∧
      csrRead s e 0x0C02 i = some (r.arg.toNat + 2 ^ 32 * r.slot + 2 ^ 38 * r.tid + 2 ^ 52 * r.kind + 2 ^ 54 * r.q) ∧
      csrRead s e 0x0C03 i = some (if r.kind = 1 ∨ (r.kind = 0 ∧ codeHasVa r.code) then r.va % 2 ^ 56 else 0) ∧
      ∀ n, n = 0x0C01 ∨ n = 0x0C02 ∨ n = 0x0C03 → csrWrite s e n i v = .ok s)) ∧
  (∀ s e i v a t r, txThread s e i = some (a, t, r) → ∃ s1, csrWrite s e 0x0C04 i v = .ok s1 ∧
    csrRead s1 e 0x0C04 i = some (if r = 256 then field v 0 7 + 2 ^ 7 + 2 ^ 8 * field v 8 1 else if r = 0 then 0 else v % 2 ^ 32)) ∧
  (∀ s e i v, txThread s e i = none → csrRead s e 0x0C04 i = none ∧ csrWrite s e 0x0C04 i v = .bad) ∧
  (∀ s e i v (q : Nat → Nat), (∀ w, q w = field v (8 * w) 5) →
    ((∀ w, w < 4 → 1 ≤ q w ∧ q w ≤ 16) → ∃ s1, csrWrite s e 0x0300 i v = .ok s1 ∧
      csrRead s1 e 0x0300 i = some (q 0 + 2 ^ 8 * q 1 + 2 ^ 16 * q 2 + 2 ^ 24 * q 3)) ∧
    (∀ w, w < 4 → q w = 0 ∨ 16 < q w → csrWrite s e 0x0300 i v = .bad)) ∧
  (∀ s e i v, (∃ s1, csrWrite s e 0x0C07 i v = .ok s1 ∧ csrRead s1 e 0x0C07 i = some (field v 0 15)) ∧
    (field v 0 12 = 0 → ∃ s1, csrWrite s e 0x0C09 i v = .ok s1 ∧ csrRead s1 e 0x0C09 i = some (field v 0 46)) ∧
    (field v 0 12 ≠ 0 → csrWrite s e 0x0C09 i v = .bad)) ∧
  (∀ s a t (o : OpR), Clear s a t o.g { place := .compute, right := .steward } [.dx o.d] →
    exec (.beat o) s = .next (retired s (modCore s (envOf s a).coreNo fun k => { k with lastBeat := s.dev.tick }) a [.dx o.d]
      (writeX t o.d.toNat (BitVec.ofNat 32 (getDie s (envOf s a).die).period)))) ∧
  (∀ s a t (o : OpR), Clear s a t o.g { right := .sup } [.dx o.d, .sx o.a] →
    let e := envOf s a
    let c := (readX t o.a.toNat).toNat
    let s1 := acquire s e 5
    let done (s' : State) (v : Word) : Host.Outcome State Fault Refusal :=
      .next (retired s s' a [.dx o.d, .sx o.a] (writeX t o.d.toNat v))
    (c > 639 → exec (.halt o) s = .next (trap s a 0x02) ∧ exec (.haltRel o) s = .next (trap s a 0x02)) ∧
    (c ≤ 639 → hasPend s a = false → Released s e t 5 →
      ((getCore s1 c).halted = true → exec (.halt o) s = done s1 1) ∧
      ((getCore s1 c).halted = false → coreStopped (haltCore s1 c 0x14 false) c = true → exec (.halt o) s =
        .next (passFree (retire (haltCore s1 c 0x14 false) e (writeX t o.d.toNat 0)) e [.dx o.d, .sx o.a])) ∧
      ((getCore s1 c).halted = false → coreStopped (haltCore s1 c 0x14 false) c = false → exec (.halt o) s =
        .next (passFree (setThread (haltCore s1 c 0x14 false) a { t with st := .waiting (.halt c o.d.toNat), relBound := none }) e
          [.dx o.d, .sx o.a])) ∧
      ((getCore s1 c).halted = false → exec (.haltRel o) s = done s1 1) ∧
      ((getCore s1 c).halted = true → (getCore s1 c).freezing = true → exec (.haltRel o) s =
        .next (passFree (setThread s1 a { t with st := .waiting (.shutter 1024 0) }) e [.dx o.d, .sx o.a])) ∧
      ((getCore s1 c).halted = true → (getCore s1 c).freezing = false → (getCore s1 c).frozen ≠ [] → exec (.haltRel o) s = done s1 2) ∧
      ((getCore s1 c).halted = true → (getCore s1 c).freezing = false → (getCore s1 c).frozen = [] →
        exec (.haltRel o) s = done (releaseCore s1 c) 0))) ∧
  (∀ s a t c d, getThread s a = some t → t.st = .waiting (.halt c d) →
    (coreStopped s c = true ∨ (getCore s c).halted = false →
      haltRetire s a = retire (acquire s (envOf s a) 5) (envOf s a) (writeX t d 0)) ∧
    (coreStopped s c = false → (getCore s c).halted = true → haltRetire s a = s)) ∧
  (∀ s c cause hb, (getCore (haltCore s c cause hb) c).halted = true ∧ (getCore (haltCore s c cause hb) c).cause = cause ∧
    (getCore (haltCore s c cause hb) c).hb = hb) ∧
  (∀ s c, coreStopped s c = !(getCore s c).freezing) ∧
  (∀ s c, (getCore s c).freezing = false ∨ coreQuiet s c = false → freezeQuiet s c = s) ∧
  (∀ s c, (getCore s c).freezing = true → coreQuiet s c = true → (getCore (freezeQuiet s c) c).freezing = false ∧
    (getCore (freezeQuiet s c) c).sb = []) ∧
  (∀ s c, coreQuiet s c = true ↔ (∀ q, q < 4 → queueAtRest s c q = true) ∧
    ∀ a, (a = .lane c 0 ∨ a ∈ coreAgents s c) → ∀ t, getThread s a = some t → t.finishing = false)

/-- R350, R353, R307, R237: ERET and its exit form on a sextant core and in a lane; CAPT and its outcomes; HINGE's checks in their order,
its wait for its turn and the beginning of a hand-over; TINV and what it does to the parked threads of its range. The model's own
readings: points of the capture and of its waits (notes/assumptions 27), loads that act at issue and the waits for those under way (12), a
page's accesses under way (48), the recorded address of a trap (35), queues at rest (77), frozen entries under TINV.lines (82), ERET in
the steward (88). -/
def Obligations.SupervisorInstructions : Prop :=
  (∀ s a t (o : OpR), Clear s a t o.g { right := .sup } [.sp o.a] → hasPend s a = false →
    let c := readPair t o.a.toNat
    (∀ d, a = .sextant d → targetFault c = none → exec (.eret o) s = .next
      (retiredTo s (modDie s d fun v => { v with sx := { v.sx with inExc := false } }) a [.sp o.a] t c)) ∧
    (∀ k l, a = .lane k l → laneThread s k l = none → exec (.eret o) s = .next (trap s a 0x02)) ∧
    (∀ k l gid tid, a = .lane k l → laneThread s k l = some (gid, tid) →
      (targetFault c = none → exec (.eret o) s = .next (laneIdle (resumeTrapped s gid tid c) k l)) ∧
      (∀ code, targetFault c = some code → exec (.eret o) s = .next (trap s a code 0 (c.toNat % 2 ^ 56))))) ∧
  (∀ s a t (o : OpR), Clear s a t o.g { right := .sup } [] → hasPend s a = false →
    (∀ d, a = .sextant d → exec (.eretExit o) s = .next (trap s a 0x02)) ∧
    (∀ k l, a = .lane k l → laneThread s k l = none → exec (.eretExit o) s = .next (trap s a 0x02)) ∧
    (∀ k l gid tid h, a = .lane k l → laneThread s k l = some (gid, tid) → getThread s (.thread gid tid) = some h →
      exec (.eretExit o) s = .next (laneIdle (if h.st = .trapped then exitThread s gid tid else s) k l))) ∧
  (∀ s gid tid t c, getThread s (.thread gid tid) = some t → t.st = .trapped →
    getThread (resumeTrapped s gid tid c) (.thread gid tid) =
      some { t with st := .ready, stamp := dieCycle s (envOf s (.thread gid tid)).die, pc := c, code := 0, arg := 0, va := 0 }) ∧
  (∀ s a t (o : OpR), Clear s a t o.g {} [.dx o.d, .sx o.a, .sx o.b] →
    let e := envOf s a
    let k := (readX t o.a.toNat).toNat
    let target := (readX t o.b.toNat).toNat
    let done (v : Word) : Host.Outcome State Fault Refusal :=
      .next (wrote s a [.dx o.d, .sx o.a, .sx o.b] (writeX t o.d.toNat v))
    (k > 31 ∨ target > 15 → exec (.hinge o) s = .next (trap s a 0x02)) ∧
    (k ≤ 31 → target ≤ 15 → e.onSextant = false → (getCtx s e.ctx).key.getLsbD k = false →
      exec (.hinge o) s = if o.mod.getLsbD 0 then .next (trap s a 0x0F) else done 1) ∧
    (k ≤ 31 → target ≤ 15 → e.onSextant = true ∨ (getCtx s e.ctx).key.getLsbD k = true →
      (target ≠ lowerDie k → target ≠ upperDie k → exec (.hinge o) s = done 2) ∧
      (target = lowerDie k ∨ target = upperDie k →
        let turned (st : StackState) : Prop := (getStack s k).state = st ∧ carried s k = false ∧ (getStack s k).queue = []
        (handingOver (getStack s k) = true ∨ carried s k = true ∨ (getStack s k).queue ≠ [] → exec (.hinge o) s =
          .next (setThread (modStack s k fun v => { v with queue := v.queue ++ [a] }) a
            { t with st := .waiting (.hinge k target o.d.toNat) })) ∧
        (turned .frozen → exec (.hinge o) s = done 4) ∧
        (turned .owned → (getStack s k).owner = target → exec (.hinge o) s = done 0) ∧
        (turned .owned → (getStack s k).owner ≠ target →
          (degraded (getStack s k) k target = true → exec (.hinge o) s = done 3) ∧
          (degraded (getStack s k) k target = false → exec (.hinge o) s = .next (
            setThread (beginHandover s k target a) a { t with st := .waiting (.hinge k target o.d.toNat) })))))) ∧
  (∀ s k target a, getStack (beginHandover s k target a) k =
    { getStack s k with state := .closing, target := target, began := s.dev.tick, fcause := 0, issuer := some a }) ∧
  (∀ s a t (o : OpR) (op : TinvOp) (i : Instr), (op, i) ∈ [(TinvOp.inv, Instr.tinvInv o), (.retry, .tinvRetry o), (.fail, .tinvFail o)] →
    Clear s a t o.g { right := .sup } [.dx o.d, .np o.a, .sx o.b, .sx o.c] →
    let e := envOf s a
    let va := (readPair t o.a.toNat).toNat
    let tag := (readX t o.b.toNat).toNat
    let n := (readX t o.c.toNat).toNat
    (n ≠ 0 → needsAwait [.sp o.a] t = false ∧ needsBad [.sp o.a] t = false) →
    (∀ c, tinvFault tag va n = some c → exec i s = .next (trap s a c 0 (if c = 0x02 then 0 else va % 2 ^ 56))) ∧
    (tinvFault tag va n = none → hasPend s a = false → Released s e t 5 → ∀ s2,
      (if o.mod.getLsbD 2 then dropRange (dropXlats (acquire s e 5) tag va n) tag va n
        else (true, dropXlats (acquire s e 5) tag va n)) = (true, s2) →
      let r := releaseParked s2 op (parkedOn s2 tag va n)
      exec i s = .next (passFree (retire r.2 e (writeX t o.d.toNat (BitVec.ofNat 32 (min r.1 0xFFFFFFFF)))) e
        [.dx o.d, .np o.a, .sx o.b, .sx o.c]))) ∧
  (∀ s tag va n, (∀ d, ∀ x ∈ (getDie (dropXlats s tag va n) d).tlb, x.tag ≠ tag ∨ pageIn va n x.page = false) ∧
    (dropXlats s tag va n).cores = s.cores ∧ (dropXlats s tag va n).groups = s.groups ∧ (dropXlats s tag va n).mem = s.mem) ∧
  (∀ s a t (o : OpR), Clear s a t o.g { right := .sup } [.dp o.d, .sx o.a, .sp o.b] →
    let h := (readX t o.a.toNat).toNat
    let va := (readPair t o.b.toNat).toNat
    let done (s' : State) (st len : Nat) : Host.Outcome State Fault Refusal :=
      .next (retired s s' a [.dp o.d, .sx o.a, .sp o.b] (writePair t o.d.toNat (BitVec.ofNat 64 (st + 2 ^ 32 * len))))
    let acc (n : Nat) : Acc := { threadAcc (envOf s a) (readPair t o.b.toNat) n with kind := 1, write := true }
    (h > 40959 → exec (.captGroup o) s = .next (trap s a 0x02)) ∧ (h > 639 → exec (.captCore o) s = .next (trap s a 0x02)) ∧
    (h ≤ 639 → va % 256 ≠ 0 → exec (.captCore o) s = .next (trap s a 0x04 0 (va % 2 ^ 56)) ∧
      exec (.captGroup o) s = .next (trap s a 0x04 0 (va % 2 ^ 56))) ∧
    let wrote (gid n : Nat) : Thread := { t with capt := some (gid, n) }
    (h ≤ 639 → va % 256 = 0 → imageBegun t = none → (getCore s h).halted = false → exec (.captCore o) s = done s 1 0) ∧
    (h ≤ 639 → va % 256 = 0 → t.capt = none → (getCore s h).halted = true → t.relBound = none → t.stores = [] → ∀ ts s1 s2 p,
      let s0 := stopCore s h
      queuesAtRest s0 h = true → (getCore s0 h).freezing = false →
      let img := coreImage s0 h
      checkPieces s0 (acc img.length) (piecesOf va img.length) [] = .ok (ts, s1) →
      pushEntries (setThread s1 a (wrote 0 img.length)) (envOf s a)
        (entriesOf s1 (envOf s a) ts img false) = (s2, [], p) →
      releaseDone s2 (envOf s a) 5 s2.uid → exec (.captCore o) s = done s2 0 img.length) ∧
    (h ≤ 40959 → va % 256 = 0 → imageBegun t = none → captTarget s t h = none → exec (.captGroup o) s = done s 1 0) ∧
    (t.capt = none → SMap.find (getCore s (h / 64)).slots (h % 64) = none → captTarget s t h = none) ∧
    (∀ v g, t.capt = none → SMap.find (getCore s (h / 64)).slots (h % 64) = some v → getGroup s v.gid = some g →
      captTarget s t h = if g.state = .placing ∨ g.state = .dropping then none else some (v.gid, g)) ∧
    (∀ gid n g, t.capt = some (gid, n) → getGroup s gid = some g →
      captTarget s t h = if g.state = .halted then some (gid, g) else none) ∧
    (h ≤ 40959 → va % 256 = 0 → imageBegun t = none → t.relBound = none → t.stores = [] → ∀ gid g g1 s1 ts s2 s3 p,
      captTarget s t h = some (gid, g) →
      s1 = setThread (drainGroup (if g.state = .halted then g.slices.foldl (fun s p => stopCore s p.1) s else captureHalt s gid) gid) a
        (wrote gid 0) →
      getGroup s1 gid = some g1 → groupDrained s1 gid g1 = true →
      let img := groupImage s1 g1
      checkPieces s1 (acc img.length) (piecesOf va img.length) [] = .ok (ts, s2) →
      pushEntries (setThread s2 a (wrote gid img.length)) (envOf s a)
        (entriesOf s2 (envOf s a) ts img false) = (s3, [], p) →
      releaseDone s3 (envOf s a) 5 s3.uid →
      exec (.captGroup o) s = .next (passFree (retire s3 (envOf s a) (writePair t o.d.toNat (BitVec.ofNat 64 (2 ^ 32 * img.length))))
        (envOf s a) [.dp o.d, .sx o.a, .sp o.b]))) ∧
  (∀ s a t (o : OpR), Clear s a t o.g { right := .sup } [.dp o.d, .sx o.a] →
    let h := (readX t o.a.toNat).toNat
    let done (s' : State) (st : Nat) : Host.Outcome State Fault Refusal :=
      .next (passFree (retire s' (envOf s a) (writePair t o.d.toNat (BitVec.ofNat 64 st))) (envOf s a) [.dp o.d, .sx o.a])
    (h > 40959 → exec (.captResume o) s = .next (trap s a 0x02)) ∧
    (h ≤ 40959 → ∀ v g, SMap.find (getCore s (h / 64)).slots (h % 64) = some v → getGroup s v.gid = some g →
      (g.state ≠ .halted → exec (.captResume o) s = done s 1) ∧
      (g.state = .halted → (g.slices.any fun p => (getCore s p.1).halted) = true → exec (.captResume o) s = done s 3) ∧
      (g.state = .halted → (g.slices.any fun p => (getCore s p.1).halted) = false →
        exec (.captResume o) s = done (resumeGroup s v.gid) 0)))

/-! ## Steps of the device -/

/-- R364, R369 to R381 and R346 to R363: what a cold reset, the host's commands of BAR0, the check of an image, a quote, the clamps, an SRAM
error, the heartbeat, the dispatch of a record, a sextant exception, a service-lane trap, frozen entries and the checkpoint do where they
are due. It rests on readings and choices of the model: notes/assumptions 27, 34, 40, 44, 47, 77, 78. -/
def Obligations.BringupAndHaltSteps : Prop :=
  (∀ s, ∃ t, exec .coldReset s = .next t ∧ t.dev = State.reset.dev ∧ t.cores = State.reset.cores ∧ t.dies = State.reset.dies ∧
    t.ctxs = State.reset.ctxs ∧ t.groups = State.reset.groups ∧ t.mem = State.reset.mem ∧ t.host = s.host ∧
    (s.arg.nums = [] → t.stk = State.reset.stk)) ∧
  (∀ s, PortClear s s.arg.n1 → s.arg.n2 % 16 = 1 →
    (s.dev.state = .rom ∨ s.dev.state = .failed → exec .fwcmd s = .next { s with
      uid := s.uid + 1
      dev := { s.dev with
        state := .loading, fcode := 0, fwver := 0, fwport := s.arg.n1, ldAdr := s.dev.fwadr.toNat, ldLen := s.dev.fwlen } }) ∧
    (s.dev.state = .running → ∃ t, exec .fwcmd s = .next t ∧ t.dev.state = .loading ∧ t.dev.meas = [])) ∧
  (∀ s, s.dev.state = .loading → s.dev.resetDue = false →
    (s.arg.flag = false ∨ linkUp s (portLink s.dev.fwport) = false →
      let r := raiseErrs s (portLink s.dev.fwport)
      exec .imageFetched s = .next { r with dev := { r.dev with state := .failed, fcode := 1, meas := [] } }) ∧
    (s.arg.flag = true → linkUp s (portLink s.dev.fwport) = true → admits s 0 0 = true → reaches s 0 (portDie s.dev.fwport) = true →
      let w := writeSlot s (hostBytes s s.dev.fwport s.dev.ldAdr (min s.dev.ldLen slotSize))
      exec .imageFetched s = .next { w with dev := { w.dev with state := .verify } })) ∧
  (∀ s, s.dev.state = .verify →
    let b := memBytes s slotPa (min s.dev.ldLen slotSize)
    let failed (c : Nat) : Host.Outcome State Fault Refusal :=
      .next { s with dev := { s.dev with state := .failed, fcode := c, meas := [] } }
    (headerOk s.dev.ldLen b = false → exec .imageFetched s = failed 2) ∧
    (headerOk s.dev.ldLen b = true → keyOk b = false → exec .imageFetched s = failed 3) ∧
    (headerOk s.dev.ldLen b = true → keyOk b = true → signatureOk s.dev.ldLen b = false → exec .imageFetched s = failed 4) ∧
    (headerOk s.dev.ldLen b = true → keyOk b = true → signatureOk s.dev.ldLen b = true →
      ∃ t, exec .imageFetched s = .next t ∧ t.dev.state = .running ∧ t.dev.fcode = 0 ∧ (getCtx t 0).state = .ready ∧
        t.dev.meas = (upTo 64).map (Config.shake256 b))) ∧
  (∀ s, PortClear s s.arg.n1 → s.arg.n2 = 1 → s.dev.qbusy = false → s.dev.state ≠ .reset →
    exec .qcmd s = .next { s with uid := s.uid + 1, dev := { s.dev with qbusy := true } }) ∧
  (∀ s, s.dev.qbusy = true → exec .quoteComplete s = .next { s with dev := { s.dev with
    qbusy := false, qbuf := quoteBody s ++ (upTo 29792).map (Config.identitySign (quoteBody s)) } }) ∧
  (∀ s, PortClear s s.arg.n1 →
    (s.dev.mbbusy = true → exec .mbdb s = .next (raiseErrs { s with uid := s.uid + 1 } (portLink s.arg.n1))) ∧
    (s.dev.mbbusy = false → (getDie s 0).sx.events.length < 255 → ∃ t, exec .mbdb s = .next t ∧ t.dev = { s.dev with mbbusy := true } ∧
      (getDie t 0).sx.events = (getDie s 0).sx.events ++ [{ kind := 2, code := 0, core := 0 }])) ∧
  (∀ s l, (s.dev.mbbusy = false ∨ s.dev.state ≠ .running → mailboxReply s l = s) ∧
    (mayReply s = true → mailboxReply s l = { s with dev := { s.dev with
      mbrsp := (padTo 256 l).take 256, mbbusy := false, msix := s.dev.msix + 1 } })) ∧
  (∀ s, s.arg.n1 ≤ 15 → (getDie s s.arg.n1).lastClamp + 10000 ≤ s.dev.tick → ∃ t, exec .thermalClampStep s = .next t ∧
    let v := getDie s s.arg.n1
    let u := getDie t s.arg.n1
    (s.arg.n2 ≥ 105 → u.hot = true) ∧ (s.arg.n2 < 100 → u.hot = false) ∧ (100 ≤ s.arg.n2 → s.arg.n2 < 105 → u.hot = v.hot) ∧
    (u.hot = true → 400 ≤ v.clock → u.clock = max 400 (v.clock - 100) ∧ u.hotDown + u.clock = v.hotDown + v.clock) ∧
    (u.hot = false → u.clock = v.clock + min 100 v.hotDown ∧ u.hotDown + u.clock = v.hotDown + v.clock) ∧
    u.lastClamp = s.dev.tick ∧ (∀ d, d ≠ s.arg.n1 → getDie t d = getDie s d)) ∧
  (∀ s, ∃ t, exec .powerClamp s = .next t ∧
    (s.arg.flag = true → ∃ n, n ≤ s.arg.n1 ∧ (∀ d, d < 16 → (getDie t d).clock = (getDie s d).clock - n ∧
      (1 ≤ (getDie s d).clock → 1 ≤ (getDie t d).clock)) ∧ (s.arg.n1 < 2000 → (∀ d, d < 16 → s.arg.n1 < (getDie s d).clock) → n = s.arg.n1)) ∧
    (s.arg.flag = false → ∀ d, d < 16 → (getDie t d).clock =
      max (getDie s d).clock (min (2000 - (getDie s d).hotDown) ((getDie s d).clock + s.arg.n1)))) ∧
  (∀ s, s.arg.hit = .corrected →
    exec .sramSoftError s = .next (modDie s s.arg.n1 fun v => { v with ecCorr := min (v.ecCorr + 1) (2 ^ 32 - 1) })) ∧
  (∀ s a r t, s.arg.hit = .register a r → r ≠ 0 → getThread s a = some t → ∃ s', exec .sramSoftError s = .next s' ∧
    getThread s' a = some { t with bad := r :: t.bad } ∧
    (getDie s' (envOf s a).die).ecUncorr = min ((getDie s (envOf s a).die).ecUncorr + 1) 0xFFFF) ∧
  (∀ s, s.dev.state = .running → (getCore s s.arg.n1).running = true → (getCore s s.arg.n1).halted = false →
    deadline s s.arg.n1 ≤ s.dev.tick → exec .heartbeatExpiry s = .next (haltCore s s.arg.n1 0x13 true)) ∧
  (∀ s r l, (getCore s s.arg.n1).recs.head? = some r → idleLane (getCore s s.arg.n1) = some l → (getCore s s.arg.n1).tvecSet = true →
    ∃ t, exec .recordDispatch s = .next t ∧ (getCore t s.arg.n1).recs = (getCore s s.arg.n1).recs.tail ∧
      getLane (getCore t s.arg.n1) l =
        { busy := true, trec := some r, th := freshThread (getCore s s.arg.n1).tvec (dieCycle s (dieOf s.arg.n1)) }) ∧
  (∀ s v r, (getDie s s.arg.n1).sx.events = v :: r → (getDie s s.arg.n1).sx.running = true → (getDie s s.arg.n1).sx.inExc = false →
    (getDie s s.arg.n1).sx.th.st = .ready → hasPend s (.sextant s.arg.n1) = false → ∃ t, exec .sextantException s = .next t ∧
      let x := (getDie s s.arg.n1).sx
      (getDie t s.arg.n1).sx = { x with
        epc := x.th.pc, causeKind := v.kind, causeCode := v.code, causeCore := v.core, inExc := true, events := r,
        th := { x.th with pc := x.vec } }) ∧
  (∀ s, (getLane (getCore s s.arg.n1) s.arg.n2).th.st = .trapped → (getLane (getCore s s.arg.n1) s.arg.n2).th.dispatched = false →
    let s1 := modLane s s.arg.n1 s.arg.n2 fun v => { v with th := { v.th with dispatched := true } }
    let code := (getLane (getCore s s.arg.n1) s.arg.n2).th.code
    exec .serviceLaneTrap s = .next (raiseEvent (if (getCore s s.arg.n1).halted then s1 else haltCore s1 s.arg.n1 code false)
      (dieOf s.arg.n1) 1 code (s.arg.n1 % 40))) ∧
  (∀ s, (getCore s s.arg.n1).freezing = false →
    exec .sbDiscard s = .next (wakeCaptures (modCore s s.arg.n1 fun k => { k with frozen := [] }))) ∧
  (∀ s t, sbMerge s ownReq s.arg.n1 = .ok t → exec .sbMerge s = .next t) ∧
  (∀ s req c, (getCore s c).freezing = true → sbMerge s req c = .wait (.shutter 1024 0) s ∧ sbDiscard s c = .wait (.shutter 1024 0) s) ∧
  (∀ s req c, (getCore s c).freezing = false → (getCore s c).frozen = [] → sbMerge s req c = .ok (wakeCaptures s)) ∧
  (∀ s req c x r, (getCore s c).freezing = false → (getCore s c).frozen = x :: r →
    let without (t : State) : State := modCore t c fun k => { k with frozen := k.frozen.filter fun y => y.id != x.id }
    (reaches s (dieOf c) x.home = false → sbMerge s req c = .wait .route s) ∧
    (reaches s (dieOf c) x.home = true →
      (∀ t, performWrite s { x.write c with req := req } = .ok t → sbMerge s req c = mergeFrom (without t) req c r) ∧
      (∀ w, performWrite s { x.write c with req := req } = .error (.wait w) → sbMerge s req c = .wait w s))) ∧
  (∀ s, ckReady s = true →
    exec .ckSave s = .next { s with dev := { s.dev with ck := .running, ckLoad := false, ckUnits := 0 } } ∧
    exec .ckLoad s = .next { s with dev := { s.dev with ck := .running, ckLoad := true, ckUnits := 0 } }) ∧
  (∀ s, s.dev.ck = .running → ∃ t, exec .ckAbort s = .next t ∧ (t.dev.ck = .failed ∨ t.dev.ck = .idle)) ∧
  (∀ s, s.dev.ck = .running → (∃ k ∈ s.stk, k.2.state ≠ .owned) → exec .ckDone s = .next s) ∧
  (∀ s d, s.dev.ck = .running → d < 16 → reaches s d (portDie (getDie s d).ckPort) = false → exec .ckDone s = .next s) ∧
  (∀ s, s.dev.ck = .running → s.dev.ckLoad = false → (∀ k ∈ s.stk, k.2.state = .owned) →
    (∀ d, d < 16 → reaches s d (portDie (getDie s d).ckPort) = true) →
    (anyPosted (cleanL2 s fun _ => true) fun _ _ => true) = false →
    ∃ t, exec .ckDone s = .next t ∧ (t.dev.ck = .done ∨ t.dev.ck = .failed))

/-- R318 to R324, R316, R376: accesses of the host and of peers through windows complete with data, with Unsupported Request where no
window serves them, and with a failure where the access faults; a request that has to wait is kept, and none is served before an earlier
write of its port, nor one that a host waits for while its port is closed; doorbells replace TAIL or raise ERRS; a peer's message is taken
with the flit that brought it; completions for the device, good, failed or late, for requests of threads, for store-buffer entries, and
for what else the device asked of a port; and a host link that is lost. It rests on choices of the model: notes/assumptions 16, 22, 29,
43, 76, 80. -/
def Obligations.HostSteps : Prop :=
  (∀ s, s.arg.n2 < 4096 → PortClear s s.arg.n1 →
    let s1 := (fresh s).2
    let st := (getCtx s s.arg.n2).state
    exec .doorbell s = .next (
      if s.dev.state = .running ∧ st ≠ .free ∧ st ≠ .scrubbing
      then modCtx s1 s.arg.n2 fun c => { c with tail := s.arg.v1.extractLsb' 0 32 }
      else raiseErrs s1 (portLink s.arg.n1))) ∧
  (∀ s q off n id, winServe s q.port off n = none → hostRead s q off n id = .ok (complete s q.port id 1 [])) ∧
  (∀ s q off n id h va b s1, winServe s q.port off n = some (h, va) →
    readRange s (hostAcc s q h va n) { charge := false } = .ok (b, s1) → hostRead s q off n id = .ok (complete s1 q.port id 0 b)) ∧
  (∀ s q off n id h va f, winServe s q.port off n = some (h, va) →
    readRange s (hostAcc s q h va n) { charge := false } = .error (.fault f) →
    hostRead s q off n id = .ok (complete (hostFault s q.port f) q.port id 2 [])) ∧
  (∀ s q off b id, winServe s q.port off b.length = none → hostWrite s q off b id = .ok (ackPeer s q.port id 1)) ∧
  (∀ s q off b id h va, winServe s q.port off b.length = some (h, va) →
    let a : Acc := { hostAcc s q h va b.length with kind := 1, write := true }
    (∀ ts s1 s2, checkPieces s a (piecesOf va b.length) [] = .ok (ts, s1) → hostPieces s1 q ts b = .ok s2 →
      hostWrite s q off b id = .ok (ackPeer s2 q.port id 0)) ∧
    (∀ f, checkPieces s a (piecesOf va b.length) [] = .error (.fault f) →
      hostWrite s q off b id = .ok (ackPeer (hostFault s q.port f) q.port id 2))) ∧
  (∀ s port id n, (port < 4 → ackPeer s port id n = s) ∧ (4 ≤ port → ackPeer s port id n = complete s port id n [])) ∧
  (∀ s q off (op : AtomOp) wide b c id h va t s1, portAtomic q.port op = true →
    let n := if wide then 8 else 4
    winServe s q.port off n = some (h, va) → va % n = 0 →
    check s { hostAcc s q h va n with kind := 3, write := true, plain := true, l1 := false } = .ok (t, s1) →
    (∀ f, hostAtomFault s1 op t = some f → hostAtomicAt s q off op wide b c id = .ok (complete (hostFault s q.port f) q.port id 2 [])) ∧
    (∀ old s2, hostAtomFault s1 op t = none →
      homeUpdate s1 (.host q.id) (portParty q.port) 4096 false t n (atomicBytes op n (b.toNat % 2 ^ (8 * n)) (c.toNat % 2 ^ (8 * n))) =
        .ok (old, s2) →
      hostAtomicAt s q off op wide b c id = .ok (complete s2 q.port id 0 old))) ∧
  (∀ s (op : AtomOp) t, paRegion t.frame = 3 → field t.frame 44 2 = 0 → op ≠ .add → op ≠ .exch → op ≠ .cas →
    hostAtomFault s op t = some { code := 5, va := t.va }) ∧
  (∀ s q off (op : AtomOp) wide b c id, portAtomic q.port op = false ∨ winServe s q.port off (if wide then 8 else 4) = none →
    hostAtomicAt s q off op wide b c id = .ok (complete s q.port id 1 [])) ∧
  (∀ op : AtomOp, (portAtomic 0 op = true ↔ op = .add ∨ op = .exch ∨ op = .cas) ∧ ∀ port, 4 ≤ port → portAtomic port op = true) ∧
  (∀ s q x, x ∈ s.hostq.takeWhile (fun x => x.id != q.id) → x.port = q.port → x.req.writes = true →
    tryHost s q = .error (.wait .pending)) ∧
  (∀ s q r, r ∈ s.repls → r.who = portParty q.port → q.req.writes = true → tryHost s q = .error (.wait .pending)) ∧
  (∀ s q, q.port < 4 → q.req.answered q.port = true → portOpen s q.port = false → tryHost s q = .error (.wait .pending)) ∧
  (∀ s q, hostTurn s q = true → (q.port < 4 → q.req.answered q.port = true → portOpen s q.port = true) → tryHost s q = match q.req with
    | .window (.read off n id) => hostRead s q off n id
    | .window (.write off b id) => hostWrite s q off b id
    | .window (.atomic off op wide b c id) => hostAtomicAt s q off op wide b c id
    | .window (.reserved _) => .ok (raiseErrs s (portLink q.port))
    | .doorbell ctx v => .ok (doorbell s q.port ctx v)
    | .bar0 off b => .ok (bar0Write s off b)
    | .bar0Read off n id => .ok (complete s q.port id 0 ((rangeFrom off n).map (bar0Byte s)))
    | .fwcmd v => .ok (fwcmd s q.port v)
    | .mbdb => .ok (mbdb s q.port)
    | .qcmd v => .ok (qcmd s v)) ∧
  (∀ s port req, let s1 := (fresh s).2
    let q : HostReq := { id := s.uid, port := port, req := req, view := windowsNow s1 }
    (∀ s2, tryHost s1 q = .ok s2 → hostArrive s port req = s2) ∧
    (∀ w, tryHost s1 q = .error (.wait w) →
      hostArrive s port req = joinWait { s1 with hostq := s1.hostq ++ [q] } (.host q.id) w)) ∧
  (∀ s id q s1, (s.hostq.find? fun q => q.id == id) = some q → tryHost s q = .ok s1 →
    serveHost s id = moveOn (leaveReq { s1 with hostq := s1.hostq.filter fun x => x.id != id } fun r => r == .host id)) ∧
  (∀ s port off n h va, winServe s port off n = some (h, va) →
    h = getHWin s (winOf port off).1 ∧ h.v = true ∧ exposes h port = true ∧ (winOf port off).2 + n ≤ 65536 * h.len ∧
    va = h.base * 65536 + (winOf port off).2) ∧
  (∀ s, s.arg.n1 < 4 → portOpen s s.arg.n1 = true →
    exec .hostWindowRead s = .next (hostArrive s s.arg.n1 (.window (.read s.arg.n2 s.arg.v1.toNat s.arg.n3))) ∧
    exec .hostWindowWrite s = .next (hostArrive s s.arg.n1 (.window (.write s.arg.n2 s.arg.bytes s.arg.n3))) ∧
    exec .hostAtomic s =
      .next (hostArrive s s.arg.n1 (.window (.atomic s.arg.n2 s.arg.op s.arg.flag s.arg.v1 s.arg.v2 s.arg.n3))) ∧
    (s.arg.n2 < 4096 → exec .doorbell s = .next (hostArrive s s.arg.n1 (.doorbell s.arg.n2 (s.arg.v1.extractLsb' 0 32)))) ∧
    exec .fwcmd s = .next (hostArrive s s.arg.n1 (.fwcmd s.arg.n2)) ∧ exec .mbdb s = .next (hostArrive s s.arg.n1 .mbdb) ∧
    exec .qcmd s = .next (hostArrive s s.arg.n1 (.qcmd s.arg.n2))) ∧
  (∀ s, s.arg.n1 ≤ 5 →
    (portOpen s (s.arg.n1 + 4) = true → (getLink s (portLink (s.arg.n1 + 4))).rx ≠ 0 → exec .peerRequest s = .next (hostArrive
      (modLink s (portLink (s.arg.n1 + 4)) fun k => { k with rx := k.rx - 1 }) (s.arg.n1 + 4) (.window s.arg.peer))) ∧
    (portOpen s (s.arg.n1 + 4) = false ∨ (getLink s (portLink (s.arg.n1 + 4))).rx = 0 → exec .peerRequest s = .next s)) ∧
  (∀ s, exec .completionTimeout s = .next (completionFor s s.arg.n1 false [])) ∧
  (∀ s port, answerPort s s.arg.n1 = some port →
    (portOpen s port = true → port < 4 → exec .hostCompletion s = .next (completionFor s s.arg.n1 s.arg.flag s.arg.bytes)) ∧
    (portOpen s port = true → 4 ≤ port → (getLink s (portLink port)).rx ≠ 0 → requestOut s port s.arg.n1 = true → exec .hostCompletion s =
      .next (completionFor (modLink s (portLink port) fun k => { k with rx := k.rx - 1 }) s.arg.n1 s.arg.flag s.arg.bytes)) ∧
    (portOpen s port = false ∨ (4 ≤ port ∧ ((getLink s (portLink port)).rx = 0 ∨ requestOut s port s.arg.n1 = false)) →
      exec .hostCompletion s = .next s)) ∧
  (∀ s, answerPort s s.arg.n1 = none → exec .hostCompletion s =
    .next (if 4 ≤ s.arg.n2 ∧ s.arg.n2 ≤ 9 ∧ portBrings s s.arg.n2 = true then takeRx s s.arg.n2 else s)) ∧
  (∀ s id p data, findHost s id = some p →
    completionFor s id false data = wakeCaptures (failPend (raiseErrs s (portLink (pendPort s p))) p 0x08) ∧
    (data.length = widthBytes p.width → completionFor s id true data =
      wakeCaptures (if p.atomic then atomCompletes (dropPend s p.id) p data else loadCompletes (dropPend s p.id) p data))) ∧
  (∀ s p code, p.drop = true ∨ discarded s p.who = true → failPend s p code = dropPend s p.id) ∧
  (∀ s a, discarded s a = true ↔ ((envOf s a).inGroup = true ∧ ((envOf s a).group s).state = .dropping) ∨
    ∀ t, getThread s a = some t → t.st = .exited) ∧
  (∀ s p q code t, p.drop = false → discarded s p.who = false → getThread s p.who = some t → oldestPend s p.who = some q →
    let s1 := { s with pends := s.pends.map fun x => if x.id = p.id then { x with fail := some code } else x }
    (q = p → placed s1 (fun r => r == .agent p.who) = false →
      failPend s p code = trap (dropPend (rewind s1 { p with fail := some code }) p.id) p.who code 0 p.va) ∧
    (q.id ≠ p.id → q.fail = none → failPend s p code = s1)) ∧
  (∀ s id c x data, findHost s id = none → findSent s id = some (c, x) →
    completionFor s id true data = wakeDrains (dropEntry (hostMasked s (x.write c)) c x) c ∧
    completionFor s id false data = wakeDrains (dropEntry (raiseErrs s (portLink (portOf s x.ctx x.frame))) c x) c) ∧
  (∀ s id q data ok, findHost s id = none → findSent s id = none → findAsk s id = some q →
    let s1 := if ok then (if q.write = false ∧ data.length = 128 then hostPut s q.port q.addr data else s) else raiseErrs s (portLink q.port)
    let s2 := { s1 with asks := s1.asks.map fun x => if x.id = q.id then { x with done := true, ok := ok } else x }
    (∀ a, q.req = .agent a →
      completionFor s id ok data = wakeWhere s2 fun b w => b == a && w == .ask q.port q.addr q.write) ∧
    ((∀ a, q.req ≠ .agent a) → completionFor s id ok data = wakeCaptures s2)) ∧
  (∀ s, s.arg.n1 ≤ 3 → linkUp s (portLink s.arg.n1) = true →
    (s.arg.flag = true → exec .hostLinkLost s = .next (modLink s (portLink s.arg.n1) fun k => { k with state := .retrain })) ∧
    (s.arg.flag = false → ∃ t, exec .hostLinkLost s = .next t ∧ (getLink t (portLink s.arg.n1)).state = .down ∧
      (getLink t (portLink s.arg.n1)).width = 0 ∧ (∀ l, l ≠ portLink s.arg.n1 → getLink t l = getLink s l) ∧
      { t with links := s.links } = s))

/-- R95, R98 to R101, R103, R110 to R112, R136 to R143, R149 to R156, R163: the start and the end of each level of work, the placing, the
issue, the drop and the end of groups, where they are due. R94, R95, R103: a launch is created with the next id of its context, its record's
fields and a counter that reads zero and is held; at its end the counter has COMPLETE and is held no more, and its parent counts it. R101:
Avyth takes the variant of the largest budget that fits. R136 to R138, R152: a group takes the lowest free slot of each of its cores, the
one dropped last before the next of its grid. It rests on readings and choices of the model: notes/assumptions 14, 20, 28, 29, 36, 49, 54,
62, 68, 69, 72. -/
def Obligations.WorkSteps : Prop :=
  (∀ s b s1 s2 r j s3, let ctx := s.arg.n1
    let c := getCtx s ctx
    let va := ringVa c c.head
    c.head ≠ c.tail → c.job = none → c.state = .ready ∨ c.state = .active → devRead s ctx va 16 16 = .ok (some b, s1) →
    field (recWord b 0) 56 8 = 0 → devRead s1 ctx (recWord b 0) 16 16 = .ok (r, s2) → r.bind (jobOf va) = some j →
    counterHeld s2 ctx j.jcnt = false → writeSt s2 ctx va 1 0 = .ok s3 →
    exec .hostQueueEntryTaken s = .next (modCtx (counterStart (modCtx s3 ctx fun c => { c with head := c.head + 1 }) ctx j.jcnt) ctx
      fun c => { c with job := some j })) ∧
  (∀ s s1, let ctx := s.arg.n1
    let c := getCtx s ctx
    c.head ≠ c.tail → c.job = none → c.state = .faulted → writeSt s ctx (ringVa c c.head) 3 0 = .ok s1 →
    exec .hostQueueEntryTaken s = .next (modCtx s1 ctx fun c => { c with head := c.head + 1 })) ∧
  (∀ s j b s1, let ctx := s.arg.n1
    let c := getCtx s ctx
    c.job = some j → ctxRuns c = true → j.phase = none → j.cancelled = false → j.index < j.nph →
    devRead s ctx (j.phtab + 16 * j.index) 16 16 = .ok (some b, s1) →
    (phaseEntry b = none → exec .phaseStart s = .next (endPhase (jobMalformed s1 ctx) ctx)) ∧
    (∀ gtab ng pcnt kernels s2, phaseEntry b = some (gtab, ng, pcnt) → counterHeld s1 ctx pcnt = false →
      phaseKernels s1 ctx gtab 0 ng = .ok (kernels, s2) →
      let run : PhaseRun := { cnt := pcnt, ng := ng, gtab := gtab, budget := c.budget, kernels := kernels }
      exec .phaseStart s = .next (modJob (counterStart s2 ctx pcnt) ctx fun j => { j with phase := some run }))) ∧
  (∀ s p r s1, let ctx := s.arg.n1
    let i := s.arg.n2
    let start (s : State) : State := modPhase s ctx fun p => { p with started := i :: p.started }
    (getCtx s ctx).job.bind (·.phase) = some p → ctxRuns (getCtx s ctx) = true → p.cancelled = false → i < p.ng →
    p.started.contains i = false → readGraph s ctx p.gtab i = .ok (r, s1) →
    (r = none → exec .graphStart s = .next (endGraph (jobMalformed (start s1) ctx) ctx)) ∧
    (∀ pdir n gcnt ntab, r = some (pdir, n, gcnt, ntab) → counterHeld s1 ctx gcnt = true →
      exec .graphStart s = .next (endGraph (phaseFaulted (start s1) ctx) ctx)) ∧
    (∀ pdir n gcnt ntab nodes s2, r = some (pdir, n, gcnt, ntab) → counterHeld s1 ctx gcnt = false →
      readNodes s1 ctx ntab 0 n = .ok (nodes, s2) → exec .graphStart s = .next (beginGraph (start s2) ctx i pdir gcnt nodes))) ∧
  (∀ s r n x s1, getGraph s s.arg.n1 = some r → r.nodes[s.arg.n2]? = some n → ctxRuns (getCtx s r.ctx) = true →
    nodeReady r s.arg.n2 = true → readNode s r n s.arg.n2 = .ok (x, s1) →
    (x = none → exec .nodeLaunchStart s = .next (endNode (jobMalformed s1 r.ctx) s.arg.n1 s.arg.n2)) ∧
    (∀ param kd c, x = some (param, kd) → n.lrec.cnt = some c → counterHeld s1 r.ctx c = true →
      exec .nodeLaunchStart s = .next (endNode (graphFaulted s1 s.arg.n1) s.arg.n1 s.arg.n2)) ∧
    (∀ param kd, x = some (param, kd) → (∀ c, n.lrec.cnt = some c → counterHeld s1 r.ctx c = false) →
      let y := createLaunch s1 r.ctx kd n.lrec (param % 2 ^ 56) 0 (.graph s.arg.n1) (some s.arg.n1)
      exec .nodeLaunchStart s = .next (modGraph y.2.2 s.arg.n1 fun r =>
        { r with nodes := modNth r.nodes s.arg.n2 fun n => { n with launch := some y.1 } }))) ∧
  (∀ s u l, s.arg.level = .launch u → getLaunch s u = some l → l.complete = false → l.ended ≥ l.total → l.kids = 0 →
    launchDrained s u = true → exec .levelComplete s = .next (completeLaunch s u l)) ∧
  (∀ s g r, s.arg.level = .graph g → getGraph s g = some r → (r.nodes.all (·.ended)) = true →
    exec .levelComplete s = .next (endGraph (counterComplete { s with graphs := SMap.del s.graphs g } r.ctx r.cnt) r.ctx)) ∧
  (∀ s ctx p, s.arg.level = .phase ctx → (getCtx s ctx).job.bind (·.phase) = some p → p.ended ≥ p.ng →
    exec .levelComplete s = .next (endPhase (counterComplete s ctx p.cnt) ctx)) ∧
  (∀ s ctx j s1, s.arg.level = .job ctx → (getCtx s ctx).job = some j → j.phase = none → j.index ≥ j.nph →
    let s0 := counterComplete s ctx j.jcnt
    writeSt s0 ctx j.entryVa (finalSt (counterGet s0 ctx j.jcnt)) j.mrec = .ok s1 →
    exec .levelComplete s = .next (modCtx s1 ctx fun c => { c with job := none })) ∧
  (∀ s l flat l1, getLaunch s s.arg.n1 = some l → nextGroup l = some (flat, l1) → ctxRuns (getCtx s l.ctx) = true →
    coresTake s l.kd s.arg.n2 s.arg.nums = true →
    exec .groupPlacing s = .next (placeGroup s s.arg.n1 l1 flat s.arg.n2 s.arg.nums)) ∧
  (∀ s g, getGroup s s.arg.n1 = some g → g.state = .placing → (∀ p ∈ g.slices, reclaimed s p.1 = true) → ∃ t, exec .placementComplete s = .next t ∧
    getGroup t s.arg.n1 = some { g with
      state := .running
      threads := (upTo (g.gx * g.gy * g.gz)).map fun _ => freshThread g.entry (dieCycle s (dieOf (sliceOf g 0).1)) }) ∧
  (∀ pc n, freshThread pc n = { pc := pc, stamp := n } ∧ ∀ r, readX (freshThread pc n) r = 0) ∧
  (∀ s g, getGroup s s.arg.n1 = some g → hasEntries s s.arg.n1 = false →
    (g.state = .draining → exec .groupRetire s = .next (endUnits (freeGroup s s.arg.n1) g.launch 1)) ∧
    (g.state = .dropping → (∀ t ∈ g.threads, t.view = none) → exec .droppedGroupFree s = .next (match g.dropping with
      | .cancel => endUnits (freeGroup s s.arg.n1) g.launch 1
      | .preempt => modLaunch (freeGroup s s.arg.n1) g.launch fun l => { l with requeue := g.flat :: l.requeue }))) ∧
  (∀ s g, getGroup s s.arg.n1 = some g → g.state = .running → g.drop.isSome = true → isMasked g = false → s.bundle = [] →
    exec .dropCommit s = .next (commitDrop s s.arg.n1)) ∧
  (∀ s gid, groupAt s s.arg.n1 = some gid → exec .groupDrop s = .next (requestDrop s gid .preempt) ∧
    (∀ g, getGroup s gid = some g → g.state = .halted → exec .groupKill s = .next (killGroup s gid))) ∧
  (∀ s o n, replaceDue s s.arg.n1 = true → replacedSlot s s.arg.n1 = some o → (waitingSlots s s.arg.n1).head? = some n →
    exec .activeSetReplace s = .next (setActive (setActive s s.arg.n1 o none) s.arg.n1 n (some (coreCycle s s.arg.n1)))) ∧
  (∀ s, let c := s.arg.n1
    let s1 := fillActive s c
    let l := cycleBundles s1 c
    let now := some (dieCycle s1 (dieOf c))
    (l = [] ∨ (getCore s1 c).issued = now → exec .issueCycle s = .next s1) ∧
    (l ≠ [] → (getCore s1 c).issued ≠ now → exec .issueCycle s = .next (l.foldl fuse (modCore s1 c fun k => { k with issued := now })))) ∧
  (∀ s c, (cycleBundles s c).length ≤ 4 ∧ ∀ b ∈ cycleBundles s c, b ≠ []) ∧
  (∀ l p, (formBundle l p).length ≤ 32 ∧ ∀ x ∈ formBundle l p, ∀ y ∈ formBundle l p,
    x ∈ l ∧ x.port = p ∧ x.slot = y.slot ∧ x.pc = y.pc ∧ (x.tid % 32 = y.tid % 32 → x = y)) ∧
  (∀ s ctx kd (r : LaunchRec) param depth parent graph,
    let y := createLaunch s ctx kd r param depth parent graph
    y.1 = s.uid ∧ y.2.1 = (if (getCtx s ctx).nextLid = 0 then 1 else (getCtx s ctx).nextLid) ∧ y.2.1 ≠ 0 ∧
    (getCtx y.2.2 ctx).nextLid = y.2.1 + 1 ∧
    (∃ v, v = (phaseVariant (takeLid s ctx).2 ctx kd graph.isSome).1 ∧ getLaunch y.2.2 y.1 = some
      { ctx := ctx, lid := y.2.1, depth := depth, kd := kd, variant := v, param := param, lx := r.lx, ly := r.ly, lz := r.lz
        cnt := r.cnt, parent := parent, graph := graph, phase := ((getCtx s ctx).job.map (·.index)).getD 0 }) ∧
    (∀ u, u ≠ y.1 → getLaunch y.2.2 u = getLaunch s u) ∧ (r.cnt = none → y.2.2.mem = s.mem) ∧
    (∀ i, r.cnt = some i → counterHeld y.2.2 ctx i = true ∧ (MemOk s → counterGet y.2.2 ctx i = 0))) ∧
  (∀ (kd : KDesc) n, avythVariant n kd ≤ kd.nvar ∧
    (n ≠ 0 → (∀ i, i ≤ kd.nvar → n < 65536 * nthD kd.buds i 0) → avythVariant n kd = 0) ∧
    (∀ i, i ≤ kd.nvar → 65536 * nthD kd.buds i 0 ≤ n → 65536 * nthD kd.buds (avythVariant n kd) 0 ≤ n ∨ n = 0) ∧
    (∀ i, i ≤ kd.nvar → n = 0 ∨ 65536 * nthD kd.buds i 0 ≤ n → nthD kd.buds i 0 ≤ nthD kd.buds (avythVariant n kd) 0)) ∧
  (∀ s u (l : Launch), getLaunch s u = some l → let t := completeLaunch s u l
    (∀ p, l.parent = .launch p → p ≠ u → getLaunch t u = some { l with complete := true, started := true } ∧
      getLaunch t p = (getLaunch s p).map fun q => { q with kids := q.kids - 1 }) ∧
    (∀ g r i, l.parent = .graph g → getGraph s g = some r → indexOf r.nodes (fun n => n.launch == some u) = some i →
      getLaunch t u = some { l with complete := true, started := true } ∧
      getGraph t g = some { r with nodes := modNth r.nodes i fun n => { n with ended := true } } ∧
      (MemOk s → l.cnt ≠ some r.cnt → r.cnt < 1024 → (∀ j, l.cnt = some j → j < 1024) → l.ctx = r.ctx →
        counterGet t r.ctx r.cnt = countDone (counterGet s r.ctx r.cnt) 1)) ∧
    (∀ i p, l.cnt = some i → l.parent = .launch p → counterHeld t l.ctx i = false ∧ (MemOk s →
      counterGet t l.ctx i = withFlag (counterGet s l.ctx i) 60))) ∧
  (∀ s u (l : Launch) flat spans cores, (∀ c ∈ cores, (getCore s c).l1 = []) → cores.Nodup →
    let t := placeGroup s u l flat spans cores
    let slices := cores.map fun c => (c, (freeSlot s c).getD 0)
    getGroup t s.uid = some (placedGroup l u flat spans slices) ∧ getLaunch t u = some l ∧ (getCtx t l.ctx).state = .active ∧
    (∀ r c n, slices[r]? = some (c, n) → r < 8 → SMap.find (getCore t c).slots n = some { gid := s.uid, rank := r })) ∧
  (∀ s c n, freeSlot s c = some n → n < 64 ∧ SMap.find (getCore s c).slots n = none ∧
    ∀ m, m < n → (SMap.find (getCore s c).slots m).isSome = true) ∧
  (∀ (l : Launch) flat l', nextGroup l = some (flat, l') → l'.started = true ∧
    ((∃ r, l.requeue = flat :: r ∧ l'.requeue = r ∧ l'.next = l.next) ∨
      (l.requeue = [] ∧ flat = l.next ∧ l.next < l.total ∧ l'.next = l.next + 1 ∧ l'.requeue = []))) ∧
  (∀ s kd spans cores, coresTake s kd spans cores = true → let p := (kd.gx * kd.gy * kd.gz + 31) / 32
    1 ≤ spans ∧ cores.Nodup ∧ cores.length ≤ 8 ∧ cores.length = (p + spans - 1) / spans ∧
    ∀ c ∈ cores, c < 640 ∧ (getCore s c).running = true ∧ (getCore s c).halted = false ∧ (freeSlot s c).isSome = true)

/-- R71 to R89, R110, R118, R206, R212, R235, R280, R322, R347, R381: the commands and the control-register writes of the device take
effect where they are allowed and change nothing where they are not, and quiescing, capture and scrubbing end. R82: CTXCNT is written in
LOADED alone, and the 1024 counters of the store it names then read 0. R83: a valid slot counts in MAPS of the aperture it names. R87: a
request takes a token of its context's bucket at the die, which gains RATE a microsecond up to DEPTH; of those that wait at a stack's
controllers the deadline class is served first, but one bulk request in eight. RELEASE begins scrubbing at once, and writes the statuses
due, each once, before the context becomes FREE. It rests on readings and choices of the model: notes/assumptions 29, 32, 42, 45, 53, 67,
68, 79, 81. -/
def Obligations.CommandSteps : Prop :=
  (∀ s, (getCtx s s.arg.n1).state = .free → exec .ctxLoad s = .next (fillBuckets (modCtx s s.arg.n1 fun c =>
    { c with state := .loaded, halted := false, fcode := 0, key := 0, wclass := 0, lat := false, rate := 0, depth := 0xFFFF, budget := 0,
             cnt := 0, slots := [], tail := 0, head := 0, nextLid := 1, held := [], job := none }) s.arg.n1)) ∧
  (∀ s, (getCtx s s.arg.n1).state ≠ .free → exec .ctxLoad s = .next s) ∧
  (∀ s, (getCtx s s.arg.n1).state = .loaded → (getCtx s s.arg.n1).cnt ≠ 0 →
    exec .ctxStart s = .next (modCtx s s.arg.n1 fun c => { c with state := .ready })) ∧
  (∀ s, (getCtx s s.arg.n1).state = .loaded → (getCtx s s.arg.n1).cnt = 0 → exec .ctxStart s = .next s) ∧
  (∀ s, (getCtx s s.arg.n1).state = .ready ∨ (getCtx s s.arg.n1).state = .active → exec .ctxQuiesce s =
    .next ((ctxGroups s s.arg.n1).foldl (fun s g => requestDrop s g .preempt)
      (modCtx s s.arg.n1 fun c => { c with state := .quiescing }))) ∧
  (∀ s, (getCtx s s.arg.n1).state ≠ .ready → (getCtx s s.arg.n1).state ≠ .active → exec .ctxQuiesce s = .next s) ∧
  (∀ s, (getCtx s s.arg.n1).state ≠ .suspended → exec .ctxResume s = .next s) ∧
  (∀ s, ctxHeld (getCtx s s.arg.n1).state = false → exec .ctxFault s = .next s ∧ exec .ctxhqpWrite s = .next s) ∧
  (∀ s, (getCtx s s.arg.n1).state = .quiescing → ctxGroups s s.arg.n1 = [] → ctxEntries s s.arg.n1 = false →
    exec .ctxQuiesced s = .next (modCtx s s.arg.n1 fun c => { c with state := .suspended })) ∧
  (∀ s, (getCtx s s.arg.n1).state = .suspended →
    exec .ctxResume s = .next (modCtx s s.arg.n1 fun c => { c with state := .ready })) ∧
  (∀ s, ctxHeld (getCtx s s.arg.n1).state = true → exec .ctxFault s =
    .next ((ctxGroups s s.arg.n1).foldl (fun s g => haltGroup s g 0x14)
      (modCtx s s.arg.n1 fun c => { c with state := .faulted, halted := false, fcode := 0 }))) ∧
  (∀ s, (getCtx s s.arg.n1).state = .faulted → (s.groups.all fun g => g.2.ctx != s.arg.n1 || g.2.state == .halted) = true →
    exec .ctxCaptureDone s = .next (modCtx s s.arg.n1 fun c => { c with halted := true })) ∧
  (∀ s, let ctx := s.arg.n1
    let c := getCtx s ctx
    let allowed : Prop := ctxIdle c.state = true ∨ (c.state = .faulted ∧ c.halted = true)
    (¬ allowed → exec .ctxRelease s = .next s) ∧
    (allowed → exec .ctxRelease s = .next (releaseOn
      (modCtx (dropFrames (dropWork ((ctxGroups s ctx).foldl killGroup s) ctx) ctx) ctx fun c =>
        { c with state := .scrubbing, halted := false, job := none, rel := some (c.job.map fun j => (j.entryVa, j.mrec)) }) ctx))) ∧
  (∀ s ctx, (∀ s1, endJob s ctx = (false, s1) → releaseOn s ctx = s1) ∧
    (∀ s1, endJob s ctx = (true, s1) →
      let n := min ((getCtx s1 ctx).tail - (getCtx s1 ctx).head).toNat (2 ^ ((getCtx s1 ctx).hqSize + 4))
      (∀ s2, refuseEntries s1 ctx n = (false, s2) → releaseOn s ctx = s2) ∧
      (∀ s2, refuseEntries s1 ctx n = (true, s2) → releaseOn s ctx = releaseEnd s2 ctx))) ∧
  (∀ s ctx, releaseEnd s ctx = beginScrub (dropSlots (modCtx (leaveReq s fun r => r == .device ctx) ctx fun c =>
    { c with head := c.tail, rel := none }) ctx) ctx) ∧
  (∀ s ctx, ((∀ va m, (getCtx s ctx).rel ≠ some (some (va, m))) → endJob s ctx = (true, s)) ∧
    (∀ va m, (getCtx s ctx).rel = some (some (va, m)) →
      (∀ s1, writeSt s ctx va 5 m = .ok s1 → endJob s ctx = (true, modCtx s1 ctx fun c => { c with rel := some none })) ∧
      (∀ w, writeSt s ctx va 5 m = .error w → endJob s ctx = (false, devWait s ctx w)))) ∧
  (∀ s ctx, refuseEntries s ctx 0 = (true, s) ∧
    (∀ n s1, writeSt s ctx (ringVa (getCtx s ctx) (getCtx s ctx).head) 3 0 = .ok s1 →
      refuseEntries s ctx (n + 1) = refuseEntries (modCtx s1 ctx fun c => { c with head := c.head + 1 }) ctx n) ∧
    (∀ n w, writeSt s ctx (ringVa (getCtx s ctx) (getCtx s ctx).head) 3 0 = .error w →
      refuseEntries s ctx (n + 1) = (false, devWait s ctx w))) ∧
  (∀ s, s.arg.n1 < 4096 → (getCtx s s.arg.n1).state = .scrubbing → (getCtx s s.arg.n1).rel.isSome = true →
    exec .scrubComplete s = .next (releaseOn s s.arg.n1)) ∧
  (∀ s, s.arg.n1 < 4096 → (getCtx s s.arg.n1).state = .scrubbing → (getCtx s s.arg.n1).rel = none → scrubbed (scrubCaches s s.arg.n1) s.arg.n1 = true →
    ∃ t, exec .scrubComplete s = .next t ∧ (getCtx t s.arg.n1).state = .free) ∧
  (∀ s, 4096 ≤ s.arg.n1 → s.arg.n1 < 8192 → (getAp s (s.arg.n1 - 4096)).state = .scrubbing →
    scrubbed (scrubCaches s s.arg.n1) s.arg.n1 = true →
    ∃ t, exec .scrubComplete s = .next t ∧ (getAp t (s.arg.n1 - 4096)).state = .free) ∧
  (∀ s, let a := getAp s s.arg.n1
    a.state = .free → a.len ≠ 0 → vaOk (a.base * 65536) = true →
    vaPlc (a.base * 65536) = vaPlc (a.base * 65536 + 65536 * a.len - 1) → a.base * 65536 + 65536 * a.len ≤ 2 ^ 56 →
    exec .apOpen s = .next (setAp s s.arg.n1 { a with state := .live })) ∧
  (∀ s, let a := getAp s s.arg.n1
    a.state ≠ .free ∨ a.len = 0 ∨ vaOk (a.base * 65536) = false ∨
      vaPlc (a.base * 65536) ≠ vaPlc (a.base * 65536 + 65536 * a.len - 1) ∨ 2 ^ 56 < a.base * 65536 + 65536 * a.len →
    exec .apOpen s = .next s) ∧
  (∀ s, (getAp s s.arg.n1).state ≠ .live ∨ (getAp s s.arg.n1).maps ≠ 0 → exec .apRelease s = .next s) ∧
  (∀ s, (getAp s s.arg.n1).state = .live → (getAp s s.arg.n1).maps = 0 → exec .apRelease s =
    .next (beginScrub (setAp s s.arg.n1 { getAp s s.arg.n1 with state := .scrubbing }) (4096 + s.arg.n1))) ∧
  (∀ s t, (writeCtxcnt s s.arg.n1 s.arg.v1.toNat = .ok t → exec .ctxcntWrite s = .next t ∧
      (getCtx t s.arg.n1).cnt = field s.arg.v1.toNat 13 35 * 2 ^ 13) ∧
    (writeCtxap s s.arg.n1 s.arg.n2 s.arg.v1.toNat = .ok t → exec .ctxapWrite s = .next t ∧
      SMap.get (getCtx t s.arg.n1).slots s.arg.n2 0 = BitVec.ofNat 15 s.arg.v1.toNat)) ∧
  (∀ s, ctxHeld (getCtx s s.arg.n1).state = true →
    exec .ctxhqpWrite s = .next (modCtx s s.arg.n1 fun c => { c with tail := s.arg.v1.extractLsb' 0 32 })) ∧
  (∀ s, exec .tvecWrite s = .next (modCore s s.arg.n1 fun k =>
    { k with tvec := BitVec.ofNat 64 (field s.arg.v1.toNat 3 53 * 8), tvecSet := true })) ∧
  (∀ s, bit s.arg.v1.toNat 12 = false → ∃ t, exec .hwinbWrite s = .next t ∧ (getHWin t s.arg.n1).v = false ∧
    (getHWin t s.arg.n1).apn = field s.arg.v1.toNat 0 12) ∧
  (∀ s, bit s.arg.v1.toNat 12 = true → let h := getHWin s s.arg.n1
    let a := getAp s (field s.arg.v1.toNat 0 12)
    h.len = 0 ∨ a.state ≠ .live ∨ h.base < a.base ∨ a.base + a.len < h.base + h.len → exec .hwinbWrite s = .next s) ∧
  (∀ s, (getSem (getCore s (s.arg.n1 / 32)) (s.arg.n1 % 32)).waiters = [] → exec .semFree s =
    .next (modSem s (s.arg.n1 / 32) (s.arg.n1 % 32) fun m => { m with owner := none, value := 0, ceil := 0 })) ∧
  (∀ s, exec .faultPop s = .next (modDie s s.arg.n1 fun v => { v with faults := v.faults.tail }) ∧
    exec .faultClearOvf s = .next (modDie s s.arg.n1 fun v => { v with ovf := false }) ∧
    exec .eccClear s = .next (modDie s s.arg.n1 fun v => { v with ecCorr := 0, ecUncorr := 0 }) ∧
    exec .frameFree s = .next (modFrame s (s.arg.n1 / 64) (s.arg.n1 % 64) fun _ => {})) ∧
  (∀ s, (getTile (getCore s (s.arg.n1 / 16)) (s.arg.n1 % 16)).owner.isSome = true →
    entryNames (getCore s (s.arg.n1 / 16)) (s.arg.n1 % 16) = false →
    exec .tileFree s = .next (modTile s (s.arg.n1 / 16) (s.arg.n1 % 16) fun _ => tileFree)) ∧
  (∀ s, (getTile (getCore s (s.arg.n1 / 16)) (s.arg.n1 % 16)).owner = none ∨
    entryNames (getCore s (s.arg.n1 / 16)) (s.arg.n1 % 16) = true → exec .tileFree s = .next s) ∧
  (∀ s, (getSem (getCore s (s.arg.n1 / 32)) (s.arg.n1 % 32)).waiters ≠ [] → exec .semFree s = .next s) ∧
  (∀ s, let d := s.arg.n1
    let c := getCtx s s.arg.n2
    let us := (s.dev.tick - SMap.get (getDie s d).lastToken s.arg.n2 0) / 1000
    d ≤ 15 → s.arg.n2 ≤ 4095 → us ≠ 0 → c.rate ≠ 0 →
      let t := accrue s d s.arg.n2
      SMap.get (getDie t d).buckets s.arg.n2 c.depth = min c.depth (SMap.get (getDie s d).buckets s.arg.n2 c.depth + us * c.rate) ∧
      ((getDie s d).tokq = [] → exec .tokenArrival s = .next t) ∧
      ((getDie s d).tokq ≠ [] → exec .tokenArrival s = .next (moveOn t))) ∧
  (∀ s r ctx d line t, takeToken s r ctx d line = some t → t ≠ s →
    let k := paStack (128 * line)
    let s1 := if (getCtx s ctx).rate = 0 then s else accrue s d ctx
    (∀ y ∈ tokenWaiters s1 d k, y.isOf r ctx line = false →
      ((getCtx s ctx).lat = false → SMap.get (getDie s d).dlRun k 0 < 7 → (getCtx s y.ctx).lat = false) ∧
      ((getCtx s ctx).lat = true → 7 ≤ SMap.get (getDie s d).dlRun k 0 → (getCtx s y.ctx).lat = true)) ∧
    ((getCtx s ctx).rate ≠ 0 → SMap.get (getDie s1 d).buckets ctx (getCtx s ctx).depth ≠ 0 ∧
      SMap.get (getDie t d).buckets ctx (getCtx s ctx).depth = SMap.get (getDie s1 d).buckets ctx (getCtx s ctx).depth - 1) ∧
    (getDie t d).tokq = (getDie s d).tokq.filter fun x => !x.isOf r ctx line) ∧
  (∀ s d k x, x ∈ tokenWaiters s d k ↔ x ∈ (getDie s d).tokq ∧ x.stack = k ∧ hasToken s d x.ctx = true ∧
    ∀ y ∈ (getDie s d).tokq.takeWhile (fun y => !(y == x)), y.ctx = x.ctx → y.line ≠ x.line) ∧
  (∀ s d r ctx line, let t := wantToken s d r ctx line
    ((∃ x ∈ (getDie s d).tokq, x.isOf r ctx line = true) → t = s) ∧
    ((∀ x ∈ (getDie s d).tokq, x.isOf r ctx line = false) →
      (getDie t d).tokq = (getDie s d).tokq ++ [{ req := r, ctx := ctx, line := line, seq := s.uid }])) ∧
  (∀ s r ctx d line, (getCtx s ctx).rate = 0 → (getDie s d).tokq = [] → SMap.get (getDie s d).dlRun (paStack (128 * line)) 0 = 0 →
    takeToken s r ctx d line = some s) ∧
  (∀ s r ctx d line x l, (getDie s d).tokq = x :: l → x.ctx = ctx → x.line = line → x.req ≠ r →
    takeToken s r ctx d line = none) ∧
  (∀ s r ctx d line, (getCtx s ctx).rate ≠ 0 → (getDie s d).tokq = [] →
    let t := accrue s d ctx
    let n := SMap.get (getDie t d).buckets ctx (getCtx s ctx).depth
    (n = 0 → takeToken s r ctx d line = none) ∧
    (n ≠ 0 → ∃ u, takeToken s r ctx d line = some u ∧
      SMap.get (getDie u d).buckets ctx (getCtx s ctx).depth = n - 1)) ∧
  (∀ s ctx v, let base := field v 13 35 * 2 ^ 13
    ((getCtx s ctx).state ≠ .loaded ∨ bankOk base = false → writeCtxcnt s ctx v = .bad) ∧
    ((getCtx s ctx).state = .loaded → bankOk base = true → counterWrites s base = false → ∃ t, writeCtxcnt s ctx v = .ok t ∧
      (getCtx t ctx).cnt = base ∧ (MemOk s → (∀ i, i < 1024 → counterGet t ctx i = 0) ∧
        ∀ a, a < base ∨ base + 8192 ≤ a → memByte t a = memByte s a))) ∧
  (∀ s ctx i v, let old := slotAp (SMap.get (getCtx s ctx).slots i 0)
    let now := slotAp (BitVec.ofNat 15 v)
    (ctxIdle (getCtx s ctx).state = false → writeCtxap s ctx i v = .bad) ∧
    (∀ n, now = some n → (getAp s n).state ≠ .live → writeCtxap s ctx i v = .bad) ∧
    (ctxIdle (getCtx s ctx).state = true → (∀ n, now = some n → (getAp s n).state = .live) → ∃ t, writeCtxap s ctx i v = .ok t ∧
      SMap.get (getCtx t ctx).slots i 0 = BitVec.ofNat 15 v ∧
      (∀ j, j ≠ i → SMap.get (getCtx t ctx).slots j 0 = SMap.get (getCtx s ctx).slots j 0) ∧
      ∀ n, (getAp t n).maps = (getAp s n).maps - (if old = some n then 1 else 0) + (if now = some n then 1 else 0)))

/-- R115 to R127, R288 to R291, R325 to R332, R336, R338: the steps of the engines of a core where they are due: a head's wait, the rows
and units of its work, its end, its fault and its stop point, the commands of QCTL, the retry of an ENQ, and the tiler and ray heads.
R116: an entry's work is done once all its writes are performed at every copy. R126: a row between tiles or scratches puts the source
bytes at the destination. R325, R326, R331: BEGIN claims its slots, or changes STAT alone. R328: a primitive of finite vertices enters the
tiles that its closed box meets. R329: a list stays in order of its keys. R330: a full tile's spill writes its notice, makes a child of
the group's launch, and at that launch's completion clears the tile's count, adds one to its pass and to SPILLS, and enters the primitive
in the same step. R338: a ray entry reads its record once and writes its hit record. It rests on readings and choices of the model:
notes/assumptions 19, 21, 23, 25, 29, 37, 60, 70, 71, 73, 77, 89 to 92. -/
def Obligations.EngineSteps : Prop :=
  (∀ s h w, let c := s.arg.n1
    let q := s.arg.n2
    let n := tplWsem h.tpl
    headOf (getQueue (getCore s c) q) = some h → (getQueue (getCore s c) q).st = .waiting →
    firstMet (getSem (getCore s c) n) = some w → w.who = .engine q →
    let s1 := dropL1 (modSem s c n fun m => takeCount m w) c fun tag _ =>
      (relevantTags (modSem s c n fun m => takeCount m w) h.ctx).contains tag
    exec .engineWaitMet s = .next (pokeSem (modQueue s1 c q fun k => { k with st := .running, hst := 2 }) c n)) ∧
  (∀ (m : Sem) (w : SemWaiter), (takeCount m w).value = m.value - w.count ∧ ∀ x ∈ (takeCount m w).waiters, x.who ≠ w.who) ∧
  (∀ s h, let c := s.arg.n1
    let k := getQueue (getCore s c) 0
    headOf k = some h → engineOn s c k = true → working k = true → k.prog < copyUnits h.tpl → k.stores = [] →
    (∀ l s1, copyRow s c h.tpl k.prog = .ok (l, s1) → exec .copyRowDone s = .next (copyStores s1 c l)) ∧
    (∀ f, copyRow s c h.tpl k.prog = .error (.fault f) → exec .copyRowDone s = .next (leaveEngine (engineFault s c 0 f) c 0)) ∧
    (∀ w, copyRow s c h.tpl k.prog = .error (.wait w) → exec .copyRowDone s = .next (engineWait s c 0 w))) ∧
  (∀ s h, let c := s.arg.n1
    let k := getQueue (getCore s c) 0
    headOf k = some h → engineOn s c k = true → k.stores ≠ [] → k.st = .running ∨ k.st = .stopping → exec .copyRowDone s = .next (copyStores s c k.stores)) ∧
  (∀ s c l s1 left p, pushEntries s (envOf s (.engine c 0)) l = (s1, left, p) →
    (left = [] → copyStores s c l = leaveEngine (modQueue s1 c 0 fun k => { k with prog := k.prog + 1, stores := [] }) c 0) ∧
    (left ≠ [] → copyStores s c l = engineEnd (modQueue s1 c 0 fun k => { k with stores := left }) c 0 (.error p))) ∧
  (∀ s c t (r : Nat), tplSpace t 2 = 2 → tplSpace t 4 = 2 →
    let src := getTile (getCore s (envOf s (.engine c 0)).coreNo) (tplAddr t 2 / 4096)
    let i := ((tplAddr t 2 % 4096 : Nat) + (r : Int) * tplStride t 6).toNat
    let o := ((tplAddr t 4 % 4096 : Nat) + (r : Int) * tplStride t 7).toNat
    tileBad src i (tplRb t) = false → o + tplRb t ≤ 4096 → ∃ s1, copyRow s c t r = .ok ([], s1) ∧
      let dst := getTile (getCore s1 (envOf s (.engine c 0)).coreNo) (tplAddr t 4 / 4096)
      tileBytes dst o (tplRb t) = tileBytes src i (tplRb t) ∧ dst.lmask = 0) ∧
  (∀ s c t r g, let e := envOf s (.engine c 0)
    let i := (rowAddr t 2 6 r).toNat
    let o := (rowAddr t 4 7 r).toNat
    tplSpace t 2 = 1 → tplSpace t 4 = 1 → getGroup s e.gid = some g → scratchBad g i (tplRb t) = false →
    ∃ s1 g1, copyRow s c t r = .ok ([], s1) ∧ getGroup s1 e.gid = some g1 ∧
      scratchRead g1 o (tplRb t) = scratchRead g i (tplRb t) ∧
      ∀ a, a < o ∨ o + tplRb t ≤ a → scratchRead g1 a 1 = scratchRead g a 1) ∧
  (∀ s h f, let c := s.arg.n1
    let q := s.arg.n2
    headOf (getQueue (getCore s c) q) = some h → working (getQueue (getCore s c) q) = true → nextFault s c q h = some f →
    exec .engineFault s = .next (engineFault s c q f)) ∧
  (∀ s h, let c := s.arg.n1
    let k := getQueue (getCore s c) 1
    headOf k = some h → working k = true → k.prog < matUnits (matOf h.tpl) h.tcs →
    (matPoison (getCore s c) (matOf h.tpl) h.tcs = false → exec .matrixUnitDone s =
      .next (modQueue (modCore s c fun k => matUnit k (matOf h.tpl) h.tcs (getQueue (getCore s c) 1).prog) c 1
        fun k => { k with prog := k.prog + 1 })) ∧
    (matPoison (getCore s c) (matOf h.tpl) h.tcs = true → exec .matrixUnitDone s = .next (faultQueue s c 1 0x08 0 2))) ∧
  (∀ s h, let c := s.arg.n1
    let q := s.arg.n2
    let k := getQueue (getCore s c) q
    headOf k = some h → k.st = .running ∨ (k.st = .stopping ∧ (k.hst = 3 ∨ h.dropped = true)) → workFinished q k h = true →
    engineDrained s c q = true → exec .engineWorkDone s = .next (wakeCaptures (finishHead s c q))) ∧
  (∀ s c q, engineDrained s c q = true ↔ (∀ x ∈ (getCore s c).sb ++ (getCore s c).frozen, x.who ≠ .engine c q) ∧
    ∀ r ∈ s.repls, r.who ≠ .engine c q) ∧
  (∀ s h, let c := s.arg.n1
    let k := getQueue (getCore s c) 0
    headOf k = some h → k.st = .running ∨ k.st = .stopping → k.hst = 3 → h.follow.isSome = true → queueFull s c 1 = false →
    engineDrained s c 0 = true → exec .followOnSubmit s = .next (wakeCaptures (finishHead s c 0))) ∧
  (∀ s c q h, q ≠ 0 → headOf (getQueue (getCore s c) q) = some h → tplGen h.tpl = false →
    finishHead s c q = retireHead (modQueue s c q fun k => { k with hst := 3 }) c q) ∧
  (∀ s h, let c := s.arg.n1
    let q := s.arg.n2
    let k := getQueue (getCore s c) q
    headOf k = some h → k.st = .stopping → atStopPoint s c q k h = true → exec .stopPointReached s =
      .next (wakeCaptures (stopNow (leaveEngine (modQueue s c q fun k => { k with hst := if workFinished q k h then 3 else k.hst }) c q) c q))) ∧
  (∀ s c q k h, k.hst = 2 →
    (h.dropped = true ∨ k.stores ≠ [] ∨
      (q = 3 ∧ (feedOp h.tpl = 0 ∨ feedOp h.tpl = 3 ∨ (feedOp h.tpl = 1 ∧ h.inPrim = true) ∨ (feedOp h.tpl = 2 ∧ h.spill = none))) →
      atStopPoint s c q k h = false) ∧
    (h.dropped = false → k.stores = [] → q ≠ 3 ∨ (feedOp h.tpl = 1 ∧ h.inPrim = false) ∨ (feedOp h.tpl = 2 ∧ h.spill.isSome = true) →
      atStopPoint s c q k h = true)) ∧
  (∀ s c q k h, workFinished q k h = true → k.stores = [] → engineDrained s c q = false → h.dropped = false →
    atStopPoint s c q k h = true) ∧
  (∀ s c q k h, h.dropped = true → atStopPoint s c q k h = false) ∧
  (∀ s c q, (getQueue (getCore s c) q).st ≠ .stopping → queueAtRest s c q = true) ∧
  (∀ s c q f h, headOf (getQueue (getCore s c) q) = some h → let k := getQueue (getCore (engineFault s c q f) c) q
    k.st = .faulted ∧ k.view = none ∧ k.stores = [] ∧ k.prog = (getQueue (getCore s c) q).prog) ∧
  (∀ s, let c := s.arg.n1 / 4
    let q := s.arg.n1 % 4
    let st := (getQueue (getCore s c) q).st
    (st = .faulted ∨ st = .stopped →
      exec .queueResume s = .next (resumeQueue s c q) ∧
      ((getQueue (getCore s c) q).hst ≠ 3 ∨ engineDrained s c q = true →
        exec .queueSkip s = .next (settleQueue (popHead s c q) c q) ∧ exec .queueFlush s = .next (flushQueue s c q)) ∧
      ((getQueue (getCore s c) q).hst = 3 → engineDrained s c q = false →
        exec .queueSkip s = .next s ∧ exec .queueFlush s = .next s)) ∧
    (st ≠ .faulted → st ≠ .stopped →
      exec .queueResume s = .next s ∧ exec .queueSkip s = .next s ∧ exec .queueFlush s = .next s) ∧
    (st = .running → exec .queueStop s = .next (modQueue s c q fun k => { k with st := .stopping, capt := false })) ∧
    (st = .faulted → exec .queueStop s = .next s)) ∧
  (∀ s t q d pw, getThread s s.arg.who = some t → t.st = .waiting (.enq q d pw) → ((envOf s s.arg.who).group s).state = .running →
    coreOn s (envOf s s.arg.who).coreNo = true → queueFull s (envOf s s.arg.who).coreNo q = false →
    bundleTurn s s.arg.who = true →
    exec .enqSpaceRetry s = .next (enqRun s (envOf s s.arg.who) t q d.toNat pw.toNat false)) ∧
  (∀ s h, let c := s.arg.n1
    headOf (getQueue (getCore s c) 2) = some h → working (getQueue (getCore s c) 2) = true →
    engineOn s c (getQueue (getCore s c) 2) = true →
    (∀ s1, rayEntry s c h.tpl = .ok s1 → exec .rayTraversal s = .next (leaveEngine s1 c 2)) ∧
    (∀ f, rayEntry s c h.tpl = .error (.fault f) → exec .rayTraversal s = .next (leaveEngine (engineFault s c 2 f) c 2)) ∧
    (∀ w, rayEntry s c h.tpl = .error (.wait w) → exec .rayTraversal s = .next (engineWait s c 2 w))) ∧
  (∀ s c t b s1 r w ts s2 s3, let e := envOf s (.engine c 2)
    readRange s (engineAcc e (field t.toNat 64 64) 64) {} = .ok (b, s1) →
    recordOf (runRay { s := s1, e := e, tmin := word32 b 12, tmax := word32 b 28, term := bit (word32 b 48) 0, cullb := bit (word32 b 48) 1
                       o := vecAt b 0, d := vecAt b 16, io := vecAt b 0, id := vecAt b 16
                       area := { s := tplWord t 1, c := field t.toNat 128 6, n := 0, linked := false } } b) = some (r, w) →
    checkPieces w.s { engineAcc e (word64 b 40) 64 with kind := 1, write := true } (piecesOf (word64 b 40) 64) [] = .ok (ts, s2) →
    pushPieces s2 e ts r false = .ok s3 → rayEntry s c t = .ok (modQueue s3 c 2 fun k => { k with hst := 3 })) ∧
  (∀ s h, let c := s.arg.n1
    feedHead s c 0 = some h →
    (∀ s1, tilerBegin s c h = .ok s1 → exec .tilerBegin s = .next (leaveEngine s1 c 3)) ∧
    (∀ f, tilerBegin s c h = .error (.fault f) → exec .tilerBegin s = .next (leaveEngine (engineFault s c 3 f) c 3))) ∧
  (∀ s c h, let e := envOf s (.engine c 3)
    let f := getFrame s e.die (feedSlot h.tpl)
    (f.st = 1 ∨ f.st = 2 → tilerBegin s c h = writeStat s c e (feedAddr h.tpl) 1) ∧
    (f.st ≠ 1 → f.st ≠ 2 → ∀ b s1, readRange s (engineAcc e (feedAddr h.tpl) 56) {} = .ok (b, s1) →
      (frameBad b = true → tilerBegin s c h = writeStat s1 c e (feedAddr h.tpl) 2) ∧
      (frameBad b = false → frmSprec b = 0 →
        let dies := if frmSplit b then (e.die :: maskDies (frmMask b)).eraseDups else [e.die]
        ((∀ d ∈ dies, slotFree (getFrame s1 d (feedSlot h.tpl)) h.ctx = true) → tilerBegin s c h = claimFrame s1 c e h b [] dies) ∧
        (∀ d ∈ dies, slotFree (getFrame s1 d (feedSlot h.tpl)) h.ctx = false → tilerBegin s c h = writeStat s1 c e (feedAddr h.tpl) 1)))) ∧
  (∀ s c e va st s1, tilerPut s e [⟨e.die, va + 56, toBytes st 1⟩] = .ok s1 → writeStat s c e va st = .ok (feedDone s1 c)) ∧
  (∀ s c h e b spill dies s1, tilerPut s e (clearCounts e b ++ [⟨e.die, feedAddr h.tpl + 56, toBytes 0 8⟩]) = .ok s1 →
    ∃ t, claimFrame s c e h b spill dies = .ok t ∧ t.mem = s1.mem ∧
      (∀ d ∈ dies, getFrame t d (feedSlot h.tpl) =
        { id := s1.uid, st := 1, owner := h.ctx, descVa := feedAddr h.tpl, desc := b, spillRec := spill, claimed := dies }) ∧
      (∀ d n, d ∉ dies ∨ n ≠ feedSlot h.tpl → getFrame t d n = getFrame s1 d n)) ∧
  (∀ s h, let c := s.arg.n1
    let e := envOf s (.engine c 3)
    let f := getFrame s e.die (feedSlot h.tpl)
    let i := (getQueue (getCore s c) 3).prog
    feedHead s c 1 = some h → h.spill = none →
    (h.spillTile = none → f.st ≠ 1 ∨ f.owner ≠ h.ctx ∨ i ≥ feedCount h.tpl → exec .tilerPrims s = .next (feedDone s c)) ∧
    (h.spillTile = none → f.st = 1 → f.owner = h.ctx → i < feedCount h.tpl →
      (∀ s1, binPrim s c e h i = .ok s1 → exec .tilerPrims s = .next (leaveEngine s1 c 3)) ∧
      (∀ g, binPrim s c e h i = .error (.fault g) → exec .tilerPrims s = .next (leaveEngine (engineFault s c 3 g) c 3))) ∧
    (∀ t s1, h.spillTile = some t → spillLaunch s c e h t = .ok s1 → exec .tilerPrims s = .next (leaveEngine s1 c 3))) ∧
  (∀ s c e h i p s1, let f := getFrame s e.die (feedSlot h.tpl)
    let lose := frmSprec f.desc == 0 || cancelReached s1 h.launch
    let held := tilesHeld s1 e (feedSlot h.tpl) (primTiles f.desc p)
    readRange s (engineAcc e (feedAddr h.tpl + 48 * i) 48) {} = .ok (p, s1) →
    (∀ w lost s2 s3, primPlan s1 e f.desc lose (word32 p 36, primKey p) held [] 0 = .ok (.enter w lost, s2) →
      enterPrim s2 e (feedSlot h.tpl) w lost = .ok s3 →
      binPrim s c e h i = .ok (modQueue (modFeed s3 c fun h => { h with inPrim := false }) c 3 fun k => { k with prog := k.prog + 1 })) ∧
    (∀ tx ty s2, primPlan s1 e f.desc lose (word32 p 36, primKey p) held [] 0 = .ok (.spill tx ty, s2) →
      binPrim s c e h i = spillNotice s2 c e (feedSlot h.tpl) tx ty)) ∧
  (∀ b p, let v := [vecAt p 0, vecAt p 12, vecAt p 24]
    ((∃ x ∈ v, x.fin = false) → primTiles b p = []) ∧
    ((∀ x ∈ v, x.fin = true) → ∀ tx ty, (tx, ty) ∈ primTiles b p ↔ tx < frmTw b ∧ ty < frmTh b ∧
      (∃ x ∈ v, 0 ≤ x.q.x) ∧ (∃ x ∈ v, x.q.x < (frmW b : Rat)) ∧ (∃ x ∈ v, 0 ≤ x.q.y) ∧ (∃ x ∈ v, x.q.y < (frmH b : Rat)) ∧
      (∃ x ∈ v, x.q.x < 32 * ((tx : Rat) + 1)) ∧ (∃ x ∈ v, 32 * (tx : Rat) ≤ x.q.x) ∧
      (∃ x ∈ v, x.q.y < 32 * ((ty : Rat) + 1)) ∧ (∃ x ∈ v, 32 * (ty : Rat) ≤ x.q.y))) ∧
  (∀ x (l : List (Nat × Nat)), (insertEntry x l).Perm (x :: l) ∧ (l.Pairwise (fun a b => entryBefore a b = true) →
    (insertEntry x l).Pairwise (fun a b => entryBefore a b = true))) ∧
  (∀ s e b lose x w lost, primPlan s e b lose x [] w lost = .ok (.enter w lost, s)) ∧
  (∀ s e b lose x tx ty r w lost n s1, let t := ty * frmTw b + tx
    let d := tileOwner b e.die tx ty
    tilerRead s e d (frmCnts b + 4 * t) 4 = .ok (n, s1) →
    (64 ≤ ofBytes n → lose = false → primPlan s e b lose x ((tx, ty) :: r) w lost = .ok (.spill tx ty, s1)) ∧
    (64 ≤ ofBytes n → lose = true → primPlan s e b lose x ((tx, ty) :: r) w lost = primPlan s1 e b lose x r w (lost + 1)) ∧
    (ofBytes n < 64 → ∀ old s2, tilerRead s1 e d (frmList b + 512 * t) (8 * ofBytes n) = .ok (old, s2) →
      primPlan s e b lose x ((tx, ty) :: r) w lost = primPlan s2 e b lose x r
        (w ++ [⟨d, frmList b + 512 * t, entryBytes (insertEntry x (listEntries old (ofBytes n)))⟩,
               ⟨d, frmCnts b + 4 * t, toBytes (ofBytes n + 1) 4⟩]) lost)) ∧
  (∀ s c e slot tx ty s1, let f := getFrame s e.die slot
    let t := ty * frmTw f.desc + tx
    let o := tileOwner f.desc e.die tx ty
    tilerPut s e [⟨o, frmNote f.desc + 16 * t,
      toBytes f.descVa 8 ++ toBytes t 4 ++ toBytes (SMap.get (getFrame s o slot).passes t 0) 2 ++ toBytes 64 2⟩] = .ok s1 →
    spillNotice s c e slot tx ty = .ok (modFeed s1 c fun h => { h with spillTile := some t, spillFrame := f.id, inPrim := true })) ∧
  (∀ s e slot l (x : Nat × Nat), let f := getFrame s e.die slot
    x ∈ tilesHeld s e slot l ↔ x ∈ l ∧ (getFrame s (tileOwner f.desc e.die x.1 x.2) slot).id = f.id) ∧
  (∀ s e (h : Entry) t, let f := getFrame s e.die (feedSlot h.tpl)
    let o := tileOwner f.desc e.die (t % frmTw f.desc) (t / frmTw f.desc)
    spillHolds s e h t = true ↔ f.id = h.spillFrame ∧ (f.st = 1 ∨ f.st = 2) ∧ (getFrame s o (feedSlot h.tpl)).id = h.spillFrame) ∧
  (∀ s c e h t r kd, let slot := feedSlot h.tpl
    let f := getFrame s e.die slot
    let o := tileOwner f.desc e.die (t % frmTw f.desc) (t / frmTw f.desc)
    (spillHolds s e h t = false → spillLaunch s c e h t = .ok (spillGone s c)) ∧
    (spillHolds s e h t = true → engineDrained s c 3 = false ∨ tilerDrained s e.die slot = false →
      spillLaunch s c e h t = .error (.wait (.drain 0))) ∧
    (spillHolds s e h t = true → engineDrained s c 3 = true → tilerDrained s e.die slot = true → launchOf (f.spillRec.take 64) = some r →
      kdescOf r.kdesc (f.spillRec.drop 64) = some kd →
      ((∀ i, r.cnt = some i → counterHeld s h.ctx i = false) →
        let y := createChild s h.launch kd r (frmNote f.desc + 16 * t)
        spillLaunch s c e h t = .ok (modFeed (modFrame y.2.2 o slot fun f => { f with outst := y.1 :: f.outst }) c
          fun h => { h with spillTile := none, spill := some y.1 })) ∧
      (∀ i, r.cnt = some i → counterHeld s h.ctx i = true →
        spillLaunch s c e h t = spillOver (launchFaulted s (s.launches.length + 1) h.launch) c e h t none))) ∧
  (∀ s c e h t uid s1 s3, let slot := feedSlot h.tpl
    let f := getFrame s e.die slot
    let o := tileOwner f.desc e.die (t % frmTw f.desc) (t / frmTw f.desc)
    clearTile s e slot t = .ok s1 →
    let s2 := modFrame s1 o slot fun f => { f with outst := f.outst.filter fun u => some u != uid }
    binPrim (modFeed s2 c fun h => { h with spill := none, spillTile := none }) c e h (getQueue (getCore s2 c) 3).prog = .ok s3 →
    (f.st = 2 → spillsOut s3 e.die slot = false → spillOver s c e h t uid = closeFrame s3 e slot) ∧
    (f.st ≠ 2 ∨ spillsOut s3 e.die slot = true → spillOver s c e h t uid = .ok s3)) ∧
  (∀ s e slot t s1, let f := getFrame s e.die slot
    let n := sat16 (f.spills + 1)
    let o := tileOwner f.desc e.die (t % frmTw f.desc) (t / frmTw f.desc)
    tilerPut s e [⟨o, frmCnts f.desc + 4 * t, toBytes 0 4⟩, ⟨e.die, f.descVa + 58, toBytes n 2⟩] = .ok s1 →
    ∃ u, clearTile s e slot t = .ok u ∧ u.mem = s1.mem ∧
      SMap.get (getFrame u o slot).passes t 0 = SMap.get (getFrame s1 o slot).passes t 0 + 1 ∧
      ∀ d ∈ frameDies s1 e.die slot, (getFrame u d slot).spills = n) ∧
  (∀ s h u l s1, let c := s.arg.n1
    feedHead s c 1 = some h → h.spill = some u → getLaunch s u = some l → l.complete = true →
    spillDone s c (envOf s (.engine c 3)) h u = .ok s1 → exec .spillLaunchComplete s = .next (leaveEngine s1 c 3)) ∧
  (∀ s c e h uid l, getLaunch s uid = some l →
    let t := (l.param - frmNote (getFrame s e.die (feedSlot h.tpl)).desc) / 16
    (spillHolds s e h t = false → spillDone s c e h uid = .ok (spillGone s c)) ∧
    (spillHolds s e h t = true → spillDone s c e h uid =
      spillOver (dropL1 s c fun tag _ => (relevantTags s h.ctx).contains tag) c e h t (some uid))) ∧
  (∀ s h, let c := s.arg.n1
    let e := envOf s (.engine c 3)
    let f := getFrame s e.die (feedSlot h.tpl)
    feedHead s c 2 = some h →
    (f.owner ≠ h.ctx → exec .tilerEnd s = .next (feedDone s c)) ∧
    (f.owner = h.ctx → f.st = 1 → spillsOut s e.die (feedSlot h.tpl) = true → exec .tilerEnd s =
      .next (modFeed (modClaimed s e.die (feedSlot h.tpl) fun f => { f with st := 2 }) c fun h => { h with spill := some 0 })) ∧
    (f.owner = h.ctx → f.st = 1 ∨ (f.st = 2 ∧ h.spill.isSome = true) → spillsOut s e.die (feedSlot h.tpl) = false →
      ∀ s1, closeFrame s e (feedSlot h.tpl) = .ok s1 → exec .tilerEnd s = .next (leaveEngine (feedDone s1 c) c 3))) ∧
  (∀ s e slot s1, tilerPut s e [⟨e.die, (getFrame s e.die slot).descVa + 56, toBytes 3 1⟩] = .ok s1 →
    ∃ t, closeFrame s e slot = .ok t ∧ t.mem = s1.mem ∧ ∀ d ∈ frameDies s1 e.die slot, (getFrame t d slot).st = 3) ∧
  (∀ s h, let c := s.arg.n1
    let f := getFrame s (dieOf c) (feedSlot h.tpl)
    feedHead s c 3 = some h →
    (f.st ≠ 3 ∨ f.owner ≠ h.ctx → exec .tilerRelease s = .next (feedDone s c)) ∧
    (f.st = 3 → f.owner = h.ctx → ∃ t, exec .tilerRelease s = .next t ∧
      ∀ d ∈ frameDies s (dieOf c) (feedSlot h.tpl), (getFrame t d (feedSlot h.tpl)).st = 0))

/-- R223, R228, R233, R239, R240, R250, R254, R273, R276, R299 to R305, R312 to R317, R324: store drains, fills and copies, the messages
between dies, flits and links, the steps of a hand-over, and the commits of shutter windows, where they are due. R239, R240: a store is
not performed before an earlier one of its core to the line (R244), nor before an earlier load has returned. R299, R303: a stack admits
from a die only in its states and behind what it received earlier from that die or for that line. R364: a request that meets poison at its
home traps its thread at the instruction. It rests on readings and choices of the model: notes/assumptions 10, 12, 29, 32, 53, 55, 65, 79,
80, 82, 85, 93. -/
def Obligations.MemoryAndLinkSteps : Prop :=
  (∀ s x, let c := s.arg.n1
    (getCore s c).sb[s.arg.n2]? = some x → entryReady s c x = true →
    (s.arg.flag = true → entryGoes s c x = true → exec .storeDrain s = .next (sendEntry (leaveReq s fun r => r == .entry c x.id) c x)) ∧
    (entryLeaves s x = true → s.arg.flag = false → exec .storeDrain s = .next (afterDrain s (sendEntryPort s c x) c x)) ∧
    (entryLeaves s x = false → ∀ s1, performWrite s (x.write c) = .ok s1 →
      let t := afterDrain s (leaveReq (dropEntry s1 c x) fun r => r == .entry c x.id) c x
      (s.arg.flag = false → exec .storeDrain s = .next t) ∧ (x.attr.df ≠ 0 → exec .blockUpdate s = .next t)) ∧
    (entryLeaves s x = false → ∀ w, performWrite s (x.write c) = .error (.wait w) → (∃ d n l, w = .token d n l ∨ w = .held d n l) →
      let t := afterDrain s (joinWait s (.entry c x.id) w) c x
      (s.arg.flag = false → exec .storeDrain s = .next t) ∧ (x.attr.df ≠ 0 → exec .blockUpdate s = .next t))) ∧
  (∀ s c x, (entryGoes s c x = true ↔ entryReady s c x = true ∧ (paRegion x.frame = 3 →
      reaches s x.home (portDie (portOf s x.ctx x.frame)) = true ∧ linkUp s (portLink (portOf s x.ctx x.frame)) = true)) ∧
    (entryLeaves s x = true ↔ paRegion x.frame = 3 ∧ 4 ≤ portOf s x.ctx x.frame ∧
      reaches s x.home (portDie (portOf s x.ctx x.frame)) = true ∧ linkUp s (portLink (portOf s x.ctx x.frame)) = true)) ∧
  (∀ s c x y, y ∈ (getCore s c).sb → y.id < x.id → y.tag = x.tag →
    y.line = x.line ∨ (y.frame = x.frame ∧ y.line % 512 = x.line % 512) → entryReady s c x = false) ∧
  (∀ s c x y, y ∈ (getCore s c).sb → y.id < x.id → y.who = x.who → y.attr.df ≠ 0 → x.attr.df ≠ 0 → entryReady s c x = false) ∧
  (∀ s c x p, p ∈ s.pends → p.who = x.who → p.id < x.id → p.drop = false → p.atomic = false ∨ p.d ≠ 0 ∨ (p.tag = x.tag ∧ p.va / 128 = x.line) →
    entryReady s c x = false) ∧
  (∀ s w charge, isolated s w = true → performWrite s w charge = .error (.wait .isolation)) ∧
  (∀ s w charge, isolated s w = false → paRegion w.frame = 1 → w.bad = false → ∃ t, performWrite s w charge = .ok t ∧
    (MemOk s → ∀ i, memByte t (w.frame + w.line % 512 * 128 + i) =
      if i < 128 ∧ w.mask.getLsbD i = true then lineByte w.data i else memByte s (w.frame + w.line % 512 * 128 + i))) ∧
  (∀ s w charge c, isolated s w = false → paRegion w.frame = 0 → w.attr.df = 0 → vaPlc (w.line * 128) ≠ 33 → w.bad = false →
    genCurrent s w = true → findLine (getDie s w.home).l2 w.tag w.line w.gen = some c → w.keep = true ∨ c.frame = w.frame → ∃ t, performWrite s w charge = .ok t ∧ t.mem = s.mem ∧
      findLine (getDie t w.home).l2 w.tag w.line w.gen = some { c with
        data := mergeLine c.data w.data w.mask, dirty := c.dirty ||| w.mask, nt := c.nt || w.nt, ctx := w.ctx }) ∧
  (∀ s r ctx charge nt t keep, let found := findLine (getDie s t.home).l2 t.tag (t.va / 128) t.gen
    (∀ c, found = some c → keep = true ∨ c.frame = t.frame → homeLine s r ctx charge nt t keep = .ok (c.data, s)) ∧
    (found = none ∨ (keep = false ∧ ∃ c, found = some c ∧ c.frame ≠ t.frame) → paRegion t.frame = 0 → ∀ s1,
      admitSources s r t.home ctx charge (lineSources t.frame t.attr (t.pva / 128 % 512)) = .ok s1 →
      ∃ s2, homeLine s r ctx charge nt t keep = .ok (belowLine s1 ctx t.frame t.attr (t.pva / 128 % 512), s2) ∧
        (keep = false → s2 = s1))) ∧
  (∀ s r d ctx charge pa n l, paRegion pa = 0 → passes s r (paStack pa) d (pa / 128) = false →
    admitSources s r d ctx charge ((pa, n) :: l) = .error (.wait (.held (paStack pa) d (pa / 128)))) ∧
  (∀ s k d, ((getStack s k).state = .owned → (admits s k d = true ↔ reaches s d (getStack s k).owner = true)) ∧
    ((getStack s k).state = .opening → (admits s k d = true ↔ d ∈ (getStack s k).markers ∧ reaches s d (getStack s k).owner = true)) ∧
    ((getStack s k).state ≠ .owned → (getStack s k).state ≠ .opening → admits s k d = false)) ∧
  (∀ s r k d line h, h ∈ (getStack s k).held → h.seq < placeAt s r k → h.die = d ∨ h.line = line →
    tokenAdmitted s r k line = false → passes s r k d line = false) ∧
  (∀ s r k d line, tokenAdmitted s r k line = true → passes s r k d line = true) ∧
  (∀ s r k line, let v := getStack s k
    tokenAdmitted s r k line = true ↔ (v.state = .owned ∨ v.state = .closing ∨ v.state = .opening) ∧
      ∃ x ∈ (getDie s v.owner).tokq, x.req = r ∧ x.line = line) ∧
  (∀ s r k d line p, p ∈ (getStack s k).posted → p.seq < placeAt s r k → p.addr / 128 = line ∨ (p.adm = false ∧ p.die = d) →
    tokenAdmitted s r k line = false → passes s r k d line = false) ∧
  (∀ s p m l s1, (s.pends.find? fun p =>
      !p.drop && !p.stale && !p.host && p.home == s.arg.n1 && p.tag == s.arg.n2 && p.va / 128 == s.arg.v1.toNat / 128) = some p →
    (s.msgs.find? fun m => m.body == .read p.id) = some m → pendFault s p = none →
    homeLine s (.msg m.id) p.ctx true p.nt p.target = .ok (l, s1) → exec .l2Fill s = .next s1) ∧
  (∀ s r, let d := s.arg.n2
    s.repls[s.arg.n1]? = some r → r.dies.contains d = true →
    ((s.repls.take s.arg.n1).any fun x => x.tag == r.tag && x.line == r.line && x.dies.contains d) = false →
    ∃ t, exec .replicatedUpdate s = .next t ∧ ∀ k, (getDie t k).l2 = if k = d then (getDie s d).l2.map fun c =>
      if c.tag == r.tag && c.line == r.line && c.frame == r.frame then { c with data := mergeLine c.data r.data r.mask } else c else (getDie s k).l2) ∧
  (∀ s m id p, findMsg s s.arg.n1 = some m → m.body = .read id ∨ m.body = .atomic id → arrived s m = true → findPend s id = some p →
    (p.drop = true → let t := dropPend (servedMsg s m.id) id
      (m.body = .read id → exec .daoftRead s = .next t) ∧ (m.body = .atomic id → exec .daoftAtomic s = .next t)) ∧
    (∀ code, p.drop = false → pendFault s p = some code →
      let t := sendMsg (servedMsg s m.id) m.dst m.src true (.failResp p.id code)
      (m.body = .read id → exec .daoftRead s = .next t) ∧ (m.body = .atomic id → exec .daoftAtomic s = .next t))) ∧
  (∀ s m id code p, findMsg s s.arg.n1 = some m → m.body = .failResp id code → arrived s m = true → findPend s id = some p → p.drop = false →
    exec .daoftReadResponse s = .next (wakeDrains (failPend (servedMsg s m.id) p code) p.core) ∧
    exec .daoftAtomicResponse s = .next (wakeDrains (failPend (servedMsg s m.id) p code) p.core)) ∧
  (∀ s m id p l s1, findMsg s s.arg.n1 = some m → m.body = .read id → arrived s m = true → findPend s id = some p →
    p.drop = false → pendFault s p = none → homeLine s (.msg m.id) p.ctx true p.nt p.target (!p.stale) = .ok (l, s1) →
    exec .daoftRead s = .next (sendMsg (servedMsg s1 m.id) m.dst m.src true
      (.readResp id (lineValue l p.va (widthBytes p.width)) (some (responseLine p l))))) ∧
  (∀ s m id v p, findMsg s s.arg.n1 = some m → m.body = .readResp id v none → arrived s m = true → findPend s id = some p →
    p.drop = false → exec .daoftReadResponse s = .next (wakeDrains (deliverTo (dropPend (servedMsg s m.id) id) p
      fun t => writeWidth t p.d.toNat p.width v) p.core)) ∧
  (∀ s p v t, getThread s p.who = some t → t.st = .ready → (∀ q ∈ s.pends, q.fail = none) →
    let f (t : Thread) : Thread := writeWidth t p.d.toNat p.width v
    getThread (deliverTo s p f) p.who = some (f { t with await := t.await.filter fun r => !(widthRegs p.d.toNat p.width).contains r }) ∧
    ∀ q ∈ s.pends, q.who = p.who → p.id < q.id → { q with save := q.save.take (widthRegs p.d.toNat p.width) f } ∈ (deliverTo s p f).pends) ∧
  (∀ s m c x s1, findMsg s s.arg.n1 = some m → m.body = .write c x → arrived s m = true →
    performWrite s { x.write c with req := .msg m.id } = .ok s1 →
    exec .daoftWrite s = .next (sendMsg (servedMsg (dropEntry s1 c x) m.id) m.dst m.src true (.writeAck c x.id))) ∧
  (∀ s c x, (∀ y ∈ (getCore (dropEntry s c x) c).sb, y.id ≠ x.id) ∧
    ∀ p ∈ (dropEntry s c x).pends, p.core = c → p.tag = x.tag → p.va / 128 = x.line → p.install = false) ∧
  (∀ s m c id, findMsg s s.arg.n1 = some m → m.body = .writeAck c id → arrived s m = true →
    exec .daoftWriteAck s = .next (wakeDrains (servedMsg s m.id) c)) ∧
  (∀ s m id p v s1, findMsg s s.arg.n1 = some m → m.body = .atomic id → arrived s m = true → findPend s id = some p → p.drop = false →
    pendFault s p = none → pendAtomic s (.msg m.id) p = .ok (v, s1) →
    exec .daoftAtomic s = .next (sendMsg (servedMsg s1 m.id) m.dst m.src true (.atomicResp id v))) ∧
  (∀ s m id v p, findMsg s s.arg.n1 = some m → m.body = .atomicResp id v → arrived s m = true → findPend s id = some p →
    p.drop = false → exec .daoftAtomicResponse s = .next (wakeDrains (deliverTo (dropPend (servedMsg s m.id) id) p
      fun t => writeWidth t p.d.toNat p.width v) p.core)) ∧
  (∀ s m l up q, findMsg s s.arg.n1 = some m → m.body = .control l up q → arrived s m = true →
    let s1 := takeMsg s m.id
    exec .daoftControl s = .next (if (getLink s1 l).state = .down ∨ (getLink s1 l).state = .off
      then linksChanged (takeBack s1 l up q) else s1)) ∧
  (∀ s f r, let l := s.arg.n1
    let up := s.arg.n2 != 0
    let v := dirOf (getLink s l) up
    l < 22 → linkUp s l = true → v.wire = f :: r →
    (s.arg.flag = false → exec .flitReceive s = .next (modLink s l fun k =>
      { setDir k up { v with wire := r, nak := true } with crce := sat16 (k.crce + 1) })) ∧
    (s.arg.flag = true → f.seq ≠ v.expect →
      exec .flitReceive s = .next (modLink s l fun k => setDir k up { v with wire := r, nak := true })) ∧
    (s.arg.flag = true → f.seq = v.expect →
      let now : LinkDir :=
        { v with wire := r, expect := (v.expect + 1) % 4096, replay := (v.replay.dropWhile fun x => x != f).drop 1, replays := 0 }
      exec .flitReceive s = .next (linksChanged (landMsg (modLink s l fun k => setDir k up (now.flush v.queue)) l up f.msg)))) ∧
  (∀ (v : LinkDir) id l, v.flush [] = { v with queue := [] } ∧
    (v.replay.length < 512 → v.flush (id :: l) = ({ v with
      next := (v.next + 1) % 4096, replay := v.replay ++ [{ seq := v.next, msg := id }], wire := v.wire ++ [{ seq := v.next, msg := id }] }
      : LinkDir).flush l) ∧
    (512 ≤ v.replay.length → v.flush (id :: l) = { v with queue := id :: l })) ∧
  (∀ s, let l := s.arg.n1
    let v := (getLink s l).bwd
    26 ≤ l → l ≤ 31 → linkUp s l = true → s.arg.n2 = 0 →
    (s.arg.flag = false → exec .flitReceive s =
      .next (modLink s l fun k => { k with bwd := { v with nak := true }, crce := sat16 (k.crce + 1) })) ∧
    (s.arg.flag = true → s.arg.n3 ≠ v.expect → exec .flitReceive s = .next (modLink s l fun k => { k with bwd := { v with nak := true } })) ∧
    (s.arg.flag = true → s.arg.n3 = v.expect → exec .flitReceive s =
      .next (modLink s l fun k => { k with bwd := { v with expect := (v.expect + 1) % 4096, replays := 0 }, rx := k.rx + 1 }))) ∧
  (∀ s m l up d id, s.msgs = [m] → m.id = id → m.body = .reserved d → m.dst = farEnd l up →
    landMsg s l up id = raiseErrs { s with msgs := [] } l) ∧
  (∀ s, let l := s.arg.n1
    let up := s.arg.n2 != 0
    let v := dirOf (getLink s l) up
    26 ≤ l → l ≤ 31 → linkUp s l = true → v.nak = true → exec .flitReplay s = .next (modLink s l fun k =>
      let k' := setDir k up { v with wire := v.replay, nak := false, replays := if v.replays ≥ 15 then 0 else v.replays + 1 }
      { k' with errs := k.errs, state := if v.replays ≥ 15 then .retrain else k.state })) ∧
  (∀ s, let l := s.arg.n1
    let up := s.arg.n2 != 0
    let v := dirOf (getLink s l) up
    l < 22 → linkUp s l = true → v.nak = true → exec .flitReplay s = .next (modLink s l fun k =>
      let k' := setDir k up { v with wire := v.replay, nak := false, replays := if v.replays ≥ 15 then 0 else v.replays + 1 }
      { k' with errs := sat16 (k.errs + 1), state := if v.replays ≥ 15 then .retrain else k.state })) ∧
  (∀ s, let l := s.arg.n1
    l ≤ 31 → (getLink s l).state = .training →
    (s.arg.flag = true → (getLink s l).fails < 2 →
      exec .linkTrained s = .next (modLink s l fun k => { k with fails := k.fails + 1 })) ∧
    (s.arg.flag = false → trainedWidth l s.arg.n2 ≠ 0 → ∃ t, exec .linkTrained s = .next (linksChanged t) ∧
      (getLink t l).width = trainedWidth l s.arg.n2 ∧ (getLink t l).state =
        if fullWidth l ≤ s.arg.n2 ∧ (l < 22 ∨ s.arg.n3 = 0) then .up else .degraded) ∧
    (l < 22 → trainedWidth l s.arg.n2 = min s.arg.n2 4) ∧ (26 ≤ l → trainedWidth l s.arg.n2 = min s.arg.n2 16) ∧
    (22 ≤ l → l ≤ 25 → trainedWidth l s.arg.n2 ∈ [0, 4, 8, 16] ∧ trainedWidth l s.arg.n2 ≤ s.arg.n2 ∧
      ∀ n, n ∈ [0, 4, 8, 16] → n ≤ s.arg.n2 → n ≤ trainedWidth l s.arg.n2) ∧
    (s.arg.flag = false → trainedWidth l s.arg.n2 = 0 → exec .linkTrained s = .next (linksChanged (linkDown s l)))) ∧
  (∀ s, let l := s.arg.n1
    let st := (getLink s l).state
    (l < 22 → st = .down → exec .linkDownResend s = .next (sendControl (sendControl s l true) l false)) ∧
    (st = .up ∨ st = .degraded → exec .linkRetrain s = .next (modLink s l fun k => { k with state := .retrain })) ∧
    (st = .down ∨ st = .off → exec .linkOn s = .next (modLink s l fun k => { k with state := .training, fails := 0 })) ∧
    (l < 22 → st ≠ .off →
      exec .linkOff s = .next (linksChanged (rerouteFrom (modLink s l fun k => { k with offPend := true }) l))) ∧
    (22 ≤ l → st ≠ .off → exec .linkOff s = .next (modLink (linkDown s l) l fun k => { k with state := .off })) ∧
    (let k := getLink s l
     getLink (linkDown s l) l =
       { k with state := .down, width := 0, fwd := { k.fwd with wire := [], nak := false }, bwd := { k.bwd with wire := [], nak := false } })) ∧
  (∀ s, 22 ≤ s.arg.n1 → s.arg.n1 ≤ 25 → linkUp s s.arg.n1 = true → exec .flitReceive s =
    .next (if s.arg.flag then s else modLink s s.arg.n1 fun k => { k with crce := sat16 (k.crce + 1) })) ∧
  (∀ s (m : Msg) l up n, m.body = .control l up n → m.at_ = m.dst → m.wire = false → arrived s m = true) ∧
  (∀ s, let k := s.arg.n1
    let v := getStack s k
    (v.state = .closing → v.err = false → s.dev.tick ≤ v.began + 1000000 → v.posted.any (·.adm) = false → waitsForToken s k = false →
      exec .handoverDrained s = .next (modStack s k fun v => { v with state := .drained })) ∧
    (v.state = .closing → v.err = true ∨ v.began + 1000000 < s.dev.tick ∨ v.posted.any (·.adm) = true ∨ waitsForToken s k = true →
      exec .handoverDrained s = .next (performStack s k)) ∧
    (v.state = .drained → exec .handoverDrained s = .next (modStack s k fun v => { v with state := .switching })) ∧
    (v.state = .switching → ∃ t, exec .handoverSwitched s = .next
        ((upTo 16).foldl (fun s d => sendMsg s d v.owner false (.marker k d)) t) ∧
      (getStack t k).state = .opening ∧ (getStack t k).owner = v.target ∧ ∀ d, d < 16 → routeEntry t d k = v.target) ∧
    (v.state = .closing → s.arg.flag = false → v.began + 1000000 ≤ s.dev.tick →
      exec .drainTimeout s = .next (freezeStack s k 1)) ∧
    (v.state = .closing → s.arg.flag = true →
      exec .drainTimeout s = .next (freezeStack (modStack s k fun v => { v with err := true }) k 2)) ∧
    (v.state = .frozen → v.err = false → exec .stackReopen s = .next (reopenStack s k 0)) ∧
    (v.state = .frozen → v.err = true → exec .stackReopen s = .next (modStack s k fun v => { v with fcause := 2 })) ∧
    (v.state ≠ .frozen → exec .stackReopen s = .next s)) ∧
  (∀ s m k d, findMsg s s.arg.n1 = some m → m.body = .marker k d → arrived s m = true →
    let s1 := takeMsg s m.id
    let s2 := modStack s1 k fun v => { v with markers := d :: v.markers }
    (m.dst ≠ (getStack s1 k).owner → exec .routeMarker s = .next (sendMsg s1 m.dst (getStack s1 k).owner false (.marker k d))) ∧
    (m.dst = (getStack s1 k).owner → (getStack s2 k).markers.length < 16 →
      exec .routeMarker s = .next (moveOn s2)) ∧
    (m.dst = (getStack s1 k).owner → 16 ≤ (getStack s2 k).markers.length →
      exec .routeMarker s = .next (reopenStack (modStack s2 k fun v => { v with hcnt := (v.hcnt + 1) % 2 ^ 16 }) k 0))) ∧
  (∀ s, let n := s.arg.n1
    let w := getWin s n
    let ends (s : State) : State := releaseQueue (match w.issuer with | some a => shutterRetire s n 0 a | none => s) n
    (w.state = .publishing → w.tick ≤ s.dev.tick →
      let s1 := dropLines (spoilWindow (cleanL2 s (winLine w)) w) fun c =>
        winLine w c && c.gen != 1 + w.g.toNat % 4 && c.gen != 1 + (w.g.toNat + 1) % 4
      exec .shutterCommit s = .next (ends (setWin s1 n { w with state := .armed, g := w.g + 1 }))) ∧
    (w.state = .dropping → w.tick ≤ s.dev.tick → exec .shutterDropCommit s =
      .next (ends (setWin (dropLines (spoilWindow s w) (winLine w)) n { w with state := .free, n := 0 }))) ∧
    (s.dev.tick < w.tick → exec .shutterCommit s = .next s ∧ exec .shutterDropCommit s = .next s))
end

