-- ==== Sys2Proof/Laws/Map.lean ====
section
/-!
SUPPORT. The laws of finite maps and of the list helpers: a read after a write, and that a write leaves every other number alone.
-/

namespace Sys2Proof.Machine

variable {α : Type}

@[simp] theorem SMap.get_nil (k : Nat) (d : α) : SMap.get ([] : SMap α) k d = d := rfl

@[simp] theorem SMap.find_nil (k : Nat) : SMap.find ([] : SMap α) k = none := rfl

@[simp] theorem SMap.get_set_same (m : SMap α) (k : Nat) (v d : α) : SMap.get (SMap.set m k v) k d = v := by
  induction m with
  | nil => simp [SMap.set, SMap.get]
  | cons e r ih =>
    obtain ⟨j, w⟩ := e
    by_cases h : j = k
    · simp [SMap.set, SMap.get, h]
    · simp [SMap.set, SMap.get, h, ih]

theorem SMap.get_set_other (m : SMap α) {k j : Nat} (h : k ≠ j) (v d : α) :
    SMap.get (SMap.set m k v) j d = SMap.get m j d := by
  induction m with
  | nil => simp [SMap.set, SMap.get, h]
  | cons e r ih =>
    obtain ⟨i, w⟩ := e
    by_cases hi : i = k
    · subst hi; simp [SMap.set, SMap.get, h]
    · by_cases hj : i = j
      · subst hj; simp [SMap.set, SMap.get, hi]
      · simp [SMap.set, SMap.get, hi, hj, ih]

@[simp] theorem SMap.find_set_same (m : SMap α) (k : Nat) (v : α) : SMap.find (SMap.set m k v) k = some v := by
  induction m with
  | nil => simp [SMap.set, SMap.find]
  | cons e r ih =>
    obtain ⟨j, w⟩ := e
    by_cases h : j = k
    · simp [SMap.set, SMap.find, h]
    · simp [SMap.set, SMap.find, h, ih]

theorem SMap.find_set_other (m : SMap α) {k j : Nat} (h : k ≠ j) (v : α) :
    SMap.find (SMap.set m k v) j = SMap.find m j := by
  induction m with
  | nil => simp [SMap.set, SMap.find, h]
  | cons e r ih =>
    obtain ⟨i, w⟩ := e
    by_cases hi : i = k
    · subst hi; simp [SMap.set, SMap.find, h]
    · by_cases hj : i = j
      · subst hj; simp [SMap.set, SMap.find, hi]
      · simp [SMap.set, SMap.find, hi, hj, ih]

/-- A value written back over itself leaves the map. -/
theorem SMap.set_find_same (m : SMap α) {k : Nat} {v : α} (h : SMap.find m k = some v) : SMap.set m k v = m := by
  induction m with
  | nil => simp at h
  | cons e r ih =>
    obtain ⟨j, w⟩ := e
    by_cases hj : j = k
    · subst hj; simp [SMap.find] at h; subst h; simp [SMap.set]
    · simp [SMap.find, hj] at h; simp [SMap.set, hj, ih h]

/-- The later of two writes to one number stands. -/
@[simp] theorem SMap.set_set (m : SMap α) (k : Nat) (v w : α) : SMap.set (SMap.set m k v) k w = SMap.set m k w := by
  induction m with
  | nil => simp [SMap.set]
  | cons e r ih =>
    obtain ⟨j, x⟩ := e
    by_cases hj : j = k
    · simp [SMap.set, hj]
    · simp [SMap.set, hj, ih]

/-! ## Elements of a list -/

@[simp] theorem modNth_length (l : List α) (n : Nat) (f : α → α) : (modNth l n f).length = l.length := by
  induction l generalizing n with
  | nil => cases n <;> rfl
  | cons x r ih => cases n <;> simp [modNth, ih]

theorem modNth_same (l : List α) (n : Nat) (f : α → α) : (modNth l n f)[n]? = l[n]?.map f := by
  induction l generalizing n with
  | nil => cases n <;> rfl
  | cons x r ih => cases n <;> simp [modNth, ih]

theorem modNth_other (l : List α) {n k : Nat} (h : n ≠ k) (f : α → α) : (modNth l n f)[k]? = l[k]? := by
  induction l generalizing n k with
  | nil => cases n <;> rfl
  | cons x r ih =>
    cases n with
    | zero => cases k with
      | zero => exact absurd rfl h
      | succ k => simp [modNth]
    | succ n => cases k with
      | zero => simp [modNth]
      | succ k => simp [modNth, ih (by omega : n ≠ k)]

/-- A fold keeps what each of its steps keeps. -/
theorem foldl_keeps {β : Type} (p : β → Prop) (f : β → α → β) (hf : ∀ b a, p b → p (f b a)) (l : List α) (b : β) (h : p b) :
    p (l.foldl f b) := by
  induction l generalizing b with
  | nil => exact h
  | cons x r ih => exact ih (f b x) (hf b x h)

end Sys2Proof.Machine
end

