-- ==== Sys2Proof/Laws/State.lean ====
section
/-!
SUPPORT. What the updates of the state leave as it is: one lemma per field per update, and reading an object back.
-/

namespace Sys2Proof.Machine

variable (s : State)

/-! ## Core -/

@[simp] theorem setCore_dev (i : Nat) (v : Core) : (setCore s i v).dev = s.dev := rfl
@[simp] theorem setCore_ctxs (i : Nat) (v : Core) : (setCore s i v).ctxs = s.ctxs := rfl
@[simp] theorem setCore_aps (i : Nat) (v : Core) : (setCore s i v).aps = s.aps := rfl
@[simp] theorem setCore_wins (i : Nat) (v : Core) : (setCore s i v).wins = s.wins := rfl
@[simp] theorem setCore_hwins (i : Nat) (v : Core) : (setCore s i v).hwins = s.hwins := rfl
@[simp] theorem setCore_stk (i : Nat) (v : Core) : (setCore s i v).stk = s.stk := rfl
@[simp] theorem setCore_links (i : Nat) (v : Core) : (setCore s i v).links = s.links := rfl
@[simp] theorem setCore_dies (i : Nat) (v : Core) : (setCore s i v).dies = s.dies := rfl
@[simp] theorem setCore_groups (i : Nat) (v : Core) : (setCore s i v).groups = s.groups := rfl
@[simp] theorem setCore_launches (i : Nat) (v : Core) : (setCore s i v).launches = s.launches := rfl
@[simp] theorem setCore_graphs (i : Nat) (v : Core) : (setCore s i v).graphs = s.graphs := rfl
@[simp] theorem setCore_mem (i : Nat) (v : Core) : (setCore s i v).mem = s.mem := rfl
@[simp] theorem setCore_poison (i : Nat) (v : Core) : (setCore s i v).poison = s.poison := rfl
@[simp] theorem setCore_host (i : Nat) (v : Core) : (setCore s i v).host = s.host := rfl
@[simp] theorem setCore_msgs (i : Nat) (v : Core) : (setCore s i v).msgs = s.msgs := rfl
@[simp] theorem setCore_pends (i : Nat) (v : Core) : (setCore s i v).pends = s.pends := rfl
@[simp] theorem setCore_repls (i : Nat) (v : Core) : (setCore s i v).repls = s.repls := rfl
@[simp] theorem setCore_asks (i : Nat) (v : Core) : (setCore s i v).asks = s.asks := rfl
@[simp] theorem setCore_hostq (i : Nat) (v : Core) : (setCore s i v).hostq = s.hostq := rfl
@[simp] theorem setCore_outs (i : Nat) (v : Core) : (setCore s i v).outs = s.outs := rfl
@[simp] theorem setCore_agenda (i : Nat) (v : Core) : (setCore s i v).agenda = s.agenda := rfl
@[simp] theorem setCore_todo (i : Nat) (v : Core) : (setCore s i v).todo = s.todo := rfl
@[simp] theorem setCore_bundle (i : Nat) (v : Core) : (setCore s i v).bundle = s.bundle := rfl
@[simp] theorem setCore_cur (i : Nat) (v : Core) : (setCore s i v).cur = s.cur := rfl
@[simp] theorem setCore_arg (i : Nat) (v : Core) : (setCore s i v).arg = s.arg := rfl
@[simp] theorem setCore_defer (i : Nat) (v : Core) : (setCore s i v).defer = s.defer := rfl
@[simp] theorem setCore_turn (i : Nat) (v : Core) : (setCore s i v).turn = s.turn := rfl
@[simp] theorem setCore_free (i : Nat) (v : Core) : (setCore s i v).free = s.free := rfl
@[simp] theorem setCore_uid (i : Nat) (v : Core) : (setCore s i v).uid = s.uid := rfl
@[simp] theorem modCore_dev (i : Nat) (f : Core → Core) : (modCore s i f).dev = s.dev := rfl
@[simp] theorem modCore_ctxs (i : Nat) (f : Core → Core) : (modCore s i f).ctxs = s.ctxs := rfl
@[simp] theorem modCore_aps (i : Nat) (f : Core → Core) : (modCore s i f).aps = s.aps := rfl
@[simp] theorem modCore_wins (i : Nat) (f : Core → Core) : (modCore s i f).wins = s.wins := rfl
@[simp] theorem modCore_hwins (i : Nat) (f : Core → Core) : (modCore s i f).hwins = s.hwins := rfl
@[simp] theorem modCore_stk (i : Nat) (f : Core → Core) : (modCore s i f).stk = s.stk := rfl
@[simp] theorem modCore_links (i : Nat) (f : Core → Core) : (modCore s i f).links = s.links := rfl
@[simp] theorem modCore_dies (i : Nat) (f : Core → Core) : (modCore s i f).dies = s.dies := rfl
@[simp] theorem modCore_groups (i : Nat) (f : Core → Core) : (modCore s i f).groups = s.groups := rfl
@[simp] theorem modCore_launches (i : Nat) (f : Core → Core) : (modCore s i f).launches = s.launches := rfl
@[simp] theorem modCore_graphs (i : Nat) (f : Core → Core) : (modCore s i f).graphs = s.graphs := rfl
@[simp] theorem modCore_mem (i : Nat) (f : Core → Core) : (modCore s i f).mem = s.mem := rfl
@[simp] theorem modCore_poison (i : Nat) (f : Core → Core) : (modCore s i f).poison = s.poison := rfl
@[simp] theorem modCore_host (i : Nat) (f : Core → Core) : (modCore s i f).host = s.host := rfl
@[simp] theorem modCore_msgs (i : Nat) (f : Core → Core) : (modCore s i f).msgs = s.msgs := rfl
@[simp] theorem modCore_pends (i : Nat) (f : Core → Core) : (modCore s i f).pends = s.pends := rfl
@[simp] theorem modCore_repls (i : Nat) (f : Core → Core) : (modCore s i f).repls = s.repls := rfl
@[simp] theorem modCore_asks (i : Nat) (f : Core → Core) : (modCore s i f).asks = s.asks := rfl
@[simp] theorem modCore_hostq (i : Nat) (f : Core → Core) : (modCore s i f).hostq = s.hostq := rfl
@[simp] theorem modCore_outs (i : Nat) (f : Core → Core) : (modCore s i f).outs = s.outs := rfl
@[simp] theorem modCore_agenda (i : Nat) (f : Core → Core) : (modCore s i f).agenda = s.agenda := rfl
@[simp] theorem modCore_todo (i : Nat) (f : Core → Core) : (modCore s i f).todo = s.todo := rfl
@[simp] theorem modCore_bundle (i : Nat) (f : Core → Core) : (modCore s i f).bundle = s.bundle := rfl
@[simp] theorem modCore_cur (i : Nat) (f : Core → Core) : (modCore s i f).cur = s.cur := rfl
@[simp] theorem modCore_arg (i : Nat) (f : Core → Core) : (modCore s i f).arg = s.arg := rfl
@[simp] theorem modCore_defer (i : Nat) (f : Core → Core) : (modCore s i f).defer = s.defer := rfl
@[simp] theorem modCore_turn (i : Nat) (f : Core → Core) : (modCore s i f).turn = s.turn := rfl
@[simp] theorem modCore_free (i : Nat) (f : Core → Core) : (modCore s i f).free = s.free := rfl
@[simp] theorem modCore_uid (i : Nat) (f : Core → Core) : (modCore s i f).uid = s.uid := rfl
@[simp] theorem getCore_setCore (i : Nat) (v : Core) : getCore (setCore s i v) i = v := SMap.get_set_same _ _ _ _
theorem getCore_setCore_ne {i j : Nat} (h : i ≠ j) (v : Core) : getCore (setCore s i v) j = getCore s j :=
  SMap.get_set_other _ h _ _
@[simp] theorem getCore_modCore (i : Nat) (f : Core → Core) : getCore (modCore s i f) i = f (getCore s i) := getCore_setCore _ _ _
theorem getCore_modCore_ne {i j : Nat} (h : i ≠ j) (f : Core → Core) : getCore (modCore s i f) j = getCore s j :=
  getCore_setCore_ne _ h _
@[simp] theorem getDie_setCore (i j : Nat) (v : Core) : getDie (setCore s i v) j = getDie s j := rfl
@[simp] theorem getDie_modCore (i j : Nat) (f : Core → Core) : getDie (modCore s i f) j = getDie s j := rfl
@[simp] theorem getCtx_setCore (i j : Nat) (v : Core) : getCtx (setCore s i v) j = getCtx s j := rfl
@[simp] theorem getCtx_modCore (i j : Nat) (f : Core → Core) : getCtx (modCore s i f) j = getCtx s j := rfl
@[simp] theorem getAp_setCore (i j : Nat) (v : Core) : getAp (setCore s i v) j = getAp s j := rfl
@[simp] theorem getAp_modCore (i j : Nat) (f : Core → Core) : getAp (modCore s i f) j = getAp s j := rfl
@[simp] theorem getWin_setCore (i j : Nat) (v : Core) : getWin (setCore s i v) j = getWin s j := rfl
@[simp] theorem getWin_modCore (i j : Nat) (f : Core → Core) : getWin (modCore s i f) j = getWin s j := rfl
@[simp] theorem getHWin_setCore (i j : Nat) (v : Core) : getHWin (setCore s i v) j = getHWin s j := rfl
@[simp] theorem getHWin_modCore (i j : Nat) (f : Core → Core) : getHWin (modCore s i f) j = getHWin s j := rfl
@[simp] theorem getStack_setCore (i j : Nat) (v : Core) : getStack (setCore s i v) j = getStack s j := rfl
@[simp] theorem getStack_modCore (i j : Nat) (f : Core → Core) : getStack (modCore s i f) j = getStack s j := rfl
@[simp] theorem getLink_setCore (i j : Nat) (v : Core) : getLink (setCore s i v) j = getLink s j := rfl
@[simp] theorem getLink_modCore (i j : Nat) (f : Core → Core) : getLink (modCore s i f) j = getLink s j := rfl
@[simp] theorem getGroup_setCore (i j : Nat) (v : Core) : getGroup (setCore s i v) j = getGroup s j := rfl
@[simp] theorem getGroup_modCore (i j : Nat) (f : Core → Core) : getGroup (modCore s i f) j = getGroup s j := rfl
@[simp] theorem getLaunch_setCore (i j : Nat) (v : Core) : getLaunch (setCore s i v) j = getLaunch s j := rfl
@[simp] theorem getLaunch_modCore (i j : Nat) (f : Core → Core) : getLaunch (modCore s i f) j = getLaunch s j := rfl

/-! ## Die -/

@[simp] theorem setDie_dev (i : Nat) (v : Die) : (setDie s i v).dev = s.dev := rfl
@[simp] theorem setDie_ctxs (i : Nat) (v : Die) : (setDie s i v).ctxs = s.ctxs := rfl
@[simp] theorem setDie_aps (i : Nat) (v : Die) : (setDie s i v).aps = s.aps := rfl
@[simp] theorem setDie_wins (i : Nat) (v : Die) : (setDie s i v).wins = s.wins := rfl
@[simp] theorem setDie_hwins (i : Nat) (v : Die) : (setDie s i v).hwins = s.hwins := rfl
@[simp] theorem setDie_stk (i : Nat) (v : Die) : (setDie s i v).stk = s.stk := rfl
@[simp] theorem setDie_links (i : Nat) (v : Die) : (setDie s i v).links = s.links := rfl
@[simp] theorem setDie_cores (i : Nat) (v : Die) : (setDie s i v).cores = s.cores := rfl
@[simp] theorem setDie_groups (i : Nat) (v : Die) : (setDie s i v).groups = s.groups := rfl
@[simp] theorem setDie_launches (i : Nat) (v : Die) : (setDie s i v).launches = s.launches := rfl
@[simp] theorem setDie_graphs (i : Nat) (v : Die) : (setDie s i v).graphs = s.graphs := rfl
@[simp] theorem setDie_mem (i : Nat) (v : Die) : (setDie s i v).mem = s.mem := rfl
@[simp] theorem setDie_poison (i : Nat) (v : Die) : (setDie s i v).poison = s.poison := rfl
@[simp] theorem setDie_host (i : Nat) (v : Die) : (setDie s i v).host = s.host := rfl
@[simp] theorem setDie_msgs (i : Nat) (v : Die) : (setDie s i v).msgs = s.msgs := rfl
@[simp] theorem setDie_pends (i : Nat) (v : Die) : (setDie s i v).pends = s.pends := rfl
@[simp] theorem setDie_repls (i : Nat) (v : Die) : (setDie s i v).repls = s.repls := rfl
@[simp] theorem setDie_asks (i : Nat) (v : Die) : (setDie s i v).asks = s.asks := rfl
@[simp] theorem setDie_hostq (i : Nat) (v : Die) : (setDie s i v).hostq = s.hostq := rfl
@[simp] theorem setDie_outs (i : Nat) (v : Die) : (setDie s i v).outs = s.outs := rfl
@[simp] theorem setDie_agenda (i : Nat) (v : Die) : (setDie s i v).agenda = s.agenda := rfl
@[simp] theorem setDie_todo (i : Nat) (v : Die) : (setDie s i v).todo = s.todo := rfl
@[simp] theorem setDie_bundle (i : Nat) (v : Die) : (setDie s i v).bundle = s.bundle := rfl
@[simp] theorem setDie_cur (i : Nat) (v : Die) : (setDie s i v).cur = s.cur := rfl
@[simp] theorem setDie_arg (i : Nat) (v : Die) : (setDie s i v).arg = s.arg := rfl
@[simp] theorem setDie_defer (i : Nat) (v : Die) : (setDie s i v).defer = s.defer := rfl
@[simp] theorem setDie_turn (i : Nat) (v : Die) : (setDie s i v).turn = s.turn := rfl
@[simp] theorem setDie_free (i : Nat) (v : Die) : (setDie s i v).free = s.free := rfl
@[simp] theorem setDie_uid (i : Nat) (v : Die) : (setDie s i v).uid = s.uid := rfl
@[simp] theorem modDie_dev (i : Nat) (f : Die → Die) : (modDie s i f).dev = s.dev := rfl
@[simp] theorem modDie_ctxs (i : Nat) (f : Die → Die) : (modDie s i f).ctxs = s.ctxs := rfl
@[simp] theorem modDie_aps (i : Nat) (f : Die → Die) : (modDie s i f).aps = s.aps := rfl
@[simp] theorem modDie_wins (i : Nat) (f : Die → Die) : (modDie s i f).wins = s.wins := rfl
@[simp] theorem modDie_hwins (i : Nat) (f : Die → Die) : (modDie s i f).hwins = s.hwins := rfl
@[simp] theorem modDie_stk (i : Nat) (f : Die → Die) : (modDie s i f).stk = s.stk := rfl
@[simp] theorem modDie_links (i : Nat) (f : Die → Die) : (modDie s i f).links = s.links := rfl
@[simp] theorem modDie_cores (i : Nat) (f : Die → Die) : (modDie s i f).cores = s.cores := rfl
@[simp] theorem modDie_groups (i : Nat) (f : Die → Die) : (modDie s i f).groups = s.groups := rfl
@[simp] theorem modDie_launches (i : Nat) (f : Die → Die) : (modDie s i f).launches = s.launches := rfl
@[simp] theorem modDie_graphs (i : Nat) (f : Die → Die) : (modDie s i f).graphs = s.graphs := rfl
@[simp] theorem modDie_mem (i : Nat) (f : Die → Die) : (modDie s i f).mem = s.mem := rfl
@[simp] theorem modDie_poison (i : Nat) (f : Die → Die) : (modDie s i f).poison = s.poison := rfl
@[simp] theorem modDie_host (i : Nat) (f : Die → Die) : (modDie s i f).host = s.host := rfl
@[simp] theorem modDie_msgs (i : Nat) (f : Die → Die) : (modDie s i f).msgs = s.msgs := rfl
@[simp] theorem modDie_pends (i : Nat) (f : Die → Die) : (modDie s i f).pends = s.pends := rfl
@[simp] theorem modDie_repls (i : Nat) (f : Die → Die) : (modDie s i f).repls = s.repls := rfl
@[simp] theorem modDie_asks (i : Nat) (f : Die → Die) : (modDie s i f).asks = s.asks := rfl
@[simp] theorem modDie_hostq (i : Nat) (f : Die → Die) : (modDie s i f).hostq = s.hostq := rfl
@[simp] theorem modDie_outs (i : Nat) (f : Die → Die) : (modDie s i f).outs = s.outs := rfl
@[simp] theorem modDie_agenda (i : Nat) (f : Die → Die) : (modDie s i f).agenda = s.agenda := rfl
@[simp] theorem modDie_todo (i : Nat) (f : Die → Die) : (modDie s i f).todo = s.todo := rfl
@[simp] theorem modDie_bundle (i : Nat) (f : Die → Die) : (modDie s i f).bundle = s.bundle := rfl
@[simp] theorem modDie_cur (i : Nat) (f : Die → Die) : (modDie s i f).cur = s.cur := rfl
@[simp] theorem modDie_arg (i : Nat) (f : Die → Die) : (modDie s i f).arg = s.arg := rfl
@[simp] theorem modDie_defer (i : Nat) (f : Die → Die) : (modDie s i f).defer = s.defer := rfl
@[simp] theorem modDie_turn (i : Nat) (f : Die → Die) : (modDie s i f).turn = s.turn := rfl
@[simp] theorem modDie_free (i : Nat) (f : Die → Die) : (modDie s i f).free = s.free := rfl
@[simp] theorem modDie_uid (i : Nat) (f : Die → Die) : (modDie s i f).uid = s.uid := rfl
@[simp] theorem getDie_setDie (i : Nat) (v : Die) : getDie (setDie s i v) i = v := SMap.get_set_same _ _ _ _
theorem getDie_setDie_ne {i j : Nat} (h : i ≠ j) (v : Die) : getDie (setDie s i v) j = getDie s j :=
  SMap.get_set_other _ h _ _
@[simp] theorem getDie_modDie (i : Nat) (f : Die → Die) : getDie (modDie s i f) i = f (getDie s i) := getDie_setDie _ _ _
theorem getDie_modDie_ne {i j : Nat} (h : i ≠ j) (f : Die → Die) : getDie (modDie s i f) j = getDie s j :=
  getDie_setDie_ne _ h _
@[simp] theorem getCore_setDie (i j : Nat) (v : Die) : getCore (setDie s i v) j = getCore s j := rfl
@[simp] theorem getCore_modDie (i j : Nat) (f : Die → Die) : getCore (modDie s i f) j = getCore s j := rfl
@[simp] theorem getCtx_setDie (i j : Nat) (v : Die) : getCtx (setDie s i v) j = getCtx s j := rfl
@[simp] theorem getCtx_modDie (i j : Nat) (f : Die → Die) : getCtx (modDie s i f) j = getCtx s j := rfl
@[simp] theorem getAp_setDie (i j : Nat) (v : Die) : getAp (setDie s i v) j = getAp s j := rfl
@[simp] theorem getAp_modDie (i j : Nat) (f : Die → Die) : getAp (modDie s i f) j = getAp s j := rfl
@[simp] theorem getWin_setDie (i j : Nat) (v : Die) : getWin (setDie s i v) j = getWin s j := rfl
@[simp] theorem getWin_modDie (i j : Nat) (f : Die → Die) : getWin (modDie s i f) j = getWin s j := rfl
@[simp] theorem getHWin_setDie (i j : Nat) (v : Die) : getHWin (setDie s i v) j = getHWin s j := rfl
@[simp] theorem getHWin_modDie (i j : Nat) (f : Die → Die) : getHWin (modDie s i f) j = getHWin s j := rfl
@[simp] theorem getStack_setDie (i j : Nat) (v : Die) : getStack (setDie s i v) j = getStack s j := rfl
@[simp] theorem getStack_modDie (i j : Nat) (f : Die → Die) : getStack (modDie s i f) j = getStack s j := rfl
@[simp] theorem getLink_setDie (i j : Nat) (v : Die) : getLink (setDie s i v) j = getLink s j := rfl
@[simp] theorem getLink_modDie (i j : Nat) (f : Die → Die) : getLink (modDie s i f) j = getLink s j := rfl
@[simp] theorem getGroup_setDie (i j : Nat) (v : Die) : getGroup (setDie s i v) j = getGroup s j := rfl
@[simp] theorem getGroup_modDie (i j : Nat) (f : Die → Die) : getGroup (modDie s i f) j = getGroup s j := rfl
@[simp] theorem getLaunch_setDie (i j : Nat) (v : Die) : getLaunch (setDie s i v) j = getLaunch s j := rfl
@[simp] theorem getLaunch_modDie (i j : Nat) (f : Die → Die) : getLaunch (modDie s i f) j = getLaunch s j := rfl

/-! ## Ctx -/

@[simp] theorem setCtx_dev (i : Nat) (v : Ctx) : (setCtx s i v).dev = s.dev := rfl
@[simp] theorem setCtx_aps (i : Nat) (v : Ctx) : (setCtx s i v).aps = s.aps := rfl
@[simp] theorem setCtx_wins (i : Nat) (v : Ctx) : (setCtx s i v).wins = s.wins := rfl
@[simp] theorem setCtx_hwins (i : Nat) (v : Ctx) : (setCtx s i v).hwins = s.hwins := rfl
@[simp] theorem setCtx_stk (i : Nat) (v : Ctx) : (setCtx s i v).stk = s.stk := rfl
@[simp] theorem setCtx_links (i : Nat) (v : Ctx) : (setCtx s i v).links = s.links := rfl
@[simp] theorem setCtx_dies (i : Nat) (v : Ctx) : (setCtx s i v).dies = s.dies := rfl
@[simp] theorem setCtx_cores (i : Nat) (v : Ctx) : (setCtx s i v).cores = s.cores := rfl
@[simp] theorem setCtx_groups (i : Nat) (v : Ctx) : (setCtx s i v).groups = s.groups := rfl
@[simp] theorem setCtx_launches (i : Nat) (v : Ctx) : (setCtx s i v).launches = s.launches := rfl
@[simp] theorem setCtx_graphs (i : Nat) (v : Ctx) : (setCtx s i v).graphs = s.graphs := rfl
@[simp] theorem setCtx_mem (i : Nat) (v : Ctx) : (setCtx s i v).mem = s.mem := rfl
@[simp] theorem setCtx_poison (i : Nat) (v : Ctx) : (setCtx s i v).poison = s.poison := rfl
@[simp] theorem setCtx_host (i : Nat) (v : Ctx) : (setCtx s i v).host = s.host := rfl
@[simp] theorem setCtx_msgs (i : Nat) (v : Ctx) : (setCtx s i v).msgs = s.msgs := rfl
@[simp] theorem setCtx_pends (i : Nat) (v : Ctx) : (setCtx s i v).pends = s.pends := rfl
@[simp] theorem setCtx_repls (i : Nat) (v : Ctx) : (setCtx s i v).repls = s.repls := rfl
@[simp] theorem setCtx_asks (i : Nat) (v : Ctx) : (setCtx s i v).asks = s.asks := rfl
@[simp] theorem setCtx_hostq (i : Nat) (v : Ctx) : (setCtx s i v).hostq = s.hostq := rfl
@[simp] theorem setCtx_outs (i : Nat) (v : Ctx) : (setCtx s i v).outs = s.outs := rfl
@[simp] theorem setCtx_agenda (i : Nat) (v : Ctx) : (setCtx s i v).agenda = s.agenda := rfl
@[simp] theorem setCtx_todo (i : Nat) (v : Ctx) : (setCtx s i v).todo = s.todo := rfl
@[simp] theorem setCtx_bundle (i : Nat) (v : Ctx) : (setCtx s i v).bundle = s.bundle := rfl
@[simp] theorem setCtx_cur (i : Nat) (v : Ctx) : (setCtx s i v).cur = s.cur := rfl
@[simp] theorem setCtx_arg (i : Nat) (v : Ctx) : (setCtx s i v).arg = s.arg := rfl
@[simp] theorem setCtx_defer (i : Nat) (v : Ctx) : (setCtx s i v).defer = s.defer := rfl
@[simp] theorem setCtx_turn (i : Nat) (v : Ctx) : (setCtx s i v).turn = s.turn := rfl
@[simp] theorem setCtx_free (i : Nat) (v : Ctx) : (setCtx s i v).free = s.free := rfl
@[simp] theorem setCtx_uid (i : Nat) (v : Ctx) : (setCtx s i v).uid = s.uid := rfl
@[simp] theorem modCtx_dev (i : Nat) (f : Ctx → Ctx) : (modCtx s i f).dev = s.dev := rfl
@[simp] theorem modCtx_aps (i : Nat) (f : Ctx → Ctx) : (modCtx s i f).aps = s.aps := rfl
@[simp] theorem modCtx_wins (i : Nat) (f : Ctx → Ctx) : (modCtx s i f).wins = s.wins := rfl
@[simp] theorem modCtx_hwins (i : Nat) (f : Ctx → Ctx) : (modCtx s i f).hwins = s.hwins := rfl
@[simp] theorem modCtx_stk (i : Nat) (f : Ctx → Ctx) : (modCtx s i f).stk = s.stk := rfl
@[simp] theorem modCtx_links (i : Nat) (f : Ctx → Ctx) : (modCtx s i f).links = s.links := rfl
@[simp] theorem modCtx_dies (i : Nat) (f : Ctx → Ctx) : (modCtx s i f).dies = s.dies := rfl
@[simp] theorem modCtx_cores (i : Nat) (f : Ctx → Ctx) : (modCtx s i f).cores = s.cores := rfl
@[simp] theorem modCtx_groups (i : Nat) (f : Ctx → Ctx) : (modCtx s i f).groups = s.groups := rfl
@[simp] theorem modCtx_launches (i : Nat) (f : Ctx → Ctx) : (modCtx s i f).launches = s.launches := rfl
@[simp] theorem modCtx_graphs (i : Nat) (f : Ctx → Ctx) : (modCtx s i f).graphs = s.graphs := rfl
@[simp] theorem modCtx_mem (i : Nat) (f : Ctx → Ctx) : (modCtx s i f).mem = s.mem := rfl
@[simp] theorem modCtx_poison (i : Nat) (f : Ctx → Ctx) : (modCtx s i f).poison = s.poison := rfl
@[simp] theorem modCtx_host (i : Nat) (f : Ctx → Ctx) : (modCtx s i f).host = s.host := rfl
@[simp] theorem modCtx_msgs (i : Nat) (f : Ctx → Ctx) : (modCtx s i f).msgs = s.msgs := rfl
@[simp] theorem modCtx_pends (i : Nat) (f : Ctx → Ctx) : (modCtx s i f).pends = s.pends := rfl
@[simp] theorem modCtx_repls (i : Nat) (f : Ctx → Ctx) : (modCtx s i f).repls = s.repls := rfl
@[simp] theorem modCtx_asks (i : Nat) (f : Ctx → Ctx) : (modCtx s i f).asks = s.asks := rfl
@[simp] theorem modCtx_hostq (i : Nat) (f : Ctx → Ctx) : (modCtx s i f).hostq = s.hostq := rfl
@[simp] theorem modCtx_outs (i : Nat) (f : Ctx → Ctx) : (modCtx s i f).outs = s.outs := rfl
@[simp] theorem modCtx_agenda (i : Nat) (f : Ctx → Ctx) : (modCtx s i f).agenda = s.agenda := rfl
@[simp] theorem modCtx_todo (i : Nat) (f : Ctx → Ctx) : (modCtx s i f).todo = s.todo := rfl
@[simp] theorem modCtx_bundle (i : Nat) (f : Ctx → Ctx) : (modCtx s i f).bundle = s.bundle := rfl
@[simp] theorem modCtx_cur (i : Nat) (f : Ctx → Ctx) : (modCtx s i f).cur = s.cur := rfl
@[simp] theorem modCtx_arg (i : Nat) (f : Ctx → Ctx) : (modCtx s i f).arg = s.arg := rfl
@[simp] theorem modCtx_defer (i : Nat) (f : Ctx → Ctx) : (modCtx s i f).defer = s.defer := rfl
@[simp] theorem modCtx_turn (i : Nat) (f : Ctx → Ctx) : (modCtx s i f).turn = s.turn := rfl
@[simp] theorem modCtx_free (i : Nat) (f : Ctx → Ctx) : (modCtx s i f).free = s.free := rfl
@[simp] theorem modCtx_uid (i : Nat) (f : Ctx → Ctx) : (modCtx s i f).uid = s.uid := rfl
@[simp] theorem getCtx_setCtx (i : Nat) (v : Ctx) : getCtx (setCtx s i v) i = v := SMap.get_set_same _ _ _ _
theorem getCtx_setCtx_ne {i j : Nat} (h : i ≠ j) (v : Ctx) : getCtx (setCtx s i v) j = getCtx s j :=
  SMap.get_set_other _ h _ _
@[simp] theorem getCtx_modCtx (i : Nat) (f : Ctx → Ctx) : getCtx (modCtx s i f) i = f (getCtx s i) := getCtx_setCtx _ _ _
theorem getCtx_modCtx_ne {i j : Nat} (h : i ≠ j) (f : Ctx → Ctx) : getCtx (modCtx s i f) j = getCtx s j :=
  getCtx_setCtx_ne _ h _
@[simp] theorem getCore_setCtx (i j : Nat) (v : Ctx) : getCore (setCtx s i v) j = getCore s j := rfl
@[simp] theorem getCore_modCtx (i j : Nat) (f : Ctx → Ctx) : getCore (modCtx s i f) j = getCore s j := rfl
@[simp] theorem getDie_setCtx (i j : Nat) (v : Ctx) : getDie (setCtx s i v) j = getDie s j := rfl
@[simp] theorem getDie_modCtx (i j : Nat) (f : Ctx → Ctx) : getDie (modCtx s i f) j = getDie s j := rfl
@[simp] theorem getAp_setCtx (i j : Nat) (v : Ctx) : getAp (setCtx s i v) j = getAp s j := rfl
@[simp] theorem getAp_modCtx (i j : Nat) (f : Ctx → Ctx) : getAp (modCtx s i f) j = getAp s j := rfl
@[simp] theorem getWin_setCtx (i j : Nat) (v : Ctx) : getWin (setCtx s i v) j = getWin s j := rfl
@[simp] theorem getWin_modCtx (i j : Nat) (f : Ctx → Ctx) : getWin (modCtx s i f) j = getWin s j := rfl
@[simp] theorem getHWin_setCtx (i j : Nat) (v : Ctx) : getHWin (setCtx s i v) j = getHWin s j := rfl
@[simp] theorem getHWin_modCtx (i j : Nat) (f : Ctx → Ctx) : getHWin (modCtx s i f) j = getHWin s j := rfl
@[simp] theorem getStack_setCtx (i j : Nat) (v : Ctx) : getStack (setCtx s i v) j = getStack s j := rfl
@[simp] theorem getStack_modCtx (i j : Nat) (f : Ctx → Ctx) : getStack (modCtx s i f) j = getStack s j := rfl
@[simp] theorem getLink_setCtx (i j : Nat) (v : Ctx) : getLink (setCtx s i v) j = getLink s j := rfl
@[simp] theorem getLink_modCtx (i j : Nat) (f : Ctx → Ctx) : getLink (modCtx s i f) j = getLink s j := rfl
@[simp] theorem getGroup_setCtx (i j : Nat) (v : Ctx) : getGroup (setCtx s i v) j = getGroup s j := rfl
@[simp] theorem getGroup_modCtx (i j : Nat) (f : Ctx → Ctx) : getGroup (modCtx s i f) j = getGroup s j := rfl
@[simp] theorem getLaunch_setCtx (i j : Nat) (v : Ctx) : getLaunch (setCtx s i v) j = getLaunch s j := rfl
@[simp] theorem getLaunch_modCtx (i j : Nat) (f : Ctx → Ctx) : getLaunch (modCtx s i f) j = getLaunch s j := rfl

/-! ## Ap -/

@[simp] theorem setAp_dev (i : Nat) (v : Ap) : (setAp s i v).dev = s.dev := rfl
@[simp] theorem setAp_ctxs (i : Nat) (v : Ap) : (setAp s i v).ctxs = s.ctxs := rfl
@[simp] theorem setAp_wins (i : Nat) (v : Ap) : (setAp s i v).wins = s.wins := rfl
@[simp] theorem setAp_hwins (i : Nat) (v : Ap) : (setAp s i v).hwins = s.hwins := rfl
@[simp] theorem setAp_stk (i : Nat) (v : Ap) : (setAp s i v).stk = s.stk := rfl
@[simp] theorem setAp_links (i : Nat) (v : Ap) : (setAp s i v).links = s.links := rfl
@[simp] theorem setAp_dies (i : Nat) (v : Ap) : (setAp s i v).dies = s.dies := rfl
@[simp] theorem setAp_cores (i : Nat) (v : Ap) : (setAp s i v).cores = s.cores := rfl
@[simp] theorem setAp_groups (i : Nat) (v : Ap) : (setAp s i v).groups = s.groups := rfl
@[simp] theorem setAp_launches (i : Nat) (v : Ap) : (setAp s i v).launches = s.launches := rfl
@[simp] theorem setAp_graphs (i : Nat) (v : Ap) : (setAp s i v).graphs = s.graphs := rfl
@[simp] theorem setAp_mem (i : Nat) (v : Ap) : (setAp s i v).mem = s.mem := rfl
@[simp] theorem setAp_poison (i : Nat) (v : Ap) : (setAp s i v).poison = s.poison := rfl
@[simp] theorem setAp_host (i : Nat) (v : Ap) : (setAp s i v).host = s.host := rfl
@[simp] theorem setAp_msgs (i : Nat) (v : Ap) : (setAp s i v).msgs = s.msgs := rfl
@[simp] theorem setAp_pends (i : Nat) (v : Ap) : (setAp s i v).pends = s.pends := rfl
@[simp] theorem setAp_repls (i : Nat) (v : Ap) : (setAp s i v).repls = s.repls := rfl
@[simp] theorem setAp_asks (i : Nat) (v : Ap) : (setAp s i v).asks = s.asks := rfl
@[simp] theorem setAp_hostq (i : Nat) (v : Ap) : (setAp s i v).hostq = s.hostq := rfl
@[simp] theorem setAp_outs (i : Nat) (v : Ap) : (setAp s i v).outs = s.outs := rfl
@[simp] theorem setAp_agenda (i : Nat) (v : Ap) : (setAp s i v).agenda = s.agenda := rfl
@[simp] theorem setAp_todo (i : Nat) (v : Ap) : (setAp s i v).todo = s.todo := rfl
@[simp] theorem setAp_bundle (i : Nat) (v : Ap) : (setAp s i v).bundle = s.bundle := rfl
@[simp] theorem setAp_cur (i : Nat) (v : Ap) : (setAp s i v).cur = s.cur := rfl
@[simp] theorem setAp_arg (i : Nat) (v : Ap) : (setAp s i v).arg = s.arg := rfl
@[simp] theorem setAp_defer (i : Nat) (v : Ap) : (setAp s i v).defer = s.defer := rfl
@[simp] theorem setAp_turn (i : Nat) (v : Ap) : (setAp s i v).turn = s.turn := rfl
@[simp] theorem setAp_free (i : Nat) (v : Ap) : (setAp s i v).free = s.free := rfl
@[simp] theorem setAp_uid (i : Nat) (v : Ap) : (setAp s i v).uid = s.uid := rfl
@[simp] theorem getAp_setAp (i : Nat) (v : Ap) : getAp (setAp s i v) i = v := SMap.get_set_same _ _ _ _
theorem getAp_setAp_ne {i j : Nat} (h : i ≠ j) (v : Ap) : getAp (setAp s i v) j = getAp s j :=
  SMap.get_set_other _ h _ _
@[simp] theorem getCore_setAp (i j : Nat) (v : Ap) : getCore (setAp s i v) j = getCore s j := rfl
@[simp] theorem getDie_setAp (i j : Nat) (v : Ap) : getDie (setAp s i v) j = getDie s j := rfl
@[simp] theorem getCtx_setAp (i j : Nat) (v : Ap) : getCtx (setAp s i v) j = getCtx s j := rfl
@[simp] theorem getWin_setAp (i j : Nat) (v : Ap) : getWin (setAp s i v) j = getWin s j := rfl
@[simp] theorem getHWin_setAp (i j : Nat) (v : Ap) : getHWin (setAp s i v) j = getHWin s j := rfl
@[simp] theorem getStack_setAp (i j : Nat) (v : Ap) : getStack (setAp s i v) j = getStack s j := rfl
@[simp] theorem getLink_setAp (i j : Nat) (v : Ap) : getLink (setAp s i v) j = getLink s j := rfl
@[simp] theorem getGroup_setAp (i j : Nat) (v : Ap) : getGroup (setAp s i v) j = getGroup s j := rfl
@[simp] theorem getLaunch_setAp (i j : Nat) (v : Ap) : getLaunch (setAp s i v) j = getLaunch s j := rfl

/-! ## Win -/

@[simp] theorem setWin_dev (i : Nat) (v : Win) : (setWin s i v).dev = s.dev := rfl
@[simp] theorem setWin_ctxs (i : Nat) (v : Win) : (setWin s i v).ctxs = s.ctxs := rfl
@[simp] theorem setWin_aps (i : Nat) (v : Win) : (setWin s i v).aps = s.aps := rfl
@[simp] theorem setWin_hwins (i : Nat) (v : Win) : (setWin s i v).hwins = s.hwins := rfl
@[simp] theorem setWin_stk (i : Nat) (v : Win) : (setWin s i v).stk = s.stk := rfl
@[simp] theorem setWin_links (i : Nat) (v : Win) : (setWin s i v).links = s.links := rfl
@[simp] theorem setWin_dies (i : Nat) (v : Win) : (setWin s i v).dies = s.dies := rfl
@[simp] theorem setWin_cores (i : Nat) (v : Win) : (setWin s i v).cores = s.cores := rfl
@[simp] theorem setWin_groups (i : Nat) (v : Win) : (setWin s i v).groups = s.groups := rfl
@[simp] theorem setWin_launches (i : Nat) (v : Win) : (setWin s i v).launches = s.launches := rfl
@[simp] theorem setWin_graphs (i : Nat) (v : Win) : (setWin s i v).graphs = s.graphs := rfl
@[simp] theorem setWin_mem (i : Nat) (v : Win) : (setWin s i v).mem = s.mem := rfl
@[simp] theorem setWin_poison (i : Nat) (v : Win) : (setWin s i v).poison = s.poison := rfl
@[simp] theorem setWin_host (i : Nat) (v : Win) : (setWin s i v).host = s.host := rfl
@[simp] theorem setWin_msgs (i : Nat) (v : Win) : (setWin s i v).msgs = s.msgs := rfl
@[simp] theorem setWin_pends (i : Nat) (v : Win) : (setWin s i v).pends = s.pends := rfl
@[simp] theorem setWin_repls (i : Nat) (v : Win) : (setWin s i v).repls = s.repls := rfl
@[simp] theorem setWin_asks (i : Nat) (v : Win) : (setWin s i v).asks = s.asks := rfl
@[simp] theorem setWin_hostq (i : Nat) (v : Win) : (setWin s i v).hostq = s.hostq := rfl
@[simp] theorem setWin_outs (i : Nat) (v : Win) : (setWin s i v).outs = s.outs := rfl
@[simp] theorem setWin_agenda (i : Nat) (v : Win) : (setWin s i v).agenda = s.agenda := rfl
@[simp] theorem setWin_todo (i : Nat) (v : Win) : (setWin s i v).todo = s.todo := rfl
@[simp] theorem setWin_bundle (i : Nat) (v : Win) : (setWin s i v).bundle = s.bundle := rfl
@[simp] theorem setWin_cur (i : Nat) (v : Win) : (setWin s i v).cur = s.cur := rfl
@[simp] theorem setWin_arg (i : Nat) (v : Win) : (setWin s i v).arg = s.arg := rfl
@[simp] theorem setWin_defer (i : Nat) (v : Win) : (setWin s i v).defer = s.defer := rfl
@[simp] theorem setWin_turn (i : Nat) (v : Win) : (setWin s i v).turn = s.turn := rfl
@[simp] theorem setWin_free (i : Nat) (v : Win) : (setWin s i v).free = s.free := rfl
@[simp] theorem setWin_uid (i : Nat) (v : Win) : (setWin s i v).uid = s.uid := rfl
@[simp] theorem getWin_setWin (i : Nat) (v : Win) : getWin (setWin s i v) i = v := SMap.get_set_same _ _ _ _
theorem getWin_setWin_ne {i j : Nat} (h : i ≠ j) (v : Win) : getWin (setWin s i v) j = getWin s j :=
  SMap.get_set_other _ h _ _
@[simp] theorem getCore_setWin (i j : Nat) (v : Win) : getCore (setWin s i v) j = getCore s j := rfl
@[simp] theorem getDie_setWin (i j : Nat) (v : Win) : getDie (setWin s i v) j = getDie s j := rfl
@[simp] theorem getCtx_setWin (i j : Nat) (v : Win) : getCtx (setWin s i v) j = getCtx s j := rfl
@[simp] theorem getAp_setWin (i j : Nat) (v : Win) : getAp (setWin s i v) j = getAp s j := rfl
@[simp] theorem getHWin_setWin (i j : Nat) (v : Win) : getHWin (setWin s i v) j = getHWin s j := rfl
@[simp] theorem getStack_setWin (i j : Nat) (v : Win) : getStack (setWin s i v) j = getStack s j := rfl
@[simp] theorem getLink_setWin (i j : Nat) (v : Win) : getLink (setWin s i v) j = getLink s j := rfl
@[simp] theorem getGroup_setWin (i j : Nat) (v : Win) : getGroup (setWin s i v) j = getGroup s j := rfl
@[simp] theorem getLaunch_setWin (i j : Nat) (v : Win) : getLaunch (setWin s i v) j = getLaunch s j := rfl

/-! ## HWin -/

@[simp] theorem setHWin_dev (i : Nat) (v : HWin) : (setHWin s i v).dev = s.dev := rfl
@[simp] theorem setHWin_ctxs (i : Nat) (v : HWin) : (setHWin s i v).ctxs = s.ctxs := rfl
@[simp] theorem setHWin_aps (i : Nat) (v : HWin) : (setHWin s i v).aps = s.aps := rfl
@[simp] theorem setHWin_wins (i : Nat) (v : HWin) : (setHWin s i v).wins = s.wins := rfl
@[simp] theorem setHWin_stk (i : Nat) (v : HWin) : (setHWin s i v).stk = s.stk := rfl
@[simp] theorem setHWin_links (i : Nat) (v : HWin) : (setHWin s i v).links = s.links := rfl
@[simp] theorem setHWin_dies (i : Nat) (v : HWin) : (setHWin s i v).dies = s.dies := rfl
@[simp] theorem setHWin_cores (i : Nat) (v : HWin) : (setHWin s i v).cores = s.cores := rfl
@[simp] theorem setHWin_groups (i : Nat) (v : HWin) : (setHWin s i v).groups = s.groups := rfl
@[simp] theorem setHWin_launches (i : Nat) (v : HWin) : (setHWin s i v).launches = s.launches := rfl
@[simp] theorem setHWin_graphs (i : Nat) (v : HWin) : (setHWin s i v).graphs = s.graphs := rfl
@[simp] theorem setHWin_mem (i : Nat) (v : HWin) : (setHWin s i v).mem = s.mem := rfl
@[simp] theorem setHWin_poison (i : Nat) (v : HWin) : (setHWin s i v).poison = s.poison := rfl
@[simp] theorem setHWin_host (i : Nat) (v : HWin) : (setHWin s i v).host = s.host := rfl
@[simp] theorem setHWin_msgs (i : Nat) (v : HWin) : (setHWin s i v).msgs = s.msgs := rfl
@[simp] theorem setHWin_pends (i : Nat) (v : HWin) : (setHWin s i v).pends = s.pends := rfl
@[simp] theorem setHWin_repls (i : Nat) (v : HWin) : (setHWin s i v).repls = s.repls := rfl
@[simp] theorem setHWin_asks (i : Nat) (v : HWin) : (setHWin s i v).asks = s.asks := rfl
@[simp] theorem setHWin_hostq (i : Nat) (v : HWin) : (setHWin s i v).hostq = s.hostq := rfl
@[simp] theorem setHWin_outs (i : Nat) (v : HWin) : (setHWin s i v).outs = s.outs := rfl
@[simp] theorem setHWin_agenda (i : Nat) (v : HWin) : (setHWin s i v).agenda = s.agenda := rfl
@[simp] theorem setHWin_todo (i : Nat) (v : HWin) : (setHWin s i v).todo = s.todo := rfl
@[simp] theorem setHWin_bundle (i : Nat) (v : HWin) : (setHWin s i v).bundle = s.bundle := rfl
@[simp] theorem setHWin_cur (i : Nat) (v : HWin) : (setHWin s i v).cur = s.cur := rfl
@[simp] theorem setHWin_arg (i : Nat) (v : HWin) : (setHWin s i v).arg = s.arg := rfl
@[simp] theorem setHWin_defer (i : Nat) (v : HWin) : (setHWin s i v).defer = s.defer := rfl
@[simp] theorem setHWin_turn (i : Nat) (v : HWin) : (setHWin s i v).turn = s.turn := rfl
@[simp] theorem setHWin_free (i : Nat) (v : HWin) : (setHWin s i v).free = s.free := rfl
@[simp] theorem setHWin_uid (i : Nat) (v : HWin) : (setHWin s i v).uid = s.uid := rfl
@[simp] theorem getHWin_setHWin (i : Nat) (v : HWin) : getHWin (setHWin s i v) i = v := SMap.get_set_same _ _ _ _
theorem getHWin_setHWin_ne {i j : Nat} (h : i ≠ j) (v : HWin) : getHWin (setHWin s i v) j = getHWin s j :=
  SMap.get_set_other _ h _ _
@[simp] theorem getCore_setHWin (i j : Nat) (v : HWin) : getCore (setHWin s i v) j = getCore s j := rfl
@[simp] theorem getDie_setHWin (i j : Nat) (v : HWin) : getDie (setHWin s i v) j = getDie s j := rfl
@[simp] theorem getCtx_setHWin (i j : Nat) (v : HWin) : getCtx (setHWin s i v) j = getCtx s j := rfl
@[simp] theorem getAp_setHWin (i j : Nat) (v : HWin) : getAp (setHWin s i v) j = getAp s j := rfl
@[simp] theorem getWin_setHWin (i j : Nat) (v : HWin) : getWin (setHWin s i v) j = getWin s j := rfl
@[simp] theorem getStack_setHWin (i j : Nat) (v : HWin) : getStack (setHWin s i v) j = getStack s j := rfl
@[simp] theorem getLink_setHWin (i j : Nat) (v : HWin) : getLink (setHWin s i v) j = getLink s j := rfl
@[simp] theorem getGroup_setHWin (i j : Nat) (v : HWin) : getGroup (setHWin s i v) j = getGroup s j := rfl
@[simp] theorem getLaunch_setHWin (i j : Nat) (v : HWin) : getLaunch (setHWin s i v) j = getLaunch s j := rfl

/-! ## Stack -/

@[simp] theorem setStack_dev (i : Nat) (v : Stack) : (setStack s i v).dev = s.dev := rfl
@[simp] theorem setStack_ctxs (i : Nat) (v : Stack) : (setStack s i v).ctxs = s.ctxs := rfl
@[simp] theorem setStack_aps (i : Nat) (v : Stack) : (setStack s i v).aps = s.aps := rfl
@[simp] theorem setStack_wins (i : Nat) (v : Stack) : (setStack s i v).wins = s.wins := rfl
@[simp] theorem setStack_hwins (i : Nat) (v : Stack) : (setStack s i v).hwins = s.hwins := rfl
@[simp] theorem setStack_links (i : Nat) (v : Stack) : (setStack s i v).links = s.links := rfl
@[simp] theorem setStack_dies (i : Nat) (v : Stack) : (setStack s i v).dies = s.dies := rfl
@[simp] theorem setStack_cores (i : Nat) (v : Stack) : (setStack s i v).cores = s.cores := rfl
@[simp] theorem setStack_groups (i : Nat) (v : Stack) : (setStack s i v).groups = s.groups := rfl
@[simp] theorem setStack_launches (i : Nat) (v : Stack) : (setStack s i v).launches = s.launches := rfl
@[simp] theorem setStack_graphs (i : Nat) (v : Stack) : (setStack s i v).graphs = s.graphs := rfl
@[simp] theorem setStack_mem (i : Nat) (v : Stack) : (setStack s i v).mem = s.mem := rfl
@[simp] theorem setStack_poison (i : Nat) (v : Stack) : (setStack s i v).poison = s.poison := rfl
@[simp] theorem setStack_host (i : Nat) (v : Stack) : (setStack s i v).host = s.host := rfl
@[simp] theorem setStack_msgs (i : Nat) (v : Stack) : (setStack s i v).msgs = s.msgs := rfl
@[simp] theorem setStack_pends (i : Nat) (v : Stack) : (setStack s i v).pends = s.pends := rfl
@[simp] theorem setStack_repls (i : Nat) (v : Stack) : (setStack s i v).repls = s.repls := rfl
@[simp] theorem setStack_asks (i : Nat) (v : Stack) : (setStack s i v).asks = s.asks := rfl
@[simp] theorem setStack_hostq (i : Nat) (v : Stack) : (setStack s i v).hostq = s.hostq := rfl
@[simp] theorem setStack_outs (i : Nat) (v : Stack) : (setStack s i v).outs = s.outs := rfl
@[simp] theorem setStack_agenda (i : Nat) (v : Stack) : (setStack s i v).agenda = s.agenda := rfl
@[simp] theorem setStack_todo (i : Nat) (v : Stack) : (setStack s i v).todo = s.todo := rfl
@[simp] theorem setStack_bundle (i : Nat) (v : Stack) : (setStack s i v).bundle = s.bundle := rfl
@[simp] theorem setStack_cur (i : Nat) (v : Stack) : (setStack s i v).cur = s.cur := rfl
@[simp] theorem setStack_arg (i : Nat) (v : Stack) : (setStack s i v).arg = s.arg := rfl
@[simp] theorem setStack_defer (i : Nat) (v : Stack) : (setStack s i v).defer = s.defer := rfl
@[simp] theorem setStack_turn (i : Nat) (v : Stack) : (setStack s i v).turn = s.turn := rfl
@[simp] theorem setStack_free (i : Nat) (v : Stack) : (setStack s i v).free = s.free := rfl
@[simp] theorem setStack_uid (i : Nat) (v : Stack) : (setStack s i v).uid = s.uid := rfl
@[simp] theorem modStack_dev (i : Nat) (f : Stack → Stack) : (modStack s i f).dev = s.dev := rfl
@[simp] theorem modStack_ctxs (i : Nat) (f : Stack → Stack) : (modStack s i f).ctxs = s.ctxs := rfl
@[simp] theorem modStack_aps (i : Nat) (f : Stack → Stack) : (modStack s i f).aps = s.aps := rfl
@[simp] theorem modStack_wins (i : Nat) (f : Stack → Stack) : (modStack s i f).wins = s.wins := rfl
@[simp] theorem modStack_hwins (i : Nat) (f : Stack → Stack) : (modStack s i f).hwins = s.hwins := rfl
@[simp] theorem modStack_links (i : Nat) (f : Stack → Stack) : (modStack s i f).links = s.links := rfl
@[simp] theorem modStack_dies (i : Nat) (f : Stack → Stack) : (modStack s i f).dies = s.dies := rfl
@[simp] theorem modStack_cores (i : Nat) (f : Stack → Stack) : (modStack s i f).cores = s.cores := rfl
@[simp] theorem modStack_groups (i : Nat) (f : Stack → Stack) : (modStack s i f).groups = s.groups := rfl
@[simp] theorem modStack_launches (i : Nat) (f : Stack → Stack) : (modStack s i f).launches = s.launches := rfl
@[simp] theorem modStack_graphs (i : Nat) (f : Stack → Stack) : (modStack s i f).graphs = s.graphs := rfl
@[simp] theorem modStack_mem (i : Nat) (f : Stack → Stack) : (modStack s i f).mem = s.mem := rfl
@[simp] theorem modStack_poison (i : Nat) (f : Stack → Stack) : (modStack s i f).poison = s.poison := rfl
@[simp] theorem modStack_host (i : Nat) (f : Stack → Stack) : (modStack s i f).host = s.host := rfl
@[simp] theorem modStack_msgs (i : Nat) (f : Stack → Stack) : (modStack s i f).msgs = s.msgs := rfl
@[simp] theorem modStack_pends (i : Nat) (f : Stack → Stack) : (modStack s i f).pends = s.pends := rfl
@[simp] theorem modStack_repls (i : Nat) (f : Stack → Stack) : (modStack s i f).repls = s.repls := rfl
@[simp] theorem modStack_asks (i : Nat) (f : Stack → Stack) : (modStack s i f).asks = s.asks := rfl
@[simp] theorem modStack_hostq (i : Nat) (f : Stack → Stack) : (modStack s i f).hostq = s.hostq := rfl
@[simp] theorem modStack_outs (i : Nat) (f : Stack → Stack) : (modStack s i f).outs = s.outs := rfl
@[simp] theorem modStack_agenda (i : Nat) (f : Stack → Stack) : (modStack s i f).agenda = s.agenda := rfl
@[simp] theorem modStack_todo (i : Nat) (f : Stack → Stack) : (modStack s i f).todo = s.todo := rfl
@[simp] theorem modStack_bundle (i : Nat) (f : Stack → Stack) : (modStack s i f).bundle = s.bundle := rfl
@[simp] theorem modStack_cur (i : Nat) (f : Stack → Stack) : (modStack s i f).cur = s.cur := rfl
@[simp] theorem modStack_arg (i : Nat) (f : Stack → Stack) : (modStack s i f).arg = s.arg := rfl
@[simp] theorem modStack_defer (i : Nat) (f : Stack → Stack) : (modStack s i f).defer = s.defer := rfl
@[simp] theorem modStack_turn (i : Nat) (f : Stack → Stack) : (modStack s i f).turn = s.turn := rfl
@[simp] theorem modStack_free (i : Nat) (f : Stack → Stack) : (modStack s i f).free = s.free := rfl
@[simp] theorem modStack_uid (i : Nat) (f : Stack → Stack) : (modStack s i f).uid = s.uid := rfl
@[simp] theorem getStack_setStack (i : Nat) (v : Stack) : getStack (setStack s i v) i = v := SMap.get_set_same _ _ _ _
theorem getStack_setStack_ne {i j : Nat} (h : i ≠ j) (v : Stack) : getStack (setStack s i v) j = getStack s j :=
  SMap.get_set_other _ h _ _
@[simp] theorem getStack_modStack (i : Nat) (f : Stack → Stack) : getStack (modStack s i f) i = f (getStack s i) := getStack_setStack _ _ _
theorem getStack_modStack_ne {i j : Nat} (h : i ≠ j) (f : Stack → Stack) : getStack (modStack s i f) j = getStack s j :=
  getStack_setStack_ne _ h _
@[simp] theorem getCore_setStack (i j : Nat) (v : Stack) : getCore (setStack s i v) j = getCore s j := rfl
@[simp] theorem getCore_modStack (i j : Nat) (f : Stack → Stack) : getCore (modStack s i f) j = getCore s j := rfl
@[simp] theorem getDie_setStack (i j : Nat) (v : Stack) : getDie (setStack s i v) j = getDie s j := rfl
@[simp] theorem getDie_modStack (i j : Nat) (f : Stack → Stack) : getDie (modStack s i f) j = getDie s j := rfl
@[simp] theorem getCtx_setStack (i j : Nat) (v : Stack) : getCtx (setStack s i v) j = getCtx s j := rfl
@[simp] theorem getCtx_modStack (i j : Nat) (f : Stack → Stack) : getCtx (modStack s i f) j = getCtx s j := rfl
@[simp] theorem getAp_setStack (i j : Nat) (v : Stack) : getAp (setStack s i v) j = getAp s j := rfl
@[simp] theorem getAp_modStack (i j : Nat) (f : Stack → Stack) : getAp (modStack s i f) j = getAp s j := rfl
@[simp] theorem getWin_setStack (i j : Nat) (v : Stack) : getWin (setStack s i v) j = getWin s j := rfl
@[simp] theorem getWin_modStack (i j : Nat) (f : Stack → Stack) : getWin (modStack s i f) j = getWin s j := rfl
@[simp] theorem getHWin_setStack (i j : Nat) (v : Stack) : getHWin (setStack s i v) j = getHWin s j := rfl
@[simp] theorem getHWin_modStack (i j : Nat) (f : Stack → Stack) : getHWin (modStack s i f) j = getHWin s j := rfl
@[simp] theorem getLink_setStack (i j : Nat) (v : Stack) : getLink (setStack s i v) j = getLink s j := rfl
@[simp] theorem getLink_modStack (i j : Nat) (f : Stack → Stack) : getLink (modStack s i f) j = getLink s j := rfl
@[simp] theorem getGroup_setStack (i j : Nat) (v : Stack) : getGroup (setStack s i v) j = getGroup s j := rfl
@[simp] theorem getGroup_modStack (i j : Nat) (f : Stack → Stack) : getGroup (modStack s i f) j = getGroup s j := rfl
@[simp] theorem getLaunch_setStack (i j : Nat) (v : Stack) : getLaunch (setStack s i v) j = getLaunch s j := rfl
@[simp] theorem getLaunch_modStack (i j : Nat) (f : Stack → Stack) : getLaunch (modStack s i f) j = getLaunch s j := rfl

/-! ## Link -/

@[simp] theorem setLink_dev (i : Nat) (v : Link) : (setLink s i v).dev = s.dev := rfl
@[simp] theorem setLink_ctxs (i : Nat) (v : Link) : (setLink s i v).ctxs = s.ctxs := rfl
@[simp] theorem setLink_aps (i : Nat) (v : Link) : (setLink s i v).aps = s.aps := rfl
@[simp] theorem setLink_wins (i : Nat) (v : Link) : (setLink s i v).wins = s.wins := rfl
@[simp] theorem setLink_hwins (i : Nat) (v : Link) : (setLink s i v).hwins = s.hwins := rfl
@[simp] theorem setLink_stk (i : Nat) (v : Link) : (setLink s i v).stk = s.stk := rfl
@[simp] theorem setLink_dies (i : Nat) (v : Link) : (setLink s i v).dies = s.dies := rfl
@[simp] theorem setLink_cores (i : Nat) (v : Link) : (setLink s i v).cores = s.cores := rfl
@[simp] theorem setLink_groups (i : Nat) (v : Link) : (setLink s i v).groups = s.groups := rfl
@[simp] theorem setLink_launches (i : Nat) (v : Link) : (setLink s i v).launches = s.launches := rfl
@[simp] theorem setLink_graphs (i : Nat) (v : Link) : (setLink s i v).graphs = s.graphs := rfl
@[simp] theorem setLink_mem (i : Nat) (v : Link) : (setLink s i v).mem = s.mem := rfl
@[simp] theorem setLink_poison (i : Nat) (v : Link) : (setLink s i v).poison = s.poison := rfl
@[simp] theorem setLink_host (i : Nat) (v : Link) : (setLink s i v).host = s.host := rfl
@[simp] theorem setLink_msgs (i : Nat) (v : Link) : (setLink s i v).msgs = s.msgs := rfl
@[simp] theorem setLink_pends (i : Nat) (v : Link) : (setLink s i v).pends = s.pends := rfl
@[simp] theorem setLink_repls (i : Nat) (v : Link) : (setLink s i v).repls = s.repls := rfl
@[simp] theorem setLink_asks (i : Nat) (v : Link) : (setLink s i v).asks = s.asks := rfl
@[simp] theorem setLink_hostq (i : Nat) (v : Link) : (setLink s i v).hostq = s.hostq := rfl
@[simp] theorem setLink_outs (i : Nat) (v : Link) : (setLink s i v).outs = s.outs := rfl
@[simp] theorem setLink_agenda (i : Nat) (v : Link) : (setLink s i v).agenda = s.agenda := rfl
@[simp] theorem setLink_todo (i : Nat) (v : Link) : (setLink s i v).todo = s.todo := rfl
@[simp] theorem setLink_bundle (i : Nat) (v : Link) : (setLink s i v).bundle = s.bundle := rfl
@[simp] theorem setLink_cur (i : Nat) (v : Link) : (setLink s i v).cur = s.cur := rfl
@[simp] theorem setLink_arg (i : Nat) (v : Link) : (setLink s i v).arg = s.arg := rfl
@[simp] theorem setLink_defer (i : Nat) (v : Link) : (setLink s i v).defer = s.defer := rfl
@[simp] theorem setLink_turn (i : Nat) (v : Link) : (setLink s i v).turn = s.turn := rfl
@[simp] theorem setLink_free (i : Nat) (v : Link) : (setLink s i v).free = s.free := rfl
@[simp] theorem setLink_uid (i : Nat) (v : Link) : (setLink s i v).uid = s.uid := rfl
@[simp] theorem modLink_dev (i : Nat) (f : Link → Link) : (modLink s i f).dev = s.dev := rfl
@[simp] theorem modLink_ctxs (i : Nat) (f : Link → Link) : (modLink s i f).ctxs = s.ctxs := rfl
@[simp] theorem modLink_aps (i : Nat) (f : Link → Link) : (modLink s i f).aps = s.aps := rfl
@[simp] theorem modLink_wins (i : Nat) (f : Link → Link) : (modLink s i f).wins = s.wins := rfl
@[simp] theorem modLink_hwins (i : Nat) (f : Link → Link) : (modLink s i f).hwins = s.hwins := rfl
@[simp] theorem modLink_stk (i : Nat) (f : Link → Link) : (modLink s i f).stk = s.stk := rfl
@[simp] theorem modLink_dies (i : Nat) (f : Link → Link) : (modLink s i f).dies = s.dies := rfl
@[simp] theorem modLink_cores (i : Nat) (f : Link → Link) : (modLink s i f).cores = s.cores := rfl
@[simp] theorem modLink_groups (i : Nat) (f : Link → Link) : (modLink s i f).groups = s.groups := rfl
@[simp] theorem modLink_launches (i : Nat) (f : Link → Link) : (modLink s i f).launches = s.launches := rfl
@[simp] theorem modLink_graphs (i : Nat) (f : Link → Link) : (modLink s i f).graphs = s.graphs := rfl
@[simp] theorem modLink_mem (i : Nat) (f : Link → Link) : (modLink s i f).mem = s.mem := rfl
@[simp] theorem modLink_poison (i : Nat) (f : Link → Link) : (modLink s i f).poison = s.poison := rfl
@[simp] theorem modLink_host (i : Nat) (f : Link → Link) : (modLink s i f).host = s.host := rfl
@[simp] theorem modLink_msgs (i : Nat) (f : Link → Link) : (modLink s i f).msgs = s.msgs := rfl
@[simp] theorem modLink_pends (i : Nat) (f : Link → Link) : (modLink s i f).pends = s.pends := rfl
@[simp] theorem modLink_repls (i : Nat) (f : Link → Link) : (modLink s i f).repls = s.repls := rfl
@[simp] theorem modLink_asks (i : Nat) (f : Link → Link) : (modLink s i f).asks = s.asks := rfl
@[simp] theorem modLink_hostq (i : Nat) (f : Link → Link) : (modLink s i f).hostq = s.hostq := rfl
@[simp] theorem modLink_outs (i : Nat) (f : Link → Link) : (modLink s i f).outs = s.outs := rfl
@[simp] theorem modLink_agenda (i : Nat) (f : Link → Link) : (modLink s i f).agenda = s.agenda := rfl
@[simp] theorem modLink_todo (i : Nat) (f : Link → Link) : (modLink s i f).todo = s.todo := rfl
@[simp] theorem modLink_bundle (i : Nat) (f : Link → Link) : (modLink s i f).bundle = s.bundle := rfl
@[simp] theorem modLink_cur (i : Nat) (f : Link → Link) : (modLink s i f).cur = s.cur := rfl
@[simp] theorem modLink_arg (i : Nat) (f : Link → Link) : (modLink s i f).arg = s.arg := rfl
@[simp] theorem modLink_defer (i : Nat) (f : Link → Link) : (modLink s i f).defer = s.defer := rfl
@[simp] theorem modLink_turn (i : Nat) (f : Link → Link) : (modLink s i f).turn = s.turn := rfl
@[simp] theorem modLink_free (i : Nat) (f : Link → Link) : (modLink s i f).free = s.free := rfl
@[simp] theorem modLink_uid (i : Nat) (f : Link → Link) : (modLink s i f).uid = s.uid := rfl
@[simp] theorem getLink_setLink (i : Nat) (v : Link) : getLink (setLink s i v) i = v := SMap.get_set_same _ _ _ _
theorem getLink_setLink_ne {i j : Nat} (h : i ≠ j) (v : Link) : getLink (setLink s i v) j = getLink s j :=
  SMap.get_set_other _ h _ _
@[simp] theorem getLink_modLink (i : Nat) (f : Link → Link) : getLink (modLink s i f) i = f (getLink s i) := getLink_setLink _ _ _
theorem getLink_modLink_ne {i j : Nat} (h : i ≠ j) (f : Link → Link) : getLink (modLink s i f) j = getLink s j :=
  getLink_setLink_ne _ h _
@[simp] theorem getCore_setLink (i j : Nat) (v : Link) : getCore (setLink s i v) j = getCore s j := rfl
@[simp] theorem getCore_modLink (i j : Nat) (f : Link → Link) : getCore (modLink s i f) j = getCore s j := rfl
@[simp] theorem getDie_setLink (i j : Nat) (v : Link) : getDie (setLink s i v) j = getDie s j := rfl
@[simp] theorem getDie_modLink (i j : Nat) (f : Link → Link) : getDie (modLink s i f) j = getDie s j := rfl
@[simp] theorem getCtx_setLink (i j : Nat) (v : Link) : getCtx (setLink s i v) j = getCtx s j := rfl
@[simp] theorem getCtx_modLink (i j : Nat) (f : Link → Link) : getCtx (modLink s i f) j = getCtx s j := rfl
@[simp] theorem getAp_setLink (i j : Nat) (v : Link) : getAp (setLink s i v) j = getAp s j := rfl
@[simp] theorem getAp_modLink (i j : Nat) (f : Link → Link) : getAp (modLink s i f) j = getAp s j := rfl
@[simp] theorem getWin_setLink (i j : Nat) (v : Link) : getWin (setLink s i v) j = getWin s j := rfl
@[simp] theorem getWin_modLink (i j : Nat) (f : Link → Link) : getWin (modLink s i f) j = getWin s j := rfl
@[simp] theorem getHWin_setLink (i j : Nat) (v : Link) : getHWin (setLink s i v) j = getHWin s j := rfl
@[simp] theorem getHWin_modLink (i j : Nat) (f : Link → Link) : getHWin (modLink s i f) j = getHWin s j := rfl
@[simp] theorem getStack_setLink (i j : Nat) (v : Link) : getStack (setLink s i v) j = getStack s j := rfl
@[simp] theorem getStack_modLink (i j : Nat) (f : Link → Link) : getStack (modLink s i f) j = getStack s j := rfl
@[simp] theorem getGroup_setLink (i j : Nat) (v : Link) : getGroup (setLink s i v) j = getGroup s j := rfl
@[simp] theorem getGroup_modLink (i j : Nat) (f : Link → Link) : getGroup (modLink s i f) j = getGroup s j := rfl
@[simp] theorem getLaunch_setLink (i j : Nat) (v : Link) : getLaunch (setLink s i v) j = getLaunch s j := rfl
@[simp] theorem getLaunch_modLink (i j : Nat) (f : Link → Link) : getLaunch (modLink s i f) j = getLaunch s j := rfl

/-! ## Group -/

@[simp] theorem setGroup_dev (i : Nat) (v : Group) : (setGroup s i v).dev = s.dev := rfl
@[simp] theorem setGroup_ctxs (i : Nat) (v : Group) : (setGroup s i v).ctxs = s.ctxs := rfl
@[simp] theorem setGroup_aps (i : Nat) (v : Group) : (setGroup s i v).aps = s.aps := rfl
@[simp] theorem setGroup_wins (i : Nat) (v : Group) : (setGroup s i v).wins = s.wins := rfl
@[simp] theorem setGroup_hwins (i : Nat) (v : Group) : (setGroup s i v).hwins = s.hwins := rfl
@[simp] theorem setGroup_stk (i : Nat) (v : Group) : (setGroup s i v).stk = s.stk := rfl
@[simp] theorem setGroup_links (i : Nat) (v : Group) : (setGroup s i v).links = s.links := rfl
@[simp] theorem setGroup_dies (i : Nat) (v : Group) : (setGroup s i v).dies = s.dies := rfl
@[simp] theorem setGroup_cores (i : Nat) (v : Group) : (setGroup s i v).cores = s.cores := rfl
@[simp] theorem setGroup_launches (i : Nat) (v : Group) : (setGroup s i v).launches = s.launches := rfl
@[simp] theorem setGroup_graphs (i : Nat) (v : Group) : (setGroup s i v).graphs = s.graphs := rfl
@[simp] theorem setGroup_mem (i : Nat) (v : Group) : (setGroup s i v).mem = s.mem := rfl
@[simp] theorem setGroup_poison (i : Nat) (v : Group) : (setGroup s i v).poison = s.poison := rfl
@[simp] theorem setGroup_host (i : Nat) (v : Group) : (setGroup s i v).host = s.host := rfl
@[simp] theorem setGroup_msgs (i : Nat) (v : Group) : (setGroup s i v).msgs = s.msgs := rfl
@[simp] theorem setGroup_pends (i : Nat) (v : Group) : (setGroup s i v).pends = s.pends := rfl
@[simp] theorem setGroup_repls (i : Nat) (v : Group) : (setGroup s i v).repls = s.repls := rfl
@[simp] theorem setGroup_asks (i : Nat) (v : Group) : (setGroup s i v).asks = s.asks := rfl
@[simp] theorem setGroup_hostq (i : Nat) (v : Group) : (setGroup s i v).hostq = s.hostq := rfl
@[simp] theorem setGroup_outs (i : Nat) (v : Group) : (setGroup s i v).outs = s.outs := rfl
@[simp] theorem setGroup_agenda (i : Nat) (v : Group) : (setGroup s i v).agenda = s.agenda := rfl
@[simp] theorem setGroup_todo (i : Nat) (v : Group) : (setGroup s i v).todo = s.todo := rfl
@[simp] theorem setGroup_bundle (i : Nat) (v : Group) : (setGroup s i v).bundle = s.bundle := rfl
@[simp] theorem setGroup_cur (i : Nat) (v : Group) : (setGroup s i v).cur = s.cur := rfl
@[simp] theorem setGroup_arg (i : Nat) (v : Group) : (setGroup s i v).arg = s.arg := rfl
@[simp] theorem setGroup_defer (i : Nat) (v : Group) : (setGroup s i v).defer = s.defer := rfl
@[simp] theorem setGroup_turn (i : Nat) (v : Group) : (setGroup s i v).turn = s.turn := rfl
@[simp] theorem setGroup_free (i : Nat) (v : Group) : (setGroup s i v).free = s.free := rfl
@[simp] theorem setGroup_uid (i : Nat) (v : Group) : (setGroup s i v).uid = s.uid := rfl
@[simp] theorem modGroup_dev (i : Nat) (f : Group → Group) : (modGroup s i f).dev = s.dev := by
  unfold modGroup; split <;> rfl
@[simp] theorem modGroup_ctxs (i : Nat) (f : Group → Group) : (modGroup s i f).ctxs = s.ctxs := by
  unfold modGroup; split <;> rfl
@[simp] theorem modGroup_aps (i : Nat) (f : Group → Group) : (modGroup s i f).aps = s.aps := by
  unfold modGroup; split <;> rfl
@[simp] theorem modGroup_wins (i : Nat) (f : Group → Group) : (modGroup s i f).wins = s.wins := by
  unfold modGroup; split <;> rfl
@[simp] theorem modGroup_hwins (i : Nat) (f : Group → Group) : (modGroup s i f).hwins = s.hwins := by
  unfold modGroup; split <;> rfl
@[simp] theorem modGroup_stk (i : Nat) (f : Group → Group) : (modGroup s i f).stk = s.stk := by
  unfold modGroup; split <;> rfl
@[simp] theorem modGroup_links (i : Nat) (f : Group → Group) : (modGroup s i f).links = s.links := by
  unfold modGroup; split <;> rfl
@[simp] theorem modGroup_dies (i : Nat) (f : Group → Group) : (modGroup s i f).dies = s.dies := by
  unfold modGroup; split <;> rfl
@[simp] theorem modGroup_cores (i : Nat) (f : Group → Group) : (modGroup s i f).cores = s.cores := by
  unfold modGroup; split <;> rfl
@[simp] theorem modGroup_launches (i : Nat) (f : Group → Group) : (modGroup s i f).launches = s.launches := by
  unfold modGroup; split <;> rfl
@[simp] theorem modGroup_graphs (i : Nat) (f : Group → Group) : (modGroup s i f).graphs = s.graphs := by
  unfold modGroup; split <;> rfl
@[simp] theorem modGroup_mem (i : Nat) (f : Group → Group) : (modGroup s i f).mem = s.mem := by
  unfold modGroup; split <;> rfl
@[simp] theorem modGroup_poison (i : Nat) (f : Group → Group) : (modGroup s i f).poison = s.poison := by
  unfold modGroup; split <;> rfl
@[simp] theorem modGroup_host (i : Nat) (f : Group → Group) : (modGroup s i f).host = s.host := by
  unfold modGroup; split <;> rfl
@[simp] theorem modGroup_msgs (i : Nat) (f : Group → Group) : (modGroup s i f).msgs = s.msgs := by
  unfold modGroup; split <;> rfl
@[simp] theorem modGroup_pends (i : Nat) (f : Group → Group) : (modGroup s i f).pends = s.pends := by
  unfold modGroup; split <;> rfl
@[simp] theorem modGroup_repls (i : Nat) (f : Group → Group) : (modGroup s i f).repls = s.repls := by
  unfold modGroup; split <;> rfl
@[simp] theorem modGroup_asks (i : Nat) (f : Group → Group) : (modGroup s i f).asks = s.asks := by
  unfold modGroup; split <;> rfl
@[simp] theorem modGroup_hostq (i : Nat) (f : Group → Group) : (modGroup s i f).hostq = s.hostq := by
  unfold modGroup; split <;> rfl
@[simp] theorem modGroup_outs (i : Nat) (f : Group → Group) : (modGroup s i f).outs = s.outs := by
  unfold modGroup; split <;> rfl
@[simp] theorem modGroup_agenda (i : Nat) (f : Group → Group) : (modGroup s i f).agenda = s.agenda := by
  unfold modGroup; split <;> rfl
@[simp] theorem modGroup_todo (i : Nat) (f : Group → Group) : (modGroup s i f).todo = s.todo := by
  unfold modGroup; split <;> rfl
@[simp] theorem modGroup_bundle (i : Nat) (f : Group → Group) : (modGroup s i f).bundle = s.bundle := by
  unfold modGroup; split <;> rfl
@[simp] theorem modGroup_cur (i : Nat) (f : Group → Group) : (modGroup s i f).cur = s.cur := by
  unfold modGroup; split <;> rfl
@[simp] theorem modGroup_arg (i : Nat) (f : Group → Group) : (modGroup s i f).arg = s.arg := by
  unfold modGroup; split <;> rfl
@[simp] theorem modGroup_defer (i : Nat) (f : Group → Group) : (modGroup s i f).defer = s.defer := by
  unfold modGroup; split <;> rfl
@[simp] theorem modGroup_turn (i : Nat) (f : Group → Group) : (modGroup s i f).turn = s.turn := by
  unfold modGroup; split <;> rfl
@[simp] theorem modGroup_free (i : Nat) (f : Group → Group) : (modGroup s i f).free = s.free := by
  unfold modGroup; split <;> rfl
@[simp] theorem modGroup_uid (i : Nat) (f : Group → Group) : (modGroup s i f).uid = s.uid := by
  unfold modGroup; split <;> rfl
@[simp] theorem getGroup_setGroup (i : Nat) (v : Group) : getGroup (setGroup s i v) i = some v := SMap.find_set_same _ _ _
theorem getGroup_setGroup_ne {i j : Nat} (h : i ≠ j) (v : Group) : getGroup (setGroup s i v) j = getGroup s j :=
  SMap.find_set_other _ h _
@[simp] theorem getCore_setGroup (i j : Nat) (v : Group) : getCore (setGroup s i v) j = getCore s j := rfl
@[simp] theorem getCore_modGroup (i j : Nat) (f : Group → Group) : getCore (modGroup s i f) j = getCore s j := by
  unfold modGroup; split <;> rfl
@[simp] theorem getDie_setGroup (i j : Nat) (v : Group) : getDie (setGroup s i v) j = getDie s j := rfl
@[simp] theorem getDie_modGroup (i j : Nat) (f : Group → Group) : getDie (modGroup s i f) j = getDie s j := by
  unfold modGroup; split <;> rfl
@[simp] theorem getCtx_setGroup (i j : Nat) (v : Group) : getCtx (setGroup s i v) j = getCtx s j := rfl
@[simp] theorem getCtx_modGroup (i j : Nat) (f : Group → Group) : getCtx (modGroup s i f) j = getCtx s j := by
  unfold modGroup; split <;> rfl
@[simp] theorem getAp_setGroup (i j : Nat) (v : Group) : getAp (setGroup s i v) j = getAp s j := rfl
@[simp] theorem getAp_modGroup (i j : Nat) (f : Group → Group) : getAp (modGroup s i f) j = getAp s j := by
  unfold modGroup; split <;> rfl
@[simp] theorem getWin_setGroup (i j : Nat) (v : Group) : getWin (setGroup s i v) j = getWin s j := rfl
@[simp] theorem getWin_modGroup (i j : Nat) (f : Group → Group) : getWin (modGroup s i f) j = getWin s j := by
  unfold modGroup; split <;> rfl
@[simp] theorem getHWin_setGroup (i j : Nat) (v : Group) : getHWin (setGroup s i v) j = getHWin s j := rfl
@[simp] theorem getHWin_modGroup (i j : Nat) (f : Group → Group) : getHWin (modGroup s i f) j = getHWin s j := by
  unfold modGroup; split <;> rfl
@[simp] theorem getStack_setGroup (i j : Nat) (v : Group) : getStack (setGroup s i v) j = getStack s j := rfl
@[simp] theorem getStack_modGroup (i j : Nat) (f : Group → Group) : getStack (modGroup s i f) j = getStack s j := by
  unfold modGroup; split <;> rfl
@[simp] theorem getLink_setGroup (i j : Nat) (v : Group) : getLink (setGroup s i v) j = getLink s j := rfl
@[simp] theorem getLink_modGroup (i j : Nat) (f : Group → Group) : getLink (modGroup s i f) j = getLink s j := by
  unfold modGroup; split <;> rfl
@[simp] theorem getLaunch_setGroup (i j : Nat) (v : Group) : getLaunch (setGroup s i v) j = getLaunch s j := rfl
@[simp] theorem getLaunch_modGroup (i j : Nat) (f : Group → Group) : getLaunch (modGroup s i f) j = getLaunch s j := by
  unfold modGroup; split <;> rfl

/-! ## Launch -/

@[simp] theorem setLaunch_dev (i : Nat) (v : Launch) : (setLaunch s i v).dev = s.dev := rfl
@[simp] theorem setLaunch_ctxs (i : Nat) (v : Launch) : (setLaunch s i v).ctxs = s.ctxs := rfl
@[simp] theorem setLaunch_aps (i : Nat) (v : Launch) : (setLaunch s i v).aps = s.aps := rfl
@[simp] theorem setLaunch_wins (i : Nat) (v : Launch) : (setLaunch s i v).wins = s.wins := rfl
@[simp] theorem setLaunch_hwins (i : Nat) (v : Launch) : (setLaunch s i v).hwins = s.hwins := rfl
@[simp] theorem setLaunch_stk (i : Nat) (v : Launch) : (setLaunch s i v).stk = s.stk := rfl
@[simp] theorem setLaunch_links (i : Nat) (v : Launch) : (setLaunch s i v).links = s.links := rfl
@[simp] theorem setLaunch_dies (i : Nat) (v : Launch) : (setLaunch s i v).dies = s.dies := rfl
@[simp] theorem setLaunch_cores (i : Nat) (v : Launch) : (setLaunch s i v).cores = s.cores := rfl
@[simp] theorem setLaunch_groups (i : Nat) (v : Launch) : (setLaunch s i v).groups = s.groups := rfl
@[simp] theorem setLaunch_graphs (i : Nat) (v : Launch) : (setLaunch s i v).graphs = s.graphs := rfl
@[simp] theorem setLaunch_mem (i : Nat) (v : Launch) : (setLaunch s i v).mem = s.mem := rfl
@[simp] theorem setLaunch_poison (i : Nat) (v : Launch) : (setLaunch s i v).poison = s.poison := rfl
@[simp] theorem setLaunch_host (i : Nat) (v : Launch) : (setLaunch s i v).host = s.host := rfl
@[simp] theorem setLaunch_msgs (i : Nat) (v : Launch) : (setLaunch s i v).msgs = s.msgs := rfl
@[simp] theorem setLaunch_pends (i : Nat) (v : Launch) : (setLaunch s i v).pends = s.pends := rfl
@[simp] theorem setLaunch_repls (i : Nat) (v : Launch) : (setLaunch s i v).repls = s.repls := rfl
@[simp] theorem setLaunch_asks (i : Nat) (v : Launch) : (setLaunch s i v).asks = s.asks := rfl
@[simp] theorem setLaunch_hostq (i : Nat) (v : Launch) : (setLaunch s i v).hostq = s.hostq := rfl
@[simp] theorem setLaunch_outs (i : Nat) (v : Launch) : (setLaunch s i v).outs = s.outs := rfl
@[simp] theorem setLaunch_agenda (i : Nat) (v : Launch) : (setLaunch s i v).agenda = s.agenda := rfl
@[simp] theorem setLaunch_todo (i : Nat) (v : Launch) : (setLaunch s i v).todo = s.todo := rfl
@[simp] theorem setLaunch_bundle (i : Nat) (v : Launch) : (setLaunch s i v).bundle = s.bundle := rfl
@[simp] theorem setLaunch_cur (i : Nat) (v : Launch) : (setLaunch s i v).cur = s.cur := rfl
@[simp] theorem setLaunch_arg (i : Nat) (v : Launch) : (setLaunch s i v).arg = s.arg := rfl
@[simp] theorem setLaunch_defer (i : Nat) (v : Launch) : (setLaunch s i v).defer = s.defer := rfl
@[simp] theorem setLaunch_turn (i : Nat) (v : Launch) : (setLaunch s i v).turn = s.turn := rfl
@[simp] theorem setLaunch_free (i : Nat) (v : Launch) : (setLaunch s i v).free = s.free := rfl
@[simp] theorem setLaunch_uid (i : Nat) (v : Launch) : (setLaunch s i v).uid = s.uid := rfl
@[simp] theorem modLaunch_dev (i : Nat) (f : Launch → Launch) : (modLaunch s i f).dev = s.dev := by
  unfold modLaunch; split <;> rfl
@[simp] theorem modLaunch_ctxs (i : Nat) (f : Launch → Launch) : (modLaunch s i f).ctxs = s.ctxs := by
  unfold modLaunch; split <;> rfl
@[simp] theorem modLaunch_aps (i : Nat) (f : Launch → Launch) : (modLaunch s i f).aps = s.aps := by
  unfold modLaunch; split <;> rfl
@[simp] theorem modLaunch_wins (i : Nat) (f : Launch → Launch) : (modLaunch s i f).wins = s.wins := by
  unfold modLaunch; split <;> rfl
@[simp] theorem modLaunch_hwins (i : Nat) (f : Launch → Launch) : (modLaunch s i f).hwins = s.hwins := by
  unfold modLaunch; split <;> rfl
@[simp] theorem modLaunch_stk (i : Nat) (f : Launch → Launch) : (modLaunch s i f).stk = s.stk := by
  unfold modLaunch; split <;> rfl
@[simp] theorem modLaunch_links (i : Nat) (f : Launch → Launch) : (modLaunch s i f).links = s.links := by
  unfold modLaunch; split <;> rfl
@[simp] theorem modLaunch_dies (i : Nat) (f : Launch → Launch) : (modLaunch s i f).dies = s.dies := by
  unfold modLaunch; split <;> rfl
@[simp] theorem modLaunch_cores (i : Nat) (f : Launch → Launch) : (modLaunch s i f).cores = s.cores := by
  unfold modLaunch; split <;> rfl
@[simp] theorem modLaunch_groups (i : Nat) (f : Launch → Launch) : (modLaunch s i f).groups = s.groups := by
  unfold modLaunch; split <;> rfl
@[simp] theorem modLaunch_graphs (i : Nat) (f : Launch → Launch) : (modLaunch s i f).graphs = s.graphs := by
  unfold modLaunch; split <;> rfl
@[simp] theorem modLaunch_mem (i : Nat) (f : Launch → Launch) : (modLaunch s i f).mem = s.mem := by
  unfold modLaunch; split <;> rfl
@[simp] theorem modLaunch_poison (i : Nat) (f : Launch → Launch) : (modLaunch s i f).poison = s.poison := by
  unfold modLaunch; split <;> rfl
@[simp] theorem modLaunch_host (i : Nat) (f : Launch → Launch) : (modLaunch s i f).host = s.host := by
  unfold modLaunch; split <;> rfl
@[simp] theorem modLaunch_msgs (i : Nat) (f : Launch → Launch) : (modLaunch s i f).msgs = s.msgs := by
  unfold modLaunch; split <;> rfl
@[simp] theorem modLaunch_pends (i : Nat) (f : Launch → Launch) : (modLaunch s i f).pends = s.pends := by
  unfold modLaunch; split <;> rfl
@[simp] theorem modLaunch_repls (i : Nat) (f : Launch → Launch) : (modLaunch s i f).repls = s.repls := by
  unfold modLaunch; split <;> rfl
@[simp] theorem modLaunch_asks (i : Nat) (f : Launch → Launch) : (modLaunch s i f).asks = s.asks := by
  unfold modLaunch; split <;> rfl
@[simp] theorem modLaunch_hostq (i : Nat) (f : Launch → Launch) : (modLaunch s i f).hostq = s.hostq := by
  unfold modLaunch; split <;> rfl
@[simp] theorem modLaunch_outs (i : Nat) (f : Launch → Launch) : (modLaunch s i f).outs = s.outs := by
  unfold modLaunch; split <;> rfl
@[simp] theorem modLaunch_agenda (i : Nat) (f : Launch → Launch) : (modLaunch s i f).agenda = s.agenda := by
  unfold modLaunch; split <;> rfl
@[simp] theorem modLaunch_todo (i : Nat) (f : Launch → Launch) : (modLaunch s i f).todo = s.todo := by
  unfold modLaunch; split <;> rfl
@[simp] theorem modLaunch_bundle (i : Nat) (f : Launch → Launch) : (modLaunch s i f).bundle = s.bundle := by
  unfold modLaunch; split <;> rfl
@[simp] theorem modLaunch_cur (i : Nat) (f : Launch → Launch) : (modLaunch s i f).cur = s.cur := by
  unfold modLaunch; split <;> rfl
@[simp] theorem modLaunch_arg (i : Nat) (f : Launch → Launch) : (modLaunch s i f).arg = s.arg := by
  unfold modLaunch; split <;> rfl
@[simp] theorem modLaunch_defer (i : Nat) (f : Launch → Launch) : (modLaunch s i f).defer = s.defer := by
  unfold modLaunch; split <;> rfl
@[simp] theorem modLaunch_turn (i : Nat) (f : Launch → Launch) : (modLaunch s i f).turn = s.turn := by
  unfold modLaunch; split <;> rfl
@[simp] theorem modLaunch_free (i : Nat) (f : Launch → Launch) : (modLaunch s i f).free = s.free := by
  unfold modLaunch; split <;> rfl
@[simp] theorem modLaunch_uid (i : Nat) (f : Launch → Launch) : (modLaunch s i f).uid = s.uid := by
  unfold modLaunch; split <;> rfl
@[simp] theorem getLaunch_setLaunch (i : Nat) (v : Launch) : getLaunch (setLaunch s i v) i = some v := SMap.find_set_same _ _ _
theorem getLaunch_setLaunch_ne {i j : Nat} (h : i ≠ j) (v : Launch) : getLaunch (setLaunch s i v) j = getLaunch s j :=
  SMap.find_set_other _ h _
@[simp] theorem getCore_setLaunch (i j : Nat) (v : Launch) : getCore (setLaunch s i v) j = getCore s j := rfl
@[simp] theorem getCore_modLaunch (i j : Nat) (f : Launch → Launch) : getCore (modLaunch s i f) j = getCore s j := by
  unfold modLaunch; split <;> rfl
@[simp] theorem getDie_setLaunch (i j : Nat) (v : Launch) : getDie (setLaunch s i v) j = getDie s j := rfl
@[simp] theorem getDie_modLaunch (i j : Nat) (f : Launch → Launch) : getDie (modLaunch s i f) j = getDie s j := by
  unfold modLaunch; split <;> rfl
@[simp] theorem getCtx_setLaunch (i j : Nat) (v : Launch) : getCtx (setLaunch s i v) j = getCtx s j := rfl
@[simp] theorem getCtx_modLaunch (i j : Nat) (f : Launch → Launch) : getCtx (modLaunch s i f) j = getCtx s j := by
  unfold modLaunch; split <;> rfl
@[simp] theorem getAp_setLaunch (i j : Nat) (v : Launch) : getAp (setLaunch s i v) j = getAp s j := rfl
@[simp] theorem getAp_modLaunch (i j : Nat) (f : Launch → Launch) : getAp (modLaunch s i f) j = getAp s j := by
  unfold modLaunch; split <;> rfl
@[simp] theorem getWin_setLaunch (i j : Nat) (v : Launch) : getWin (setLaunch s i v) j = getWin s j := rfl
@[simp] theorem getWin_modLaunch (i j : Nat) (f : Launch → Launch) : getWin (modLaunch s i f) j = getWin s j := by
  unfold modLaunch; split <;> rfl
@[simp] theorem getHWin_setLaunch (i j : Nat) (v : Launch) : getHWin (setLaunch s i v) j = getHWin s j := rfl
@[simp] theorem getHWin_modLaunch (i j : Nat) (f : Launch → Launch) : getHWin (modLaunch s i f) j = getHWin s j := by
  unfold modLaunch; split <;> rfl
@[simp] theorem getStack_setLaunch (i j : Nat) (v : Launch) : getStack (setLaunch s i v) j = getStack s j := rfl
@[simp] theorem getStack_modLaunch (i j : Nat) (f : Launch → Launch) : getStack (modLaunch s i f) j = getStack s j := by
  unfold modLaunch; split <;> rfl
@[simp] theorem getLink_setLaunch (i j : Nat) (v : Launch) : getLink (setLaunch s i v) j = getLink s j := rfl
@[simp] theorem getLink_modLaunch (i j : Nat) (f : Launch → Launch) : getLink (modLaunch s i f) j = getLink s j := by
  unfold modLaunch; split <;> rfl
@[simp] theorem getGroup_setLaunch (i j : Nat) (v : Launch) : getGroup (setLaunch s i v) j = getGroup s j := rfl
@[simp] theorem getGroup_modLaunch (i j : Nat) (f : Launch → Launch) : getGroup (modLaunch s i f) j = getGroup s j := by
  unfold modLaunch; split <;> rfl

/-! ## What a service span, a semaphore, a tile and a queue are part of -/

@[simp] theorem modSem_dev (c n : Nat) (f : Sem → Sem) : (modSem s c n f).dev = s.dev := rfl
@[simp] theorem modSem_ctxs (c n : Nat) (f : Sem → Sem) : (modSem s c n f).ctxs = s.ctxs := rfl
@[simp] theorem modSem_aps (c n : Nat) (f : Sem → Sem) : (modSem s c n f).aps = s.aps := rfl
@[simp] theorem modSem_wins (c n : Nat) (f : Sem → Sem) : (modSem s c n f).wins = s.wins := rfl
@[simp] theorem modSem_hwins (c n : Nat) (f : Sem → Sem) : (modSem s c n f).hwins = s.hwins := rfl
@[simp] theorem modSem_stk (c n : Nat) (f : Sem → Sem) : (modSem s c n f).stk = s.stk := rfl
@[simp] theorem modSem_links (c n : Nat) (f : Sem → Sem) : (modSem s c n f).links = s.links := rfl
@[simp] theorem modSem_dies (c n : Nat) (f : Sem → Sem) : (modSem s c n f).dies = s.dies := rfl
@[simp] theorem modSem_groups (c n : Nat) (f : Sem → Sem) : (modSem s c n f).groups = s.groups := rfl
@[simp] theorem modSem_launches (c n : Nat) (f : Sem → Sem) : (modSem s c n f).launches = s.launches := rfl
@[simp] theorem modSem_graphs (c n : Nat) (f : Sem → Sem) : (modSem s c n f).graphs = s.graphs := rfl
@[simp] theorem modSem_mem (c n : Nat) (f : Sem → Sem) : (modSem s c n f).mem = s.mem := rfl
@[simp] theorem modSem_poison (c n : Nat) (f : Sem → Sem) : (modSem s c n f).poison = s.poison := rfl
@[simp] theorem modSem_host (c n : Nat) (f : Sem → Sem) : (modSem s c n f).host = s.host := rfl
@[simp] theorem modSem_msgs (c n : Nat) (f : Sem → Sem) : (modSem s c n f).msgs = s.msgs := rfl
@[simp] theorem modSem_pends (c n : Nat) (f : Sem → Sem) : (modSem s c n f).pends = s.pends := rfl
@[simp] theorem modSem_repls (c n : Nat) (f : Sem → Sem) : (modSem s c n f).repls = s.repls := rfl
@[simp] theorem modSem_asks (c n : Nat) (f : Sem → Sem) : (modSem s c n f).asks = s.asks := rfl
@[simp] theorem modSem_hostq (c n : Nat) (f : Sem → Sem) : (modSem s c n f).hostq = s.hostq := rfl
@[simp] theorem modSem_outs (c n : Nat) (f : Sem → Sem) : (modSem s c n f).outs = s.outs := rfl
@[simp] theorem modSem_agenda (c n : Nat) (f : Sem → Sem) : (modSem s c n f).agenda = s.agenda := rfl
@[simp] theorem modSem_todo (c n : Nat) (f : Sem → Sem) : (modSem s c n f).todo = s.todo := rfl
@[simp] theorem modSem_bundle (c n : Nat) (f : Sem → Sem) : (modSem s c n f).bundle = s.bundle := rfl
@[simp] theorem modSem_cur (c n : Nat) (f : Sem → Sem) : (modSem s c n f).cur = s.cur := rfl
@[simp] theorem modSem_arg (c n : Nat) (f : Sem → Sem) : (modSem s c n f).arg = s.arg := rfl
@[simp] theorem modSem_defer (c n : Nat) (f : Sem → Sem) : (modSem s c n f).defer = s.defer := rfl
@[simp] theorem modSem_turn (c n : Nat) (f : Sem → Sem) : (modSem s c n f).turn = s.turn := rfl
@[simp] theorem modSem_free (c n : Nat) (f : Sem → Sem) : (modSem s c n f).free = s.free := rfl
@[simp] theorem modSem_uid (c n : Nat) (f : Sem → Sem) : (modSem s c n f).uid = s.uid := rfl
@[simp] theorem modTile_dev (c n : Nat) (f : Tile → Tile) : (modTile s c n f).dev = s.dev := rfl
@[simp] theorem modTile_ctxs (c n : Nat) (f : Tile → Tile) : (modTile s c n f).ctxs = s.ctxs := rfl
@[simp] theorem modTile_aps (c n : Nat) (f : Tile → Tile) : (modTile s c n f).aps = s.aps := rfl
@[simp] theorem modTile_wins (c n : Nat) (f : Tile → Tile) : (modTile s c n f).wins = s.wins := rfl
@[simp] theorem modTile_hwins (c n : Nat) (f : Tile → Tile) : (modTile s c n f).hwins = s.hwins := rfl
@[simp] theorem modTile_stk (c n : Nat) (f : Tile → Tile) : (modTile s c n f).stk = s.stk := rfl
@[simp] theorem modTile_links (c n : Nat) (f : Tile → Tile) : (modTile s c n f).links = s.links := rfl
@[simp] theorem modTile_dies (c n : Nat) (f : Tile → Tile) : (modTile s c n f).dies = s.dies := rfl
@[simp] theorem modTile_groups (c n : Nat) (f : Tile → Tile) : (modTile s c n f).groups = s.groups := rfl
@[simp] theorem modTile_launches (c n : Nat) (f : Tile → Tile) : (modTile s c n f).launches = s.launches := rfl
@[simp] theorem modTile_graphs (c n : Nat) (f : Tile → Tile) : (modTile s c n f).graphs = s.graphs := rfl
@[simp] theorem modTile_mem (c n : Nat) (f : Tile → Tile) : (modTile s c n f).mem = s.mem := rfl
@[simp] theorem modTile_poison (c n : Nat) (f : Tile → Tile) : (modTile s c n f).poison = s.poison := rfl
@[simp] theorem modTile_host (c n : Nat) (f : Tile → Tile) : (modTile s c n f).host = s.host := rfl
@[simp] theorem modTile_msgs (c n : Nat) (f : Tile → Tile) : (modTile s c n f).msgs = s.msgs := rfl
@[simp] theorem modTile_pends (c n : Nat) (f : Tile → Tile) : (modTile s c n f).pends = s.pends := rfl
@[simp] theorem modTile_repls (c n : Nat) (f : Tile → Tile) : (modTile s c n f).repls = s.repls := rfl
@[simp] theorem modTile_asks (c n : Nat) (f : Tile → Tile) : (modTile s c n f).asks = s.asks := rfl
@[simp] theorem modTile_hostq (c n : Nat) (f : Tile → Tile) : (modTile s c n f).hostq = s.hostq := rfl
@[simp] theorem modTile_outs (c n : Nat) (f : Tile → Tile) : (modTile s c n f).outs = s.outs := rfl
@[simp] theorem modTile_agenda (c n : Nat) (f : Tile → Tile) : (modTile s c n f).agenda = s.agenda := rfl
@[simp] theorem modTile_todo (c n : Nat) (f : Tile → Tile) : (modTile s c n f).todo = s.todo := rfl
@[simp] theorem modTile_bundle (c n : Nat) (f : Tile → Tile) : (modTile s c n f).bundle = s.bundle := rfl
@[simp] theorem modTile_cur (c n : Nat) (f : Tile → Tile) : (modTile s c n f).cur = s.cur := rfl
@[simp] theorem modTile_arg (c n : Nat) (f : Tile → Tile) : (modTile s c n f).arg = s.arg := rfl
@[simp] theorem modTile_defer (c n : Nat) (f : Tile → Tile) : (modTile s c n f).defer = s.defer := rfl
@[simp] theorem modTile_turn (c n : Nat) (f : Tile → Tile) : (modTile s c n f).turn = s.turn := rfl
@[simp] theorem modTile_free (c n : Nat) (f : Tile → Tile) : (modTile s c n f).free = s.free := rfl
@[simp] theorem modTile_uid (c n : Nat) (f : Tile → Tile) : (modTile s c n f).uid = s.uid := rfl
@[simp] theorem modQueue_dev (c n : Nat) (f : EngQ → EngQ) : (modQueue s c n f).dev = s.dev := rfl
@[simp] theorem modQueue_ctxs (c n : Nat) (f : EngQ → EngQ) : (modQueue s c n f).ctxs = s.ctxs := rfl
@[simp] theorem modQueue_aps (c n : Nat) (f : EngQ → EngQ) : (modQueue s c n f).aps = s.aps := rfl
@[simp] theorem modQueue_wins (c n : Nat) (f : EngQ → EngQ) : (modQueue s c n f).wins = s.wins := rfl
@[simp] theorem modQueue_hwins (c n : Nat) (f : EngQ → EngQ) : (modQueue s c n f).hwins = s.hwins := rfl
@[simp] theorem modQueue_stk (c n : Nat) (f : EngQ → EngQ) : (modQueue s c n f).stk = s.stk := rfl
@[simp] theorem modQueue_links (c n : Nat) (f : EngQ → EngQ) : (modQueue s c n f).links = s.links := rfl
@[simp] theorem modQueue_dies (c n : Nat) (f : EngQ → EngQ) : (modQueue s c n f).dies = s.dies := rfl
@[simp] theorem modQueue_groups (c n : Nat) (f : EngQ → EngQ) : (modQueue s c n f).groups = s.groups := rfl
@[simp] theorem modQueue_launches (c n : Nat) (f : EngQ → EngQ) : (modQueue s c n f).launches = s.launches := rfl
@[simp] theorem modQueue_graphs (c n : Nat) (f : EngQ → EngQ) : (modQueue s c n f).graphs = s.graphs := rfl
@[simp] theorem modQueue_mem (c n : Nat) (f : EngQ → EngQ) : (modQueue s c n f).mem = s.mem := rfl
@[simp] theorem modQueue_poison (c n : Nat) (f : EngQ → EngQ) : (modQueue s c n f).poison = s.poison := rfl
@[simp] theorem modQueue_host (c n : Nat) (f : EngQ → EngQ) : (modQueue s c n f).host = s.host := rfl
@[simp] theorem modQueue_msgs (c n : Nat) (f : EngQ → EngQ) : (modQueue s c n f).msgs = s.msgs := rfl
@[simp] theorem modQueue_pends (c n : Nat) (f : EngQ → EngQ) : (modQueue s c n f).pends = s.pends := rfl
@[simp] theorem modQueue_repls (c n : Nat) (f : EngQ → EngQ) : (modQueue s c n f).repls = s.repls := rfl
@[simp] theorem modQueue_asks (c n : Nat) (f : EngQ → EngQ) : (modQueue s c n f).asks = s.asks := rfl
@[simp] theorem modQueue_hostq (c n : Nat) (f : EngQ → EngQ) : (modQueue s c n f).hostq = s.hostq := rfl
@[simp] theorem modQueue_outs (c n : Nat) (f : EngQ → EngQ) : (modQueue s c n f).outs = s.outs := rfl
@[simp] theorem modQueue_agenda (c n : Nat) (f : EngQ → EngQ) : (modQueue s c n f).agenda = s.agenda := rfl
@[simp] theorem modQueue_todo (c n : Nat) (f : EngQ → EngQ) : (modQueue s c n f).todo = s.todo := rfl
@[simp] theorem modQueue_bundle (c n : Nat) (f : EngQ → EngQ) : (modQueue s c n f).bundle = s.bundle := rfl
@[simp] theorem modQueue_cur (c n : Nat) (f : EngQ → EngQ) : (modQueue s c n f).cur = s.cur := rfl
@[simp] theorem modQueue_arg (c n : Nat) (f : EngQ → EngQ) : (modQueue s c n f).arg = s.arg := rfl
@[simp] theorem modQueue_defer (c n : Nat) (f : EngQ → EngQ) : (modQueue s c n f).defer = s.defer := rfl
@[simp] theorem modQueue_turn (c n : Nat) (f : EngQ → EngQ) : (modQueue s c n f).turn = s.turn := rfl
@[simp] theorem modQueue_free (c n : Nat) (f : EngQ → EngQ) : (modQueue s c n f).free = s.free := rfl
@[simp] theorem modQueue_uid (c n : Nat) (f : EngQ → EngQ) : (modQueue s c n f).uid = s.uid := rfl
@[simp] theorem modLane_dev (c n : Nat) (f : Lane → Lane) : (modLane s c n f).dev = s.dev := rfl
@[simp] theorem modLane_ctxs (c n : Nat) (f : Lane → Lane) : (modLane s c n f).ctxs = s.ctxs := rfl
@[simp] theorem modLane_aps (c n : Nat) (f : Lane → Lane) : (modLane s c n f).aps = s.aps := rfl
@[simp] theorem modLane_wins (c n : Nat) (f : Lane → Lane) : (modLane s c n f).wins = s.wins := rfl
@[simp] theorem modLane_hwins (c n : Nat) (f : Lane → Lane) : (modLane s c n f).hwins = s.hwins := rfl
@[simp] theorem modLane_stk (c n : Nat) (f : Lane → Lane) : (modLane s c n f).stk = s.stk := rfl
@[simp] theorem modLane_links (c n : Nat) (f : Lane → Lane) : (modLane s c n f).links = s.links := rfl
@[simp] theorem modLane_dies (c n : Nat) (f : Lane → Lane) : (modLane s c n f).dies = s.dies := rfl
@[simp] theorem modLane_groups (c n : Nat) (f : Lane → Lane) : (modLane s c n f).groups = s.groups := rfl
@[simp] theorem modLane_launches (c n : Nat) (f : Lane → Lane) : (modLane s c n f).launches = s.launches := rfl
@[simp] theorem modLane_graphs (c n : Nat) (f : Lane → Lane) : (modLane s c n f).graphs = s.graphs := rfl
@[simp] theorem modLane_mem (c n : Nat) (f : Lane → Lane) : (modLane s c n f).mem = s.mem := rfl
@[simp] theorem modLane_poison (c n : Nat) (f : Lane → Lane) : (modLane s c n f).poison = s.poison := rfl
@[simp] theorem modLane_host (c n : Nat) (f : Lane → Lane) : (modLane s c n f).host = s.host := rfl
@[simp] theorem modLane_msgs (c n : Nat) (f : Lane → Lane) : (modLane s c n f).msgs = s.msgs := rfl
@[simp] theorem modLane_pends (c n : Nat) (f : Lane → Lane) : (modLane s c n f).pends = s.pends := rfl
@[simp] theorem modLane_repls (c n : Nat) (f : Lane → Lane) : (modLane s c n f).repls = s.repls := rfl
@[simp] theorem modLane_asks (c n : Nat) (f : Lane → Lane) : (modLane s c n f).asks = s.asks := rfl
@[simp] theorem modLane_hostq (c n : Nat) (f : Lane → Lane) : (modLane s c n f).hostq = s.hostq := rfl
@[simp] theorem modLane_outs (c n : Nat) (f : Lane → Lane) : (modLane s c n f).outs = s.outs := rfl
@[simp] theorem modLane_agenda (c n : Nat) (f : Lane → Lane) : (modLane s c n f).agenda = s.agenda := rfl
@[simp] theorem modLane_todo (c n : Nat) (f : Lane → Lane) : (modLane s c n f).todo = s.todo := rfl
@[simp] theorem modLane_bundle (c n : Nat) (f : Lane → Lane) : (modLane s c n f).bundle = s.bundle := rfl
@[simp] theorem modLane_cur (c n : Nat) (f : Lane → Lane) : (modLane s c n f).cur = s.cur := rfl
@[simp] theorem modLane_arg (c n : Nat) (f : Lane → Lane) : (modLane s c n f).arg = s.arg := rfl
@[simp] theorem modLane_defer (c n : Nat) (f : Lane → Lane) : (modLane s c n f).defer = s.defer := rfl
@[simp] theorem modLane_turn (c n : Nat) (f : Lane → Lane) : (modLane s c n f).turn = s.turn := rfl
@[simp] theorem modLane_free (c n : Nat) (f : Lane → Lane) : (modLane s c n f).free = s.free := rfl
@[simp] theorem modLane_uid (c n : Nat) (f : Lane → Lane) : (modLane s c n f).uid = s.uid := rfl

/-! ## Physical memory -/

@[simp] theorem memPut_dev (pa : Nat) (l : List Byte) : (memPut s pa l).dev = s.dev := rfl
@[simp] theorem putMasked_dev (pa : Nat) (m : LineMask) (d : Line) : (putMasked s pa m d).dev = s.dev := rfl
@[simp] theorem memPut_ctxs (pa : Nat) (l : List Byte) : (memPut s pa l).ctxs = s.ctxs := rfl
@[simp] theorem putMasked_ctxs (pa : Nat) (m : LineMask) (d : Line) : (putMasked s pa m d).ctxs = s.ctxs := rfl
@[simp] theorem memPut_aps (pa : Nat) (l : List Byte) : (memPut s pa l).aps = s.aps := rfl
@[simp] theorem putMasked_aps (pa : Nat) (m : LineMask) (d : Line) : (putMasked s pa m d).aps = s.aps := rfl
@[simp] theorem memPut_wins (pa : Nat) (l : List Byte) : (memPut s pa l).wins = s.wins := rfl
@[simp] theorem putMasked_wins (pa : Nat) (m : LineMask) (d : Line) : (putMasked s pa m d).wins = s.wins := rfl
@[simp] theorem memPut_hwins (pa : Nat) (l : List Byte) : (memPut s pa l).hwins = s.hwins := rfl
@[simp] theorem putMasked_hwins (pa : Nat) (m : LineMask) (d : Line) : (putMasked s pa m d).hwins = s.hwins := rfl
@[simp] theorem memPut_stk (pa : Nat) (l : List Byte) : (memPut s pa l).stk = s.stk := rfl
@[simp] theorem putMasked_stk (pa : Nat) (m : LineMask) (d : Line) : (putMasked s pa m d).stk = s.stk := rfl
@[simp] theorem memPut_links (pa : Nat) (l : List Byte) : (memPut s pa l).links = s.links := rfl
@[simp] theorem putMasked_links (pa : Nat) (m : LineMask) (d : Line) : (putMasked s pa m d).links = s.links := rfl
@[simp] theorem memPut_dies (pa : Nat) (l : List Byte) : (memPut s pa l).dies = s.dies := rfl
@[simp] theorem putMasked_dies (pa : Nat) (m : LineMask) (d : Line) : (putMasked s pa m d).dies = s.dies := rfl
@[simp] theorem memPut_cores (pa : Nat) (l : List Byte) : (memPut s pa l).cores = s.cores := rfl
@[simp] theorem putMasked_cores (pa : Nat) (m : LineMask) (d : Line) : (putMasked s pa m d).cores = s.cores := rfl
@[simp] theorem memPut_groups (pa : Nat) (l : List Byte) : (memPut s pa l).groups = s.groups := rfl
@[simp] theorem putMasked_groups (pa : Nat) (m : LineMask) (d : Line) : (putMasked s pa m d).groups = s.groups := rfl
@[simp] theorem memPut_launches (pa : Nat) (l : List Byte) : (memPut s pa l).launches = s.launches := rfl
@[simp] theorem putMasked_launches (pa : Nat) (m : LineMask) (d : Line) : (putMasked s pa m d).launches = s.launches := rfl
@[simp] theorem memPut_graphs (pa : Nat) (l : List Byte) : (memPut s pa l).graphs = s.graphs := rfl
@[simp] theorem putMasked_graphs (pa : Nat) (m : LineMask) (d : Line) : (putMasked s pa m d).graphs = s.graphs := rfl
@[simp] theorem memPut_poison (pa : Nat) (l : List Byte) : (memPut s pa l).poison = s.poison := rfl
@[simp] theorem putMasked_poison (pa : Nat) (m : LineMask) (d : Line) : (putMasked s pa m d).poison = s.poison := rfl
@[simp] theorem memPut_host (pa : Nat) (l : List Byte) : (memPut s pa l).host = s.host := rfl
@[simp] theorem putMasked_host (pa : Nat) (m : LineMask) (d : Line) : (putMasked s pa m d).host = s.host := rfl
@[simp] theorem memPut_msgs (pa : Nat) (l : List Byte) : (memPut s pa l).msgs = s.msgs := rfl
@[simp] theorem putMasked_msgs (pa : Nat) (m : LineMask) (d : Line) : (putMasked s pa m d).msgs = s.msgs := rfl
@[simp] theorem memPut_pends (pa : Nat) (l : List Byte) : (memPut s pa l).pends = s.pends := rfl
@[simp] theorem putMasked_pends (pa : Nat) (m : LineMask) (d : Line) : (putMasked s pa m d).pends = s.pends := rfl
@[simp] theorem memPut_repls (pa : Nat) (l : List Byte) : (memPut s pa l).repls = s.repls := rfl
@[simp] theorem putMasked_repls (pa : Nat) (m : LineMask) (d : Line) : (putMasked s pa m d).repls = s.repls := rfl
@[simp] theorem memPut_asks (pa : Nat) (l : List Byte) : (memPut s pa l).asks = s.asks := rfl
@[simp] theorem putMasked_asks (pa : Nat) (m : LineMask) (d : Line) : (putMasked s pa m d).asks = s.asks := rfl
@[simp] theorem memPut_hostq (pa : Nat) (l : List Byte) : (memPut s pa l).hostq = s.hostq := rfl
@[simp] theorem putMasked_hostq (pa : Nat) (m : LineMask) (d : Line) : (putMasked s pa m d).hostq = s.hostq := rfl
@[simp] theorem memPut_outs (pa : Nat) (l : List Byte) : (memPut s pa l).outs = s.outs := rfl
@[simp] theorem putMasked_outs (pa : Nat) (m : LineMask) (d : Line) : (putMasked s pa m d).outs = s.outs := rfl
@[simp] theorem memPut_agenda (pa : Nat) (l : List Byte) : (memPut s pa l).agenda = s.agenda := rfl
@[simp] theorem putMasked_agenda (pa : Nat) (m : LineMask) (d : Line) : (putMasked s pa m d).agenda = s.agenda := rfl
@[simp] theorem memPut_todo (pa : Nat) (l : List Byte) : (memPut s pa l).todo = s.todo := rfl
@[simp] theorem putMasked_todo (pa : Nat) (m : LineMask) (d : Line) : (putMasked s pa m d).todo = s.todo := rfl
@[simp] theorem memPut_bundle (pa : Nat) (l : List Byte) : (memPut s pa l).bundle = s.bundle := rfl
@[simp] theorem putMasked_bundle (pa : Nat) (m : LineMask) (d : Line) : (putMasked s pa m d).bundle = s.bundle := rfl
@[simp] theorem memPut_cur (pa : Nat) (l : List Byte) : (memPut s pa l).cur = s.cur := rfl
@[simp] theorem putMasked_cur (pa : Nat) (m : LineMask) (d : Line) : (putMasked s pa m d).cur = s.cur := rfl
@[simp] theorem memPut_arg (pa : Nat) (l : List Byte) : (memPut s pa l).arg = s.arg := rfl
@[simp] theorem putMasked_arg (pa : Nat) (m : LineMask) (d : Line) : (putMasked s pa m d).arg = s.arg := rfl
@[simp] theorem memPut_defer (pa : Nat) (l : List Byte) : (memPut s pa l).defer = s.defer := rfl
@[simp] theorem putMasked_defer (pa : Nat) (m : LineMask) (d : Line) : (putMasked s pa m d).defer = s.defer := rfl
@[simp] theorem memPut_turn (pa : Nat) (l : List Byte) : (memPut s pa l).turn = s.turn := rfl
@[simp] theorem putMasked_turn (pa : Nat) (m : LineMask) (d : Line) : (putMasked s pa m d).turn = s.turn := rfl
@[simp] theorem memPut_free (pa : Nat) (l : List Byte) : (memPut s pa l).free = s.free := rfl
@[simp] theorem putMasked_free (pa : Nat) (m : LineMask) (d : Line) : (putMasked s pa m d).free = s.free := rfl
@[simp] theorem memPut_uid (pa : Nat) (l : List Byte) : (memPut s pa l).uid = s.uid := rfl
@[simp] theorem putMasked_uid (pa : Nat) (m : LineMask) (d : Line) : (putMasked s pa m d).uid = s.uid := rfl

end Sys2Proof.Machine
end

