-- ==== Sys2Proof/Laws/Memory.lean ====
section
/-!
SUPPORT. Physical memory: a byte read after a write, that a write leaves every other byte alone, and that every operation keeps the
canonical form.
-/

namespace Sys2Proof.Machine

/-- The cells of a memory lie above an address. -/
def above (a : Nat) (m : List Host.Cell) : Prop := ∀ c ∈ m, a < c.1

theorem Memory.wf_cons {c : Host.Cell} {m : List Host.Cell} :
    Memory.wf (c :: m) = true ↔ c.2 ≠ unlistedByte ∧ (∀ d ∈ m.head?, c.1 < d.1) ∧ Memory.wf m = true := by
  cases m with
  | nil => simp [Memory.wf]
  | cons d r => simp [Memory.wf, and_assoc]

theorem Memory.wf_tail {c : Host.Cell} {m : List Host.Cell} (h : Memory.wf (c :: m) = true) : Memory.wf m = true :=
  (Memory.wf_cons.1 h).2.2

theorem Memory.wf_above {c : Host.Cell} {m : List Host.Cell} (h : Memory.wf (c :: m) = true) : above c.1 m := by
  induction m generalizing c with
  | nil => intro x hx; simp at hx
  | cons d r ih =>
    intro x hx
    have h1 := (Memory.wf_cons.1 h).2.1 d (by simp)
    rcases List.mem_cons.1 hx with rfl | hx
    · exact h1
    · exact Nat.lt_trans h1 (ih (Memory.wf_tail h) x hx)

theorem Memory.wf_cons_of_above {c : Host.Cell} {m : List Host.Cell} (hv : c.2 ≠ unlistedByte) (ha : above c.1 m)
    (h : Memory.wf m = true) : Memory.wf (c :: m) = true :=
  Memory.wf_cons.2 ⟨hv, fun d hd => ha d (List.mem_of_mem_head? hd), h⟩

theorem cellRead_below {m : List Host.Cell} {a : Nat} (h : above a m) : cellRead m a = unlistedByte := by
  cases m with
  | nil => rfl
  | cons c r =>
    obtain ⟨b, v⟩ := c
    have hb : a < b := h (b, v) (by simp)
    simp [cellRead, Nat.ne_of_gt hb, hb]

theorem cellWrite_above {m : List Host.Cell} {a k : Nat} (v : Byte) (hk : k < a) (h : above k m) : above k (cellWrite m a v) := by
  induction m with
  | nil =>
    unfold cellWrite; split
    · exact h
    · intro c hc; simp at hc; subst hc; exact hk
  | cons e r ih =>
    obtain ⟨b, w⟩ := e
    have hr : above k r := fun c hc => h c (List.mem_cons_of_mem _ hc)
    have hb : k < b := h (b, w) (by simp)
    unfold cellWrite
    split
    · split
      · exact hr
      · intro c hc; rcases List.mem_cons.1 hc with rfl | hc
        · exact hk
        · exact hr c hc
    · split
      · split
        · exact h
        · intro c hc; rcases List.mem_cons.1 hc with rfl | hc
          · exact hk
          · exact h c hc
      · intro c hc; rcases List.mem_cons.1 hc with rfl | hc
        · exact hb
        · exact ih hr c hc

/-- A write keeps the canonical form. -/
theorem cellWrite_wf {m : List Host.Cell} (a : Nat) (v : Byte) (h : Memory.wf m = true) : Memory.wf (cellWrite m a v) = true := by
  induction m with
  | nil => unfold cellWrite; split <;> simp_all [Memory.wf]
  | cons e r ih =>
    obtain ⟨b, w⟩ := e
    have hr := Memory.wf_tail h
    have hab := Memory.wf_above h
    have hw := (Memory.wf_cons.1 h).1
    unfold cellWrite
    split
    · rename_i hba; subst hba
      split
      · exact hr
      · rename_i hv; exact Memory.wf_cons_of_above hv hab hr
    · split
      · rename_i hlt
        split
        · exact h
        · rename_i hv
          refine Memory.wf_cons_of_above hv ?_ h
          intro c hc; rcases List.mem_cons.1 hc with rfl | hc
          · exact hlt
          · exact Nat.lt_trans hlt (hab c hc)
      · rename_i hne hge
        exact Memory.wf_cons_of_above hw (cellWrite_above v (by simp at hne hge ⊢; omega) hab) (ih hr)

/-- A byte written reads back. -/
theorem cellRead_cellWrite_same {m : List Host.Cell} (a : Nat) (v : Byte) (h : Memory.wf m = true) :
    cellRead (cellWrite m a v) a = v := by
  induction m with
  | nil =>
    unfold cellWrite; split
    · rename_i hv; rw [hv]; rfl
    · simp [cellRead]
  | cons e r ih =>
    obtain ⟨b, w⟩ := e
    have hab := Memory.wf_above h
    unfold cellWrite
    split
    · rename_i hba; subst hba
      split
      · rename_i hv; rw [cellRead_below hab, hv]
      · simp [cellRead]
    · rename_i hne
      split
      · rename_i hlt
        split
        · rename_i hv; simp [cellRead, hne, hlt, hv]
        · simp [cellRead]
      · rename_i hge; simp [cellRead, hne, hge, ih (Memory.wf_tail h)]

/-- A write leaves every other byte alone. -/
theorem cellRead_cellWrite_other {m : List Host.Cell} {a k : Nat} (hk : a ≠ k) (v : Byte) (h : Memory.wf m = true) :
    cellRead (cellWrite m a v) k = cellRead m k := by
  induction m with
  | nil =>
    unfold cellWrite; split
    · rfl
    · by_cases hlt : k < a <;> simp [cellRead, hk, hlt]
  | cons e r ih =>
    obtain ⟨b, w⟩ := e
    have hab := Memory.wf_above h
    unfold cellWrite
    split
    · rename_i hba; subst hba
      by_cases hlt : k < b
      · have : above k r := fun c hc => Nat.lt_trans hlt (hab c hc)
        split
        · rw [cellRead_below this]; simp [cellRead, hk, hlt]
        · simp [cellRead, hk, hlt]
      · split <;> simp [cellRead, hk, hlt]
    · rename_i hne
      split
      · rename_i hlt
        split
        · rfl
        · by_cases hka : k < a
          · have h1 : k < b := Nat.lt_trans hka hlt
            simp [cellRead, hk, hka, Nat.ne_of_gt h1, h1]
          · simp [cellRead, hk, hka]
      · rename_i hge
        by_cases hb : b = k
        · simp [cellRead, hb]
        · by_cases hlt : k < b
          · simp [cellRead, hb, hlt]
          · simp [cellRead, hb, hlt, ih (Memory.wf_tail h)]

/-! ## Wider writes -/

theorem cellWriteList_wf {m : List Host.Cell} (a : Nat) (l : List Byte) (h : Memory.wf m = true) :
    Memory.wf (cellWriteList m a l) = true := by
  induction l generalizing m a with
  | nil => exact h
  | cons v r ih => exact ih (a + 1) (cellWrite_wf a v h)

theorem cellRead_cellWriteList_out {m : List Host.Cell} {a k : Nat} (l : List Byte) (hk : k < a ∨ a + l.length ≤ k)
    (h : Memory.wf m = true) : cellRead (cellWriteList m a l) k = cellRead m k := by
  induction l generalizing m a with
  | nil => rfl
  | cons v r ih =>
    have hne : a ≠ k := by simp at hk; omega
    rw [cellWriteList, ih (by simp at hk ⊢; omega) (cellWrite_wf a v h), cellRead_cellWrite_other hne v h]

/-- A write of bytes keeps the canonical form. -/
theorem memPut_wf {s : State} (pa : Nat) (l : List Byte) (h : Memory.wf s.mem = true) : Memory.wf (memPut s pa l).mem = true :=
  cellWriteList_wf pa l h

/-- A write of bytes leaves every byte outside them alone. -/
theorem memByte_memPut_out {s : State} {pa k : Nat} (l : List Byte) (hk : k < pa ∨ pa + l.length ≤ k)
    (h : Memory.wf s.mem = true) : memByte (memPut s pa l) k = memByte s k :=
  cellRead_cellWriteList_out l hk h

theorem maskedFold_wf (m : LineMask) (pa : Nat) (d : Line) (l : List Nat) {mem : List Host.Cell} (h : Memory.wf mem = true) :
    Memory.wf (l.foldl (fun mem i => if m.getLsbD i then cellWrite mem (pa + i) (lineByte d i) else mem) mem) = true := by
  refine foldl_keeps (fun mem => Memory.wf mem = true) _ (fun b i hb => ?_) l mem h
  split
  · exact cellWrite_wf _ _ hb
  · exact hb

/-- A masked write of a line keeps the canonical form. -/
theorem putMasked_wf {s : State} (pa : Nat) (m : LineMask) (d : Line) (h : Memory.wf s.mem = true) :
    Memory.wf (putMasked s pa m d).mem = true := by
  unfold putMasked
  generalize upTo 128 = l
  exact maskedFold_wf m pa d l h

theorem rangeFrom_mem {b n i : Nat} : i ∈ rangeFrom b n ↔ b ≤ i ∧ i < b + n := by
  induction n generalizing b with
  | zero => simp [rangeFrom]
  | succ n ih => simp [rangeFrom, ih]; omega

theorem upTo_mem {n i : Nat} : i ∈ upTo n ↔ i < n := by simp [upTo, rangeFrom_mem]

theorem maskedFold_out (m : LineMask) (pa k : Nat) (d : Line) (l : List Nat) (hl : ∀ i ∈ l, i < 128)
    (hk : k < pa ∨ pa + 128 ≤ k) {mem : List Host.Cell} (h : Memory.wf mem = true) :
    cellRead (l.foldl (fun mem i => if m.getLsbD i then cellWrite mem (pa + i) (lineByte d i) else mem) mem) k = cellRead mem k := by
  induction l generalizing mem with
  | nil => rfl
  | cons i r ih =>
    have hi := hl i (by simp)
    rw [List.foldl_cons, ih (fun j hj => hl j (by simp [hj]))]
    · split
      · exact cellRead_cellWrite_other (by omega) _ h
      · rfl
    · split
      · exact cellWrite_wf _ _ h
      · exact h

/-- A masked write of a line leaves every byte outside the line alone. -/
theorem memByte_putMasked_out {s : State} {pa k : Nat} (m : LineMask) (d : Line) (hk : k < pa ∨ pa + 128 ≤ k)
    (h : Memory.wf s.mem = true) : memByte (putMasked s pa m d) k = memByte s k := by
  unfold memByte putMasked
  generalize hl : upTo 128 = l
  exact maskedFold_out m pa k d l (fun i hi => upTo_mem.1 (hl ▸ hi)) hk h

/-! ## Write-backs -/

@[simp] theorem accrue_mem (s : State) (d ctx : Nat) : (accrue s d ctx).mem = s.mem := rfl

@[simp] theorem wantToken_mem (s : State) (d : Nat) (r : Req) (ctx line : Nat) : (wantToken s d r ctx line).mem = s.mem := by
  unfold wantToken
  split <;> rfl

@[simp] theorem serveToken_mem (s : State) (d k ctx : Nat) (l : List TokReq) (f : TokReq → Bool) : (serveToken s d k ctx l f).mem = s.mem := rfl

/-- A request that a controller serves, with a token or without, leaves memory alone. -/
theorem takeToken_mem {s t : State} {r : Req} {ctx d line : Nat} (h : takeToken s r ctx d line = some t) : t.mem = s.mem := by
  have hs : (if (getCtx s ctx).rate = 0 then s else accrue s d ctx).mem = s.mem := by split <;> simp
  unfold takeToken at h
  dsimp only at h
  generalize (if (getCtx s ctx).rate = 0 then s else accrue s d ctx) = s1 at h hs
  by_cases h0 : (getCtx s ctx).rate = 0 ∧ (getDie s d).tokq.isEmpty ∧ SMap.get (getDie s d).dlRun (paStack (128 * line)) 0 = 0
  · rw [if_pos h0, Option.some.injEq] at h; rw [← h]
  · rw [if_neg h0] at h
    split at h
    · cases h
    · rw [Option.some.injEq] at h; rw [← h, serveToken_mem, hs]

/-- An admitted write-back keeps the canonical form, performed or posted. -/
theorem writeWithToken_wf {s : State} (p : Posted) (h : Memory.wf s.mem = true) : Memory.wf (writeWithToken s p).mem = true := by
  unfold writeWithToken
  simp only
  split
  · rename_i t ht
    exact putMasked_wf _ _ _ (by rw [takeToken_mem ht]; exact h)
  · simpa using h

/-- A write-back keeps the canonical form, performed or posted. -/
theorem dramWrite_wf {s : State} (d ctx tag line pa : Nat) (m : LineMask) (data : Line) (h : Memory.wf s.mem = true) :
    Memory.wf (dramWrite s d ctx tag line pa m data).mem = true := by
  unfold dramWrite
  split
  · exact h
  · have hf : Memory.wf (fresh s).2.mem = true := h
    generalize fresh s = f at hf ⊢
    obtain ⟨seq, t⟩ := f
    simp only
    split
    · exact writeWithToken_wf _ hf
    · simpa using hf

/-- The posted writes of a stack keep the canonical form when they are performed. -/
theorem performList_wf {s : State} (k : Nat) (l : List Posted) (h : Memory.wf s.mem = true) : Memory.wf (performList s k l).mem = true := by
  induction l generalizing s with
  | nil => exact h
  | cons p r ih =>
    unfold performList
    split
    · exact ih (writeWithToken_wf p (by simpa using h))
    · exact ih h

/-- Reset memory lists nothing. -/
theorem reset_mem_wf : Memory.wf State.reset.mem = true := rfl

end Sys2Proof.Machine
end

