-- ==== Sys2Proof/Laws/Ops.lean ====
section
/-!
SUPPORT. The shared operations: registers read after they are written, a thread read after it is set, what retiring and trapping leave,
and everything that the issue of a word can do.
-/

namespace Sys2Proof.Machine

/-! ## Registers -/

@[simp] theorem readX_zero (t : Thread) : readX t 0 = 0 := rfl

theorem readX_writeX_same (t : Thread) {r : Nat} (h : r ≠ 0) (v : Word) : readX (writeX t r v) r = v := by
  simp [readX, writeX, h]

theorem readX_writeX_other (t : Thread) {r k : Nat} (h : r ≠ k) (v : Word) : readX (writeX t r v) k = readX t k := by
  by_cases hr : r = 0
  · simp [writeX, hr]
  · by_cases hk : k = 0
    · simp [hk]
    · simp [readX, writeX, hr, hk, SMap.get_set_other _ h]

@[simp] theorem writeX_zero (t : Thread) (v : Word) : writeX t 0 v = t := rfl

@[simp] theorem writeX_pc (t : Thread) (r : Nat) (v : Word) : (writeX t r v).pc = t.pc := by unfold writeX; split <;> rfl
@[simp] theorem writeX_p (t : Thread) (r : Nat) (v : Word) : (writeX t r v).p = t.p := by unfold writeX; split <;> rfl
@[simp] theorem writeX_st (t : Thread) (r : Nat) (v : Word) : (writeX t r v).st = t.st := by unfold writeX; split <;> rfl

@[simp] theorem writePair_zero (t : Thread) (v : DWord) : writePair t 0 v = t := rfl

@[simp] theorem writePair_pc (t : Thread) (r : Nat) (v : DWord) : (writePair t r v).pc = t.pc := by
  unfold writePair; split <;> simp

/-- A pair written to an even register other than x0 reads back whole. -/
theorem readPair_writePair (t : Thread) {r : Nat} (h : r ≠ 0) (v : DWord) : readPair (writePair t r v) r = v := by
  simp only [readPair, writePair, h, if_false]
  rw [readX_writeX_same _ (by omega), readX_writeX_other _ (by omega), readX_writeX_same _ h]
  apply BitVec.eq_of_getLsbD_eq
  intro i hi
  rw [BitVec.getLsbD_append, BitVec.getLsbD_extractLsb', BitVec.getLsbD_extractLsb']
  by_cases h32 : i < 32
  · simp [h32]
  · have h2 : i - 32 < 32 := by omega
    have h3 : 32 + (i - 32) = i := by omega
    simp [h32, h2, h3]

theorem readX_writePair_other (t : Thread) {r k : Nat} (h1 : r ≠ k) (h2 : r + 1 ≠ k) (v : DWord) :
    readX (writePair t r v) k = readX t k := by
  unfold writePair; split
  · rfl
  · rw [readX_writeX_other _ h2, readX_writeX_other _ h1]

@[simp] theorem readP_seven (t : Thread) : readP t 7 = true := rfl

@[simp] theorem writeP_seven (t : Thread) (v : Bool) : writeP t 7 v = t := rfl

@[simp] theorem writeP_x (t : Thread) (i : Nat) (v : Bool) : (writeP t i v).x = t.x := by unfold writeP; split <;> rfl
@[simp] theorem writeP_pc (t : Thread) (i : Nat) (v : Bool) : (writeP t i v).pc = t.pc := by unfold writeP; split <;> rfl

/-! ## A thread in its place -/

/-- A thread that is set reads back. -/
theorem getThread_setThread {s : State} {a : Agent} {t0 : Thread} (h : getThread s a = some t0) (t : Thread) :
    getThread (setThread s a t) a = some t := by
  cases a with
  | thread gid tid =>
    simp only [getThread] at h
    cases hg : getGroup s gid with
    | none => simp [hg] at h
    | some g =>
      simp only [hg] at h
      simp [getThread, setThread, modGroup, hg, modNth_same, h]
  | lane c l =>
    simp only [getThread] at h
    by_cases hl : l < 32
    · simp [getThread, setThread, hl, modLane, getLane]
    · simp [hl] at h
  | sextant d =>
    simp only [getThread] at h
    by_cases hd : d < 16
    · simp [getThread, setThread, hd]
    · simp [hd] at h
  | engine c q => simp [getThread] at h

/-- Setting one agent's thread leaves every other agent's. -/
theorem getThread_setThread_ne (s : State) {a b : Agent} (h : a ≠ b) (t : Thread) :
    getThread (setThread s a t) b = getThread s b := by
  cases a with
  | thread gid tid =>
    cases b with
    | thread gid' tid' =>
      simp only [setThread, getThread]
      by_cases hg : gid = gid'
      · subst hg
        have ht : tid ≠ tid' := fun e => h (by rw [e])
        cases hgg : getGroup s gid with
        | none => simp [modGroup, hgg]
        | some g => simp [modGroup, hgg, modNth_other _ ht]
      · cases hgg : getGroup s gid with
        | none => simp [modGroup, hgg]
        | some g => simp [modGroup, hgg, getGroup_setGroup_ne _ hg]
    | lane c l => simp [setThread, getThread]
    | sextant d => simp [setThread, getThread]
    | engine c q => rfl
  | lane c l =>
    cases b with
    | thread gid tid => simp [setThread, getThread, modLane]
    | lane c' l' =>
      simp only [setThread, getThread, modLane]
      by_cases hc : c = c'
      · subst hc
        have hl : l ≠ l' := fun e => h (by rw [e])
        simp [getLane, SMap.get_set_other _ hl]
      · simp [getCore_modCore_ne _ hc]
    | sextant d => simp [setThread, getThread, modLane]
    | engine c' q => rfl
  | sextant d =>
    cases b with
    | thread gid tid => simp [setThread, getThread]
    | lane c l => simp [setThread, getThread]
    | sextant d' =>
      have hd : d ≠ d' := fun e => h (by rw [e])
      simp [setThread, getThread, getDie_modDie_ne _ hd]
    | engine c q => rfl
  | engine c q => rfl

theorem sameOutside_refl (s : State) : SameOutside s s :=
  ⟨rfl, rfl, rfl, rfl, rfl, rfl, rfl, rfl, rfl, rfl, rfl, rfl, rfl, rfl, rfl, rfl, rfl⟩

theorem SameOutside.trans {s u v : State} (h : SameOutside s u) (k : SameOutside u v) : SameOutside s v :=
  ⟨k.ctxs.trans h.ctxs, k.aps.trans h.aps, k.wins.trans h.wins, k.hwins.trans h.hwins, k.stk.trans h.stk,
   k.links.trans h.links, k.launches.trans h.launches, k.graphs.trans h.graphs, k.mem.trans h.mem, k.poison.trans h.poison,
   k.host.trans h.host, k.msgs.trans h.msgs, k.pends.trans h.pends, k.repls.trans h.repls, k.outs.trans h.outs,
   k.asks.trans h.asks, k.hostq.trans h.hostq⟩

/-- Setting a thread touches only groups, cores and dies. -/
theorem setThread_outside (s : State) (a : Agent) (t : Thread) : SameOutside s (setThread s a t) := by
  cases a <;> constructor <;> simp [setThread, modLane]

theorem modThread_outside (s : State) (a : Agent) (f : Thread → Thread) : SameOutside s (modThread s a f) := by
  unfold modThread; split
  · exact setThread_outside _ _ _
  · exact sameOutside_refl s

theorem postRec_outside (s : State) (c : Nat) (r : TrapRec) : SameOutside s (postRec s c r) := by
  constructor <;> simp [postRec]

/-- A trap touches only groups, cores, dies, DEVST and the model's own scheduling fields. -/
theorem trap_outside (s : State) (a : Agent) (code : Nat) (arg : Word) (va : Nat) : SameOutside s (trap s a code arg va) := by
  cases a with
  | thread gid tid => exact (modThread_outside s _ _).trans (postRec_outside _ _ _)
  | lane c l => exact (modThread_outside s _ _).trans (by constructor <;> rfl)
  | sextant d => simp only [trap, sextantEnter]; split <;> constructor <;> rfl
  | engine c q => exact sameOutside_refl s

/-- Retiring touches only groups, cores and dies. -/
theorem retireTo_outside (s : State) (e : Env) (t : Thread) (pc : DWord) : SameOutside s (retireTo s e t pc) := by
  unfold retireTo; simp only []
  split
  · exact (setThread_outside _ _ _).trans (trap_outside _ _ _ _ _)
  · exact setThread_outside _ _ _

theorem retire_outside (s : State) (e : Env) (t : Thread) : SameOutside s (retire s e t) := retireTo_outside s e t _

theorem passFree_outside (s : State) (e : Env) (l : List Need) : SameOutside s (passFree s e l) := by
  unfold passFree; split <;> constructor <;> rfl

theorem waitAt_outside (s : State) (a : Agent) (w : Wait) : SameOutside s (waitAt s a w) := modThread_outside _ _ _

/-! ## The issue of a word -/

/-- Where nothing stops a word, its effect is the outcome. -/
theorem issue_clear {s : State} {a : Agent} {t : Thread} {g : GuardF} {pol : Policy} {needs : List Need}
    (h : Clear s a t g pol needs) (body : Env → Thread → State) :
    issue s g pol needs body = .next (passFree (body (envOf s a) t) (envOf s a) needs) := by
  simp only [issue, h.cur, h.thread, h.place, h.legal, h.right, h.limits, h.lim, h.guard, h.arrived, h.clean]
  simp

/-- A word whose guard is false retires (R21). -/
theorem issue_guarded {s : State} {a : Agent} {t : Thread} {g : GuardF} {pol : Policy} {needs : List Need}
    (h : Passes s a t pol needs) (hg : guardHolds g t = false) (body : Env → Thread → State) :
    issue s g pol needs body = .next (retire s (envOf s a) t) := by
  simp only [issue, h.cur, h.thread, h.place, h.legal, h.right, h.limits, h.lim, hg]
  simp

/-- Everything the issue of a word can come to: a trap of R22, the false guard, a wait for a register, a poisoned source, or the effect. -/
theorem issue_cases {s s' : State} {g : GuardF} {pol : Policy} {needs : List Need} {body : Env → Thread → State}
    (h : issue s g pol needs body = .next s') :
    ∃ a t, s.cur = some a ∧ getThread s a = some t ∧
      (s' = trap s a 0x01 ∨ s' = trap s a 0x03 ∨ s' = trap s a 0x02 ∨ s' = retire s (envOf s a) t ∨ s' = waitAt s a .regs ∨
        s' = trap s a 0x08 ∨ s' = passFree (body (envOf s a) t) (envOf s a) needs) := by
  unfold issue at h
  split at h
  · simp at h
  · rename_i a ha
    split at h
    · simp at h
    · rename_i t ht
      refine ⟨a, t, ha, ht, ?_⟩
      simp only [] at h
      repeat' split at h
      all_goals (simp only [Host.Outcome.next.injEq] at h; simp [h.symm])

/-- The issue of a word is never refused. -/
theorem issue_not_refused (s : State) (g : GuardF) (pol : Policy) (needs : List Need) (body : Env → Thread → State) (r : Refusal) :
    issue s g pol needs body ≠ .refused r := by
  unfold issue
  split
  · simp
  · split
    · simp
    · simp only []; repeat' split
      all_goals simp

end Sys2Proof.Machine
end

