-- ==== Sys2Proof/Laws/PerInstr.lean ====
section
/-!
SUPPORT. What holds of every instruction as syntax, one lemma for each constructor: the encoded word carries the instruction's guard
(02_encoding R20, R21), and a step of the device has neither word nor guard.
-/

namespace Sys2Proof.Laws

/-- PN stands above PI in the common fields. -/
theorem head_pn (maj : BitVec 8) (g : GuardF) : (encHead maj g).getLsbD 3 = g.pn := by
  simp only [encHead, BitVec.getLsbD_append]; simp

/-- PI is the low end of the common fields. -/
theorem head_pi (maj : BitVec 8) (g : GuardF) (k : Nat) (h : k < 3) : (encHead maj g).getLsbD k = g.pi.getLsbD k := by
  simp only [encHead, BitVec.getLsbD_append, if_pos h]

/-- A word whose bits 52 to 55 are those of the common fields carries their guard. -/
theorem fGuard_of {w : DWord} {maj : BitVec 8} {g : GuardF} (h : ∀ k, k < 4 → w.getLsbD (52 + k) = (encHead maj g).getLsbD k) :
    fGuard w = g := by
  obtain ⟨pn, pi⟩ := g
  have hn := (h 3 (by decide)).trans (head_pn maj ⟨pn, pi⟩)
  have hi : w.extractLsb' 52 3 = pi := by
    apply BitVec.eq_of_getLsbD_eq
    intro k hk
    rw [BitVec.getLsbD_extractLsb', h k (by omega), head_pi maj ⟨pn, pi⟩ k hk]
    simp [hk]
  simp only [fGuard, hi]
  exact congrArg (fun b => GuardF.mk b pi) hn

/-! Each format carries the guard. -/

theorem fGuard_encR (maj fn) (o : OpR) : fGuard (encR maj fn o) = o.g := fGuard_of (maj := maj) fun k hk => by
  simp only [encR, BitVec.getLsbD_append]
  repeat rw [if_neg (by omega)]
  exact congrArg _ (by omega)

theorem fGuard_encS (maj fn) (o : OpS) : fGuard (encS maj fn o) = o.g := fGuard_of (maj := maj) fun k hk => by
  simp only [encS, BitVec.getLsbD_append]
  repeat rw [if_neg (by omega)]
  exact congrArg _ (by omega)

theorem fGuard_encA (maj) (o : OpA) : fGuard (encA maj o) = o.g := fGuard_of (maj := maj) fun k hk => by
  simp only [encA, BitVec.getLsbD_append]
  repeat rw [if_neg (by omega)]
  exact congrArg _ (by omega)

theorem fGuard_encI (maj fn) (o : OpI) : fGuard (encI maj fn o) = o.g := fGuard_of (maj := maj) fun k hk => by
  simp only [encI, BitVec.getLsbD_append]
  repeat rw [if_neg (by omega)]
  exact congrArg _ (by omega)

theorem fGuard_encM (maj) (o : OpM) : fGuard (encM maj o) = o.g := fGuard_of (maj := maj) fun k hk => by
  simp only [encM, BitVec.getLsbD_append]
  repeat rw [if_neg (by omega)]
  exact congrArg _ (by omega)

theorem fGuard_encJ (maj) (o : OpJ) : fGuard (encJ maj o) = o.g := fGuard_of (maj := maj) fun k hk => by
  simp only [encJ, BitVec.getLsbD_append]
  repeat rw [if_neg (by omega)]
  exact congrArg _ (by omega)

theorem fGuard_encE (maj fn) (o : OpE) : fGuard (encE maj fn o) = o.g := fGuard_of (maj := maj) fun k hk => by
  simp only [encE, BitVec.getLsbD_append]
  repeat rw [if_neg (by omega)]
  exact congrArg _ (by omega)

theorem fGuard_encT (maj fn) (o : OpT) : fGuard (encT maj fn o) = o.g := fGuard_of (maj := maj) fun k hk => by
  simp only [encT, BitVec.getLsbD_append]
  repeat rw [if_neg (by omega)]
  exact congrArg _ (by omega)

/-- The word of an instruction carries its guard. -/
def Guarded.Statement (i : Instr) : Prop := (encode i).map fGuard = i.guard?

theorem Guarded.nop (o : OpR) : Guarded.Statement (.nop o) := congrArg some (fGuard_encR _ _ o)
theorem Guarded.bra (o : OpJ) : Guarded.Statement (.bra o) := congrArg some (fGuard_encJ _ o)
theorem Guarded.call (o : OpJ) : Guarded.Statement (.call o) := congrArg some (fGuard_encJ _ o)
theorem Guarded.brx (o : OpR) : Guarded.Statement (.brx o) := congrArg some (fGuard_encR _ _ o)
theorem Guarded.callx (o : OpR) : Guarded.Statement (.callx o) := congrArg some (fGuard_encR _ _ o)
theorem Guarded.ret (o : OpR) : Guarded.Statement (.ret o) := congrArg some (fGuard_encR _ _ o)
theorem Guarded.exit_ (o : OpR) : Guarded.Statement (.exit_ o) := congrArg some (fGuard_encR _ _ o)
theorem Guarded.yield (o : OpR) : Guarded.Statement (.yield o) := congrArg some (fGuard_encR _ _ o)
theorem Guarded.trap (o : OpR) : Guarded.Statement (.trap o) := congrArg some (fGuard_encR _ _ o)
theorem Guarded.brk (o : OpR) : Guarded.Statement (.brk o) := congrArg some (fGuard_encR _ _ o)
theorem Guarded.sleep (o : OpR) : Guarded.Statement (.sleep o) := congrArg some (fGuard_encR _ _ o)
theorem Guarded.movi (o : OpI) : Guarded.Statement (.movi o) := congrArg some (fGuard_encI _ _ o)
theorem Guarded.movih (o : OpI) : Guarded.Statement (.movih o) := congrArg some (fGuard_encI _ _ o)
theorem Guarded.iaddi (o : OpI) : Guarded.Statement (.iaddi o) := congrArg some (fGuard_encI _ _ o)
theorem Guarded.imuli (o : OpI) : Guarded.Statement (.imuli o) := congrArg some (fGuard_encI _ _ o)
theorem Guarded.andi (o : OpI) : Guarded.Statement (.andi o) := congrArg some (fGuard_encI _ _ o)
theorem Guarded.ori (o : OpI) : Guarded.Statement (.ori o) := congrArg some (fGuard_encI _ _ o)
theorem Guarded.xori (o : OpI) : Guarded.Statement (.xori o) := congrArg some (fGuard_encI _ _ o)
theorem Guarded.shli (o : OpI) : Guarded.Statement (.shli o) := congrArg some (fGuard_encI _ _ o)
theorem Guarded.shri (o : OpI) : Guarded.Statement (.shri o) := congrArg some (fGuard_encI _ _ o)
theorem Guarded.sari (o : OpI) : Guarded.Statement (.sari o) := congrArg some (fGuard_encI _ _ o)
theorem Guarded.aaddi (o : OpI) : Guarded.Statement (.aaddi o) := congrArg some (fGuard_encI _ _ o)
theorem Guarded.iadd (o : OpR) : Guarded.Statement (.iadd o) := congrArg some (fGuard_encR _ _ o)
theorem Guarded.isub (o : OpR) : Guarded.Statement (.isub o) := congrArg some (fGuard_encR _ _ o)
theorem Guarded.imul (o : OpR) : Guarded.Statement (.imul o) := congrArg some (fGuard_encR _ _ o)
theorem Guarded.imulh (o : OpR) : Guarded.Statement (.imulh o) := congrArg some (fGuard_encR _ _ o)
theorem Guarded.imulhu (o : OpR) : Guarded.Statement (.imulhu o) := congrArg some (fGuard_encR _ _ o)
theorem Guarded.imad (o : OpR) : Guarded.Statement (.imad o) := congrArg some (fGuard_encR _ _ o)
theorem Guarded.imin (o : OpR) : Guarded.Statement (.imin o) := congrArg some (fGuard_encR _ _ o)
theorem Guarded.imax (o : OpR) : Guarded.Statement (.imax o) := congrArg some (fGuard_encR _ _ o)
theorem Guarded.umin (o : OpR) : Guarded.Statement (.umin o) := congrArg some (fGuard_encR _ _ o)
theorem Guarded.umax (o : OpR) : Guarded.Statement (.umax o) := congrArg some (fGuard_encR _ _ o)
theorem Guarded.iabs (o : OpR) : Guarded.Statement (.iabs o) := congrArg some (fGuard_encR _ _ o)
theorem Guarded.iadds (o : OpR) : Guarded.Statement (.iadds o) := congrArg some (fGuard_encR _ _ o)
theorem Guarded.isubs (o : OpR) : Guarded.Statement (.isubs o) := congrArg some (fGuard_encR _ _ o)
theorem Guarded.idiv (o : OpR) : Guarded.Statement (.idiv o) := congrArg some (fGuard_encR _ _ o)
theorem Guarded.udiv (o : OpR) : Guarded.Statement (.udiv o) := congrArg some (fGuard_encR _ _ o)
theorem Guarded.irem (o : OpR) : Guarded.Statement (.irem o) := congrArg some (fGuard_encR _ _ o)
theorem Guarded.urem (o : OpR) : Guarded.Statement (.urem o) := congrArg some (fGuard_encR _ _ o)
theorem Guarded.dp4a (o : OpR) : Guarded.Statement (.dp4a o) := congrArg some (fGuard_encR _ _ o)
theorem Guarded.dp4au (o : OpR) : Guarded.Statement (.dp4au o) := congrArg some (fGuard_encR _ _ o)
theorem Guarded.and_ (o : OpR) : Guarded.Statement (.and_ o) := congrArg some (fGuard_encR _ _ o)
theorem Guarded.or_ (o : OpR) : Guarded.Statement (.or_ o) := congrArg some (fGuard_encR _ _ o)
theorem Guarded.xor_ (o : OpR) : Guarded.Statement (.xor_ o) := congrArg some (fGuard_encR _ _ o)
theorem Guarded.andn (o : OpR) : Guarded.Statement (.andn o) := congrArg some (fGuard_encR _ _ o)
theorem Guarded.blut (o : OpR) : Guarded.Statement (.blut o) := congrArg some (fGuard_encR _ _ o)
theorem Guarded.shl (o : OpR) : Guarded.Statement (.shl o) := congrArg some (fGuard_encR _ _ o)
theorem Guarded.shr_ (o : OpR) : Guarded.Statement (.shr_ o) := congrArg some (fGuard_encR _ _ o)
theorem Guarded.sar (o : OpR) : Guarded.Statement (.sar o) := congrArg some (fGuard_encR _ _ o)
theorem Guarded.rol (o : OpR) : Guarded.Statement (.rol o) := congrArg some (fGuard_encR _ _ o)
theorem Guarded.bfe (o : OpR) : Guarded.Statement (.bfe o) := congrArg some (fGuard_encR _ _ o)
theorem Guarded.bfeu (o : OpR) : Guarded.Statement (.bfeu o) := congrArg some (fGuard_encR _ _ o)
theorem Guarded.bfi (o : OpR) : Guarded.Statement (.bfi o) := congrArg some (fGuard_encR _ _ o)
theorem Guarded.popc (o : OpR) : Guarded.Statement (.popc o) := congrArg some (fGuard_encR _ _ o)
theorem Guarded.clz (o : OpR) : Guarded.Statement (.clz o) := congrArg some (fGuard_encR _ _ o)
theorem Guarded.brev (o : OpR) : Guarded.Statement (.brev o) := congrArg some (fGuard_encR _ _ o)
theorem Guarded.bshuf (o : OpR) : Guarded.Statement (.bshuf o) := congrArg some (fGuard_encR _ _ o)
theorem Guarded.icmp (o : OpR) : Guarded.Statement (.icmp o) := congrArg some (fGuard_encR _ _ o)
theorem Guarded.icmpm (o : OpR) : Guarded.Statement (.icmpm o) := congrArg some (fGuard_encR _ _ o)
theorem Guarded.sel (o : OpR) : Guarded.Statement (.sel o) := congrArg some (fGuard_encR _ _ o)
theorem Guarded.plut (o : OpR) : Guarded.Statement (.plut o) := congrArg some (fGuard_encR _ _ o)
theorem Guarded.pgat (o : OpR) : Guarded.Statement (.pgat o) := congrArg some (fGuard_encR _ _ o)
theorem Guarded.pscat (o : OpR) : Guarded.Statement (.pscat o) := congrArg some (fGuard_encR _ _ o)
theorem Guarded.aadd (o : OpR) : Guarded.Statement (.aadd o) := congrArg some (fGuard_encR _ _ o)
theorem Guarded.asub (o : OpR) : Guarded.Statement (.asub o) := congrArg some (fGuard_encR _ _ o)
theorem Guarded.acmp (o : OpR) : Guarded.Statement (.acmp o) := congrArg some (fGuard_encR _ _ o)
theorem Guarded.shl64 (o : OpR) : Guarded.Statement (.shl64 o) := congrArg some (fGuard_encR _ _ o)
theorem Guarded.shr64 (o : OpR) : Guarded.Statement (.shr64 o) := congrArg some (fGuard_encR _ _ o)
theorem Guarded.iadd64 (o : OpR) : Guarded.Statement (.iadd64 o) := congrArg some (fGuard_encR _ _ o)
theorem Guarded.imul64 (o : OpR) : Guarded.Statement (.imul64 o) := congrArg some (fGuard_encR _ _ o)
theorem Guarded.amov (o : OpR) : Guarded.Statement (.amov o) := congrArg some (fGuard_encR _ _ o)
theorem Guarded.fadd (o : OpR) : Guarded.Statement (.fadd o) := congrArg some (fGuard_encR _ _ o)
theorem Guarded.fsub (o : OpR) : Guarded.Statement (.fsub o) := congrArg some (fGuard_encR _ _ o)
theorem Guarded.fmul (o : OpR) : Guarded.Statement (.fmul o) := congrArg some (fGuard_encR _ _ o)
theorem Guarded.ffma (o : OpR) : Guarded.Statement (.ffma o) := congrArg some (fGuard_encR _ _ o)
theorem Guarded.fmin (o : OpR) : Guarded.Statement (.fmin o) := congrArg some (fGuard_encR _ _ o)
theorem Guarded.fmax (o : OpR) : Guarded.Statement (.fmax o) := congrArg some (fGuard_encR _ _ o)
theorem Guarded.fsetp (o : OpR) : Guarded.Statement (.fsetp o) := congrArg some (fGuard_encR _ _ o)
theorem Guarded.fset (o : OpR) : Guarded.Statement (.fset o) := congrArg some (fGuard_encR _ _ o)
theorem Guarded.fdiv (o : OpR) : Guarded.Statement (.fdiv o) := congrArg some (fGuard_encR _ _ o)
theorem Guarded.fsqrt (o : OpR) : Guarded.Statement (.fsqrt o) := congrArg some (fGuard_encR _ _ o)
theorem Guarded.frnd (o : OpR) : Guarded.Statement (.frnd o) := congrArg some (fGuard_encR _ _ o)
theorem Guarded.hadd2 (o : OpR) : Guarded.Statement (.hadd2 o) := congrArg some (fGuard_encR _ _ o)
theorem Guarded.hmul2 (o : OpR) : Guarded.Statement (.hmul2 o) := congrArg some (fGuard_encR _ _ o)
theorem Guarded.hfma2 (o : OpR) : Guarded.Statement (.hfma2 o) := congrArg some (fGuard_encR _ _ o)
theorem Guarded.hmin2 (o : OpR) : Guarded.Statement (.hmin2 o) := congrArg some (fGuard_encR _ _ o)
theorem Guarded.hmax2 (o : OpR) : Guarded.Statement (.hmax2 o) := congrArg some (fGuard_encR _ _ o)
theorem Guarded.hsetp2 (o : OpR) : Guarded.Statement (.hsetp2 o) := congrArg some (fGuard_encR _ _ o)
theorem Guarded.hdot2 (o : OpR) : Guarded.Statement (.hdot2 o) := congrArg some (fGuard_encR _ _ o)
theorem Guarded.frcp (o : OpR) : Guarded.Statement (.frcp o) := congrArg some (fGuard_encR _ _ o)
theorem Guarded.frsq (o : OpR) : Guarded.Statement (.frsq o) := congrArg some (fGuard_encR _ _ o)
theorem Guarded.fexp2 (o : OpR) : Guarded.Statement (.fexp2 o) := congrArg some (fGuard_encR _ _ o)
theorem Guarded.flog2 (o : OpR) : Guarded.Statement (.flog2 o) := congrArg some (fGuard_encR _ _ o)
theorem Guarded.fsin (o : OpR) : Guarded.Statement (.fsin o) := congrArg some (fGuard_encR _ _ o)
theorem Guarded.fcos (o : OpR) : Guarded.Statement (.fcos o) := congrArg some (fGuard_encR _ _ o)
theorem Guarded.ftanh (o : OpR) : Guarded.Statement (.ftanh o) := congrArg some (fGuard_encR _ _ o)
theorem Guarded.f2i (o : OpR) : Guarded.Statement (.f2i o) := congrArg some (fGuard_encR _ _ o)
theorem Guarded.f2u (o : OpR) : Guarded.Statement (.f2u o) := congrArg some (fGuard_encR _ _ o)
theorem Guarded.i2f (o : OpR) : Guarded.Statement (.i2f o) := congrArg some (fGuard_encR _ _ o)
theorem Guarded.u2f (o : OpR) : Guarded.Statement (.u2f o) := congrArg some (fGuard_encR _ _ o)
theorem Guarded.f2h (o : OpR) : Guarded.Statement (.f2h o) := congrArg some (fGuard_encR _ _ o)
theorem Guarded.h2f (o : OpR) : Guarded.Statement (.h2f o) := congrArg some (fGuard_encR _ _ o)
theorem Guarded.cvtq (o : OpR) : Guarded.Statement (.cvtq o) := congrArg some (fGuard_encR _ _ o)
theorem Guarded.cvtd (o : OpR) : Guarded.Statement (.cvtd o) := congrArg some (fGuard_encR _ _ o)
theorem Guarded.xscale (o : OpR) : Guarded.Statement (.xscale o) := congrArg some (fGuard_encR _ _ o)
theorem Guarded.mov (o : OpR) : Guarded.Statement (.mov o) := congrArg some (fGuard_encR _ _ o)
theorem Guarded.sread (o : OpR) : Guarded.Statement (.sread o) := congrArg some (fGuard_encR _ _ o)
theorem Guarded.kput (o : OpR) : Guarded.Statement (.kput o) := congrArg some (fGuard_encR _ _ o)
theorem Guarded.kget (o : OpR) : Guarded.Statement (.kget o) := congrArg some (fGuard_encR _ _ o)
theorem Guarded.tumb (o : OpR) : Guarded.Statement (.tumb o) := congrArg some (fGuard_encR _ _ o)
theorem Guarded.xshf (o : OpR) : Guarded.Statement (.xshf o) := congrArg some (fGuard_encR _ _ o)
theorem Guarded.xred (o : OpR) : Guarded.Statement (.xred o) := congrArg some (fGuard_encR _ _ o)
theorem Guarded.xscn (o : OpR) : Guarded.Statement (.xscn o) := congrArg some (fGuard_encR _ _ o)
theorem Guarded.xbal (o : OpR) : Guarded.Statement (.xbal o) := congrArg some (fGuard_encR _ _ o)
theorem Guarded.xvote (o : OpR) : Guarded.Statement (.xvote o) := congrArg some (fGuard_encR _ _ o)
theorem Guarded.bari (o : OpR) : Guarded.Statement (.bari o) := congrArg some (fGuard_encR _ _ o)
theorem Guarded.bara (o : OpR) : Guarded.Statement (.bara o) := congrArg some (fGuard_encR _ _ o)
theorem Guarded.barw (o : OpR) : Guarded.Statement (.barw o) := congrArg some (fGuard_encR _ _ o)
theorem Guarded.bars (o : OpR) : Guarded.Statement (.bars o) := congrArg some (fGuard_encR _ _ o)
theorem Guarded.semi (o : OpR) : Guarded.Statement (.semi o) := congrArg some (fGuard_encR _ _ o)
theorem Guarded.sems (o : OpR) : Guarded.Statement (.sems o) := congrArg some (fGuard_encR _ _ o)
theorem Guarded.semw (o : OpR) : Guarded.Statement (.semw o) := congrArg some (fGuard_encR _ _ o)
theorem Guarded.semr (o : OpR) : Guarded.Statement (.semr o) := congrArg some (fGuard_encR _ _ o)
theorem Guarded.ld (o : OpM) : Guarded.Statement (.ld o) := congrArg some (fGuard_encM _ o)
theorem Guarded.st (o : OpM) : Guarded.Statement (.st o) := congrArg some (fGuard_encM _ o)
theorem Guarded.ldsc (o : OpM) : Guarded.Statement (.ldsc o) := congrArg some (fGuard_encM _ o)
theorem Guarded.stsc (o : OpM) : Guarded.Statement (.stsc o) := congrArg some (fGuard_encM _ o)
theorem Guarded.atom (o : OpA) : Guarded.Statement (.atom o) := congrArg some (fGuard_encA _ o)
theorem Guarded.red_ (o : OpA) : Guarded.Statement (.red_ o) := congrArg some (fGuard_encA _ o)
theorem Guarded.fence (o : OpS) : Guarded.Statement (.fence o) := congrArg some (fGuard_encS _ _ o)
theorem Guarded.fprom (o : OpS) : Guarded.Statement (.fprom o) := congrArg some (fGuard_encS _ _ o)
theorem Guarded.cinv (o : OpS) : Guarded.Statement (.cinv o) := congrArg some (fGuard_encS _ _ o)
theorem Guarded.cwb (o : OpS) : Guarded.Statement (.cwb o) := congrArg some (fGuard_encS _ _ o)
theorem Guarded.bkvaddf (o : OpS) : Guarded.Statement (.bkvaddf o) := congrArg some (fGuard_encS _ _ o)
theorem Guarded.bkvaddi (o : OpS) : Guarded.Statement (.bkvaddi o) := congrArg some (fGuard_encS _ _ o)
theorem Guarded.bkvmaxf (o : OpS) : Guarded.Statement (.bkvmaxf o) := congrArg some (fGuard_encS _ _ o)
theorem Guarded.bkvmaxa (o : OpS) : Guarded.Statement (.bkvmaxa o) := congrArg some (fGuard_encS _ _ o)
theorem Guarded.bkvaddh (o : OpS) : Guarded.Statement (.bkvaddh o) := congrArg some (fGuard_encS _ _ o)
theorem Guarded.bkred (o : OpS) : Guarded.Statement (.bkred o) := congrArg some (fGuard_encS _ _ o)
theorem Guarded.sharm (o : OpR) : Guarded.Statement (.sharm o) := congrArg some (fGuard_encR _ _ o)
theorem Guarded.shpub (o : OpR) : Guarded.Statement (.shpub o) := congrArg some (fGuard_encR _ _ o)
theorem Guarded.shdrop (o : OpR) : Guarded.Statement (.shdrop o) := congrArg some (fGuard_encR _ _ o)
theorem Guarded.shstat (o : OpR) : Guarded.Statement (.shstat o) := congrArg some (fGuard_encR _ _ o)
theorem Guarded.enq (o : OpE) : Guarded.Statement (.enq o) := congrArg some (fGuard_encE _ _ o)
theorem Guarded.tplw (o : OpE) : Guarded.Statement (.tplw o) := congrArg some (fGuard_encE _ _ o)
theorem Guarded.qstat (o : OpE) : Guarded.Statement (.qstat o) := congrArg some (fGuard_encE _ _ o)
theorem Guarded.qwait (o : OpE) : Guarded.Statement (.qwait o) := congrArg some (fGuard_encE _ _ o)
theorem Guarded.qpop (o : OpE) : Guarded.Statement (.qpop o) := congrArg some (fGuard_encE _ _ o)
theorem Guarded.qpush (o : OpE) : Guarded.Statement (.qpush o) := congrArg some (fGuard_encE _ _ o)
theorem Guarded.tcfg (o : OpR) : Guarded.Statement (.tcfg o) := congrArg some (fGuard_encR _ _ o)
theorem Guarded.tcfgr (o : OpR) : Guarded.Statement (.tcfgr o) := congrArg some (fGuard_encR _ _ o)
theorem Guarded.tzero (o : OpR) : Guarded.Statement (.tzero o) := congrArg some (fGuard_encR _ _ o)
theorem Guarded.tget (o : OpR) : Guarded.Statement (.tget o) := congrArg some (fGuard_encR _ _ o)
theorem Guarded.tset (o : OpR) : Guarded.Statement (.tset o) := congrArg some (fGuard_encR _ _ o)
theorem Guarded.tmma (o : OpT) : Guarded.Statement (.tmma o) := congrArg some (fGuard_encT _ _ o)
theorem Guarded.tcvt (o : OpT) : Guarded.Statement (.tcvt o) := congrArg some (fGuard_encT _ _ o)
theorem Guarded.tadd (o : OpT) : Guarded.Statement (.tadd o) := congrArg some (fGuard_encT _ _ o)
theorem Guarded.tld (o : OpR) : Guarded.Statement (.tld o) := congrArg some (fGuard_encR _ _ o)
theorem Guarded.tst (o : OpR) : Guarded.Statement (.tst o) := congrArg some (fGuard_encR _ _ o)
theorem Guarded.tdrain (o : OpR) : Guarded.Statement (.tdrain o) := congrArg some (fGuard_encR _ _ o)
theorem Guarded.tfill (o : OpR) : Guarded.Statement (.tfill o) := congrArg some (fGuard_encR _ _ o)
theorem Guarded.sample (o : OpR) : Guarded.Statement (.sample o) := congrArg some (fGuard_encR _ _ o)
theorem Guarded.imld (o : OpR) : Guarded.Statement (.imld o) := congrArg some (fGuard_encR _ _ o)
theorem Guarded.imst (o : OpR) : Guarded.Statement (.imst o) := congrArg some (fGuard_encR _ _ o)
theorem Guarded.trace (o : OpR) : Guarded.Statement (.trace o) := congrArg some (fGuard_encR _ _ o)
theorem Guarded.tlist (o : OpR) : Guarded.Statement (.tlist o) := congrArg some (fGuard_encR _ _ o)
theorem Guarded.launch (o : OpR) : Guarded.Statement (.launch o) := congrArg some (fGuard_encR _ _ o)
theorem Guarded.cancel (o : OpR) : Guarded.Statement (.cancel o) := congrArg some (fGuard_encR _ _ o)
theorem Guarded.cntrRd (o : OpR) : Guarded.Statement (.cntrRd o) := congrArg some (fGuard_encR _ _ o)
theorem Guarded.cntrAdd (o : OpR) : Guarded.Statement (.cntrAdd o) := congrArg some (fGuard_encR _ _ o)
theorem Guarded.phaseRd (o : OpR) : Guarded.Statement (.phaseRd o) := congrArg some (fGuard_encR _ _ o)
theorem Guarded.phaseNext (o : OpR) : Guarded.Statement (.phaseNext o) := congrArg some (fGuard_encR _ _ o)
theorem Guarded.idemOff (o : OpR) : Guarded.Statement (.idemOff o) := congrArg some (fGuard_encR _ _ o)
theorem Guarded.idemOn (o : OpR) : Guarded.Statement (.idemOn o) := congrArg some (fGuard_encR _ _ o)
theorem Guarded.csrr (o : OpR) : Guarded.Statement (.csrr o) := congrArg some (fGuard_encR _ _ o)
theorem Guarded.csrw (o : OpR) : Guarded.Statement (.csrw o) := congrArg some (fGuard_encR _ _ o)
theorem Guarded.eret (o : OpR) : Guarded.Statement (.eret o) := congrArg some (fGuard_encR _ _ o)
theorem Guarded.eretExit (o : OpR) : Guarded.Statement (.eretExit o) := congrArg some (fGuard_encR _ _ o)
theorem Guarded.halt (o : OpR) : Guarded.Statement (.halt o) := congrArg some (fGuard_encR _ _ o)
theorem Guarded.haltRel (o : OpR) : Guarded.Statement (.haltRel o) := congrArg some (fGuard_encR _ _ o)
theorem Guarded.beat (o : OpR) : Guarded.Statement (.beat o) := congrArg some (fGuard_encR _ _ o)
theorem Guarded.hinge (o : OpR) : Guarded.Statement (.hinge o) := congrArg some (fGuard_encR _ _ o)
theorem Guarded.captGroup (o : OpR) : Guarded.Statement (.captGroup o) := congrArg some (fGuard_encR _ _ o)
theorem Guarded.captCore (o : OpR) : Guarded.Statement (.captCore o) := congrArg some (fGuard_encR _ _ o)
theorem Guarded.captResume (o : OpR) : Guarded.Statement (.captResume o) := congrArg some (fGuard_encR _ _ o)
theorem Guarded.tinvInv (o : OpR) : Guarded.Statement (.tinvInv o) := congrArg some (fGuard_encR _ _ o)
theorem Guarded.tinvRetry (o : OpR) : Guarded.Statement (.tinvRetry o) := congrArg some (fGuard_encR _ _ o)
theorem Guarded.tinvFail (o : OpR) : Guarded.Statement (.tinvFail o) := congrArg some (fGuard_encR _ _ o)
theorem Guarded.coldReset : Guarded.Statement .coldReset := rfl
theorem Guarded.fwcmd : Guarded.Statement .fwcmd := rfl
theorem Guarded.imageFetched : Guarded.Statement .imageFetched := rfl
theorem Guarded.qcmd : Guarded.Statement .qcmd := rfl
theorem Guarded.quoteComplete : Guarded.Statement .quoteComplete := rfl
theorem Guarded.mbdb : Guarded.Statement .mbdb := rfl
theorem Guarded.doorbell : Guarded.Statement .doorbell := rfl
theorem Guarded.hostWindowRead : Guarded.Statement .hostWindowRead := rfl
theorem Guarded.hostWindowWrite : Guarded.Statement .hostWindowWrite := rfl
theorem Guarded.hostAtomic : Guarded.Statement .hostAtomic := rfl
theorem Guarded.peerRequest : Guarded.Statement .peerRequest := rfl
theorem Guarded.heartbeatExpiry : Guarded.Statement .heartbeatExpiry := rfl
theorem Guarded.thermalClampStep : Guarded.Statement .thermalClampStep := rfl
theorem Guarded.powerClamp : Guarded.Statement .powerClamp := rfl
theorem Guarded.sextantException : Guarded.Statement .sextantException := rfl
theorem Guarded.recordDispatch : Guarded.Statement .recordDispatch := rfl
theorem Guarded.serviceLaneTrap : Guarded.Statement .serviceLaneTrap := rfl
theorem Guarded.hostQueueEntryTaken : Guarded.Statement .hostQueueEntryTaken := rfl
theorem Guarded.phaseStart : Guarded.Statement .phaseStart := rfl
theorem Guarded.graphStart : Guarded.Statement .graphStart := rfl
theorem Guarded.nodeLaunchStart : Guarded.Statement .nodeLaunchStart := rfl
theorem Guarded.levelComplete : Guarded.Statement .levelComplete := rfl
theorem Guarded.groupPlacing : Guarded.Statement .groupPlacing := rfl
theorem Guarded.placementComplete : Guarded.Statement .placementComplete := rfl
theorem Guarded.groupRetire : Guarded.Statement .groupRetire := rfl
theorem Guarded.activeSetReplace : Guarded.Statement .activeSetReplace := rfl
theorem Guarded.issueCycle : Guarded.Statement .issueCycle := rfl
theorem Guarded.dropCommit : Guarded.Statement .dropCommit := rfl
theorem Guarded.droppedGroupFree : Guarded.Statement .droppedGroupFree := rfl
theorem Guarded.ctxQuiesced : Guarded.Statement .ctxQuiesced := rfl
theorem Guarded.ctxCaptureDone : Guarded.Statement .ctxCaptureDone := rfl
theorem Guarded.scrubComplete : Guarded.Statement .scrubComplete := rfl
theorem Guarded.engineWaitMet : Guarded.Statement .engineWaitMet := rfl
theorem Guarded.copyRowDone : Guarded.Statement .copyRowDone := rfl
theorem Guarded.matrixUnitDone : Guarded.Statement .matrixUnitDone := rfl
theorem Guarded.engineWorkDone : Guarded.Statement .engineWorkDone := rfl
theorem Guarded.followOnSubmit : Guarded.Statement .followOnSubmit := rfl
theorem Guarded.engineFault : Guarded.Statement .engineFault := rfl
theorem Guarded.stopPointReached : Guarded.Statement .stopPointReached := rfl
theorem Guarded.enqSpaceRetry : Guarded.Statement .enqSpaceRetry := rfl
theorem Guarded.matrixIssueRetry : Guarded.Statement .matrixIssueRetry := rfl
theorem Guarded.traceIssueRetry : Guarded.Statement .traceIssueRetry := rfl
theorem Guarded.rayTraversal : Guarded.Statement .rayTraversal := rfl
theorem Guarded.tilerBegin : Guarded.Statement .tilerBegin := rfl
theorem Guarded.tilerPrims : Guarded.Statement .tilerPrims := rfl
theorem Guarded.spillLaunchComplete : Guarded.Statement .spillLaunchComplete := rfl
theorem Guarded.tilerEnd : Guarded.Statement .tilerEnd := rfl
theorem Guarded.tilerRelease : Guarded.Statement .tilerRelease := rfl
theorem Guarded.storeDrain : Guarded.Statement .storeDrain := rfl
theorem Guarded.l2Fill : Guarded.Statement .l2Fill := rfl
theorem Guarded.blockUpdate : Guarded.Statement .blockUpdate := rfl
theorem Guarded.replicatedUpdate : Guarded.Statement .replicatedUpdate := rfl
theorem Guarded.fpromReceipt : Guarded.Statement .fpromReceipt := rfl
theorem Guarded.daoftRead : Guarded.Statement .daoftRead := rfl
theorem Guarded.daoftReadResponse : Guarded.Statement .daoftReadResponse := rfl
theorem Guarded.daoftWrite : Guarded.Statement .daoftWrite := rfl
theorem Guarded.daoftWriteAck : Guarded.Statement .daoftWriteAck := rfl
theorem Guarded.daoftAtomic : Guarded.Statement .daoftAtomic := rfl
theorem Guarded.daoftAtomicResponse : Guarded.Statement .daoftAtomicResponse := rfl
theorem Guarded.routeMarker : Guarded.Statement .routeMarker := rfl
theorem Guarded.daoftControl : Guarded.Statement .daoftControl := rfl
theorem Guarded.flitReceive : Guarded.Statement .flitReceive := rfl
theorem Guarded.flitReplay : Guarded.Statement .flitReplay := rfl
theorem Guarded.linkTrained : Guarded.Statement .linkTrained := rfl
theorem Guarded.linkDownResend : Guarded.Statement .linkDownResend := rfl
theorem Guarded.handoverDrained : Guarded.Statement .handoverDrained := rfl
theorem Guarded.handoverSwitched : Guarded.Statement .handoverSwitched := rfl
theorem Guarded.drainTimeout : Guarded.Statement .drainTimeout := rfl
theorem Guarded.shutterCommit : Guarded.Statement .shutterCommit := rfl
theorem Guarded.shutterDropCommit : Guarded.Statement .shutterDropCommit := rfl
theorem Guarded.yieldWake : Guarded.Statement .yieldWake := rfl
theorem Guarded.semwService : Guarded.Statement .semwService := rfl
theorem Guarded.sleepExpiry : Guarded.Statement .sleepExpiry := rfl
theorem Guarded.ckDone : Guarded.Statement .ckDone := rfl
theorem Guarded.ctxLoad : Guarded.Statement .ctxLoad := rfl
theorem Guarded.ctxStart : Guarded.Statement .ctxStart := rfl
theorem Guarded.ctxQuiesce : Guarded.Statement .ctxQuiesce := rfl
theorem Guarded.ctxResume : Guarded.Statement .ctxResume := rfl
theorem Guarded.ctxRelease : Guarded.Statement .ctxRelease := rfl
theorem Guarded.ctxFault : Guarded.Statement .ctxFault := rfl
theorem Guarded.apOpen : Guarded.Statement .apOpen := rfl
theorem Guarded.apRelease : Guarded.Statement .apRelease := rfl
theorem Guarded.ctxcntWrite : Guarded.Statement .ctxcntWrite := rfl
theorem Guarded.ctxapWrite : Guarded.Statement .ctxapWrite := rfl
theorem Guarded.ctxhqpWrite : Guarded.Statement .ctxhqpWrite := rfl
theorem Guarded.tvecWrite : Guarded.Statement .tvecWrite := rfl
theorem Guarded.hwinbWrite : Guarded.Statement .hwinbWrite := rfl
theorem Guarded.queueResume : Guarded.Statement .queueResume := rfl
theorem Guarded.queueSkip : Guarded.Statement .queueSkip := rfl
theorem Guarded.queueFlush : Guarded.Statement .queueFlush := rfl
theorem Guarded.queueStop : Guarded.Statement .queueStop := rfl
theorem Guarded.groupDrop : Guarded.Statement .groupDrop := rfl
theorem Guarded.groupKill : Guarded.Statement .groupKill := rfl
theorem Guarded.semFree : Guarded.Statement .semFree := rfl
theorem Guarded.faultPop : Guarded.Statement .faultPop := rfl
theorem Guarded.faultClearOvf : Guarded.Statement .faultClearOvf := rfl
theorem Guarded.tileFree : Guarded.Statement .tileFree := rfl
theorem Guarded.stackReopen : Guarded.Statement .stackReopen := rfl
theorem Guarded.linkRetrain : Guarded.Statement .linkRetrain := rfl
theorem Guarded.linkOff : Guarded.Statement .linkOff := rfl
theorem Guarded.linkOn : Guarded.Statement .linkOn := rfl
theorem Guarded.frameFree : Guarded.Statement .frameFree := rfl
theorem Guarded.sbMerge : Guarded.Statement .sbMerge := rfl
theorem Guarded.sbDiscard : Guarded.Statement .sbDiscard := rfl
theorem Guarded.ckSave : Guarded.Statement .ckSave := rfl
theorem Guarded.ckLoad : Guarded.Statement .ckLoad := rfl
theorem Guarded.ckAbort : Guarded.Statement .ckAbort := rfl
theorem Guarded.eccClear : Guarded.Statement .eccClear := rfl
theorem Guarded.tokenArrival : Guarded.Statement .tokenArrival := rfl
theorem Guarded.hostCompletion : Guarded.Statement .hostCompletion := rfl
theorem Guarded.completionTimeout : Guarded.Statement .completionTimeout := rfl
theorem Guarded.hostLinkLost : Guarded.Statement .hostLinkLost := rfl
theorem Guarded.sramSoftError : Guarded.Statement .sramSoftError := rfl

end Sys2Proof.Laws
end

