-- ==== Sys2Proof/Tests/Slice0.lean ====
section
/-!
SUPPORT. Tests: the words of the chapters decode to the lines beside them, the checks of well-formedness refuse, single steps do
what the chapters' rows say, and for every obligation with hypotheses a state that meets them.
-/

open Sys2Proof Sys2Proof.Machine

namespace Sys2Proof.Tests

set_option Elab.async false

/-! ## A small device: one group of two threads, a steward, a second lane and a sextant core, with pages 1 and 2 of contexts 0 and 1 and
one page of bank memory translated -/

/-- The guard that always holds. -/
def alw : GuardF := ⟨false, 7⟩

/-- A translation of a page of die 0, open to all. -/
def xl (tag page frame : Nat) : Xlat := { tag := tag, page := page, frame := frame, attr := { w := true, x := true, u := true }, level := 0 }

/-- A thread at 0x10000: numbers in x4 to x7, the address 0x20000 in x8, 0x10010 in x10, a bank address in x14 and 2^56 in x20. -/
def thr : Thread :=
  { pc := 0x10000, st := .fused
    x := [(4, 5), (5, 3), (6, 0xFFFFFFFF), (7, 0x80000000), (8, 0x20000), (10, 0x10010), (12, 1), (15, 0x400000), (16, 0x3F800000),
      (18, 64), (21, 0x1000000), (22, 128), (24, 0x20002)] }

/-- The group, with one slice in slot 0 of core 0. -/
def grp : Group :=
  { ctx := 1, launch := 1, gx := 2, regs := 64, scratchSize := 4096, slices := [(0, 0)], state := .running, threads := [thr, thr],
    k := [[(3, 9)]] }

def core0 : Core :=
  { running := true, slots := [(0, { gid := 1, rank := 0, active := some 0 })], lanes := [(0, { busy := true, th := thr }),
    (1, { busy := true, th := thr })]
    sems := [(2, { value := 2, ceil := 8, owner := some 1 })], tiles := [(3, { owner := some 1 })] }

def die0 : Die :=
  { tlb := [xl 0 1 0x1010000, xl 0 2 0x1020000, xl 1 1 0x1010000, xl 1 2 0x1020000, xl 1 (2 ^ 38) (2 ^ 46), xl 0 (2 ^ 38) (2 ^ 46)]
    sx := { th := thr, running := true } }

/-- The device, its dies and cores up. -/
def st : State :=
  { dev := { state := .running }, dies := [(0, die0)], cores := [(0, core0)], groups := [(1, grp)]
    ctxs := [(0, { state := .ready }), (1, { state := .active, cnt := 2 ^ 46 + 2 ^ 20 })] }

/-- The device as an agent issues. -/
def iss (a : Agent) : State := { st with cur := some a }

/-- A group thread, the steward, another lane and the sextant core. -/
def gA : Agent := .thread 1 0
def lA : Agent := .lane 0 1
def sA : Agent := .sextant 0

/-- The hypotheses of `Clear` as a computation. -/
def clearB (s : State) (a : Agent) (t : Thread) (g : GuardF) (pol : Policy) (needs : List Need) : Bool :=
  s.cur == some a && getThread s a == some t && pol.place.allows (envOf s a) && !pol.ill (envOf s a) && pol.right.allows (envOf s a) &&
    (needs.all fun n => n.ok (envOf s a)) && !pol.lim (envOf s a) && guardHolds g t && !needsAwait needs t && !needsBad needs t

theorem clear_of {s : State} {a : Agent} {t : Thread} {g : GuardF} {pol : Policy} {needs : List Need}
    (h : clearB s a t g pol needs = true) : Clear s a t g pol needs := by
  simp only [clearB, Bool.and_eq_true, beq_iff_eq, Bool.not_eq_true'] at h
  obtain ⟨⟨⟨⟨⟨⟨⟨⟨⟨h1, h2⟩, h3⟩, h4⟩, h5⟩, h6⟩, h7⟩, h8⟩, h9⟩, h10⟩ := h
  exact ⟨⟨⟨h1, h2⟩, h3, h4, h5, h6, h7⟩, h8, h9, h10⟩

theorem exec_of {s : State} {a : Agent} {t : Thread} (h : (s.cur == some a && getThread s a == some t) = true) : Executes s a t := by
  simp only [Bool.and_eq_true, beq_iff_eq] at h
  exact ⟨h.1, h.2⟩

/-- A computation that succeeds with a value that passes a test. -/
def onOk {ε α : Type} (x : Except ε α) (f : α → Bool) : Bool := match x with | .ok v => f v | .error _ => false

theorem ok_of {ε α : Type} {x : Except ε α} {f : α → Bool} (h : onOk x f = true) : ∃ v, x = .ok v ∧ f v = true := by
  cases x with
  | ok v => exact ⟨v, rfl, h⟩
  | error _ => exact absurd h (by simp [onOk])

/-- A value that is there and passes a test. -/
def onSome {α : Type} (x : Option α) (f : α → Bool) : Bool := match x with | some v => f v | none => false

/-- The instruction of a word that decodes. -/
def decodesTo (w : DWord) (i : Instr) : Bool := onOk (decode w) (· == i)

/-- The state after a word or step, where it goes on and passes a test. -/
def after (i : Instr) (s : State) (f : State → Bool) : Bool := match exec i s with | .next t => f t | _ => false

/-- Operands, with the guard that always holds. -/
def oR (d a b c : RegNo) (mod : BitVec 8 := 0) : OpR := { g := alw, d := d, a := a, b := b, c := c, mod := mod }
def oI (d a : RegNo) (imm : Word) : OpI := { g := alw, d := d, a := a, imm := imm }
def oJ (d : RegNo) (rel : BitVec 36) : OpJ := { g := alw, d := d, rel := rel }
def oS (d a b : RegNo) (scope : BitVec 4) (mod : BitVec 8 := 0) : OpS := { g := alw, d := d, a := a, b := b, scope := scope, mod := mod }
def oM (d b : RegNo) (off : BitVec 16) (scope : BitVec 4) (mod : BitVec 8) : OpM :=
  { g := alw, d := d, b := b, off := off, scope := scope, mod := mod }
def oE (d a b : RegNo) (q : BitVec 8) (mod : BitVec 8 := 0) : OpE := { g := alw, d := d, a := a, b := b, q := q, mod := mod }
def oA (d a b c : RegNo) (scope : BitVec 4) (op : AtomOp) (mod : BitVec 8 := 0) : OpA :=
  { g := alw, d := d, a := a, b := b, c := c, scope := scope, op := op, mod := mod }

/-- Thread 0 of the group with another thread in its place, issuing. -/
def gT (t : Thread) : State := { iss gA with groups := [(1, { grp with threads := [t, thr] })] }

/-- The small device with its group changed, thread 0 issuing. -/
def gG (f : Group → Group) : State := { iss gA with groups := [(1, f grp)] }

/-- Core 0 changed, in a state. -/
def withCore (s : State) (f : Core → Core) : State := modCore s 0 f

/-! ## Words of the chapters -/

/-- 02_encoding and 05_kernel, the tables of sample encodings. -/
theorem test_decode_branch_and_work : ([(0x0170000000000000, .nop (oR 0 0 0 0)), (0x0470000000000300, .exit_ (oR 0 0 0 0)),
    (0x0270000000000002, .bra (oJ 0 2)), (0x0371E00FFFFFFFFC, .call (oJ 30 (-4))), (0x0470014000000000, .brx (oR 0 20 0 0)),
    (0x0470514030600408, .yield (oR 5 20 3 6 8)), (0x3E7040A000000000, .launch (oR 4 10 0 0)), (0x3E70300000000101, .cancel (oR 3 0 0 0 1)),
    (0x3E70602090000201, .cntrAdd (oR 6 2 9 0 1)), (0x3E70006000000301, .phaseNext (oR 0 6 0 0 1)),
    (0x3E70000000000400, .idemOff (oR 0 0 0 0)), (0x3E70000000000401, .idemOn (oR 0 0 0 0 1))] :
    List (DWord × Instr)).all (fun x => decodesTo x.1 x.2) = true := by decide +kernel

/-- 02_encoding, 08_thread and 20_prog_binning. -/
theorem test_decode_integer : ([(0x0870700123456780, .movi (oI 7 0 0x12345678)), (0x0870800008000101, .movih (oI 8 0 0x00800010)),
    (0x0870808FFFFFFC0A, .aaddi (oI 8 8 (-64))), (0x0871010000000059, .sari (oI 16 16 5)), (0x10704050C0000040, .iadd (oR 4 5 12 0 0x40)),
    (0x1010405060000D00, .idiv { oR 4 5 6 0 with g := ⟨false, 1⟩ }), (0x10708090A0B00500, .imad (oR 8 9 10 11)),
    (0x1170304050600496, .blut (oR 3 4 5 6 0x96)), (0x1270204050100012, .icmp (oR 2 4 5 1 0x12)),
    (0x137080C0E0000300, .shl64 (oR 8 12 14 0)), (0x2070900030000100, .sread (oR 9 0 3 0)), (0x2070C07000000200, .kput (oR 12 7 0 0))] :
    List (DWord × Instr)).all (fun x => decodesTo x.1 x.2) = true := by decide +kernel

/-- 09_thread_float. -/
theorem test_decode_float : ([(0x1870405060700309, .ffma (oR 4 5 6 7 9)), (0x18C090A0B0000024, .fadd { oR 9 10 11 0 0x24 with g := ⟨true, 4⟩ }),
    (0x1870208090A00610, .fsetp (oR 2 8 9 10 0x10)), (0x1970A0B0C0D00201, .hfma2 (oR 10 11 12 13 1)),
    (0x1A70314000000480, .fsin (oR 3 20 0 0 0x80)), (0x1B70203000000003, .f2i (oR 2 3 0 0 3)), (0x1B70607080700600, .cvtq (oR 6 7 8 7)),
    (0x1B70504000300800, .xscale (oR 5 4 0 3))] :
    List (DWord × Instr)).all (fun x => decodesTo x.1 x.2) = true := by decide +kernel

/-- 10_barrier. -/
theorem test_decode_synchronisation : ([(0x2170000000300002, .tumb (oR 0 0 0 3 2)), (0x2170704080300103, .xshf (oR 7 4 8 3 3)),
    (0x2170504000300200, .xred (oR 5 4 0 3)), (0x2170604000300310, .xscn (oR 6 4 0 3 0x10)), (0x2170201000300500, .xvote (oR 2 1 0 3)),
    (0x2270500030000101, .bara (oR 5 0 3 0 1)), (0x2270000020000301, .bars (oR 0 0 2 0 1)), (0x2270900030A00400, .semi (oR 9 0 3 10)),
    (0x2270004030000542, .sems (oR 0 4 3 0 0x42)), (0x2270004030000624, .semw (oR 0 4 3 0 0x24))] :
    List (DWord × Instr)).all (fun x => decodesTo x.1 x.2) = true := by decide +kernel

/-- 02_encoding and 13_access. -/
theorem test_decode_memory : ([(0x30A0A0014FFF8323, .ld { oM 10 20 0xFFF8 3 0x23 with g := ⟨true, 2⟩ }),
    (0x3070500080006006, .ld (oM 5 8 6 0 6)), (0x3070C0004001008C, .ld (oM 12 4 16 0 0x8C)), (0x3170700140080442, .st (oM 7 20 128 4 0x42)),
    (0x3370600030008003, .stsc (oM 6 3 8 0 3)), (0x347040A060040002, .atom (oA 4 10 6 0 4 .add 2)),
    (0x347040A060840963, .atom (oA 4 10 6 8 4 .cas 0x63)), (0x357000A060030402, .red_ (oA 0 10 6 0 3 .umax 2)),
    (0x3670000000040040, .fence (oS 0 0 0 4 0x40)), (0x3670409000040100, .fprom (oS 4 9 0 4)), (0x367000A000000200, .cinv (oS 0 10 0 0)),
    (0x367000A0C0050300, .cwb (oS 0 10 12 5)), (0x377000A060000300, .bkvmaxa (oS 0 10 6 0)), (0x377000A060030441, .bkvaddh (oS 0 10 6 3 0x41)),
    (0x377050A000000508, .bkred (oS 5 10 0 0 8)), (0x387040A0C0000000, .sharm (oR 4 10 12 0)), (0x3870305000000100, .shpub (oR 3 5 0 0)),
    (0x3870605000000301, .shstat (oR 6 5 0 0 1))] :
    List (DWord × Instr)).all (fun x => decodesTo x.1 x.2) = true := by decide +kernel

/-- 06_queue, 14_tile and 17_frame. -/
theorem test_decode_engines : ([(0x3970600090000000, .enq (oE 6 0 9 0)), (0x3970600090100001, .enq (oE 6 0 9 1 1)),
    (0x3970014090000100, .tplw (oE 0 20 9 0)), (0x3970A00000200200, .qstat (oE 10 0 0 2)), (0x3970300080100300, .qwait (oE 3 0 8 1)),
    (0x3970500071000500, .qpush (oE 5 0 7 16)), (0x3970C00001000400, .qpop (oE 12 0 0 16)), (0x3A70403050000000, .tcfg (oR 4 3 5 0)),
    (0x3A70000000000200, .tzero (oR 0 0 0 0)), (0x3A70802060000301, .tget (oR 8 2 6 0 1)), (0x3A70207060000400, .tset (oR 2 7 6 0)),
    (0x3B78040010100022, .tmma { g := alw, td := 8, ta := 0, tb := 4, ts := 0, ea := 1, eb := 1, acc := 0, gran := 0, mod := 0x22 }),
    (0x3B7915C070704000, .tmma { g := alw, td := 9, ta := 1, tb := 5, ts := 12, ea := 7, eb := 7, acc := 0, gran := 1, mod := 0 }),
    (0x3B7620D010034100, .tcvt { g := alw, td := 6, ta := 2, tb := 0, ts := 13, ea := 1, eb := 0, acc := 3, gran := 1, mod := 0 }),
    (0x3B78890000000200, .tadd { g := alw, td := 8, ta := 8, tb := 9, ts := 0, ea := 0, eb := 0, acc := 0, gran := 0, mod := 0 }),
    (0x3C7000A0C0000000, .tld (oR 0 10 12 0)), (0x3C7140A050000200, .tdrain (oR 20 10 5 0)), (0x3C7140A050000300, .tfill (oR 20 10 5 0)),
    (0x3D70C14080000001, .sample (oR 12 20 8 0 1)), (0x3D70614080000100, .imld (oR 6 20 8 0)), (0x3D70514090A00324, .trace (oR 5 20 9 10 0x24)),
    (0x3D70803040500400, .tlist (oR 8 3 4 5))] :
    List (DWord × Instr)).all (fun x => decodesTo x.1 x.2) = true := by decide +kernel

/-- 04_context, 11_page, 15_stack and 18_faults. -/
theorem test_decode_supervisor : ([(0x3F70014000000200, .eret (oR 0 20 0 0)), (0x3F70000000000201, .eretExit (oR 0 0 0 0 1)),
    (0x3F706040A0000600, .captGroup (oR 6 4 10 0)), (0x3F706040A0000601, .captCore (oR 6 4 10 0 1)), (0x3F70604000000602, .captResume (oR 6 4 0 0 2)),
    (0x3F70A04050000100, .csrw (oR 10 4 5 0)), (0x3F70C04010000000, .csrr (oR 12 4 1 0)), (0x3F70304050000500, .hinge (oR 3 4 5 0)),
    (0x3F70304050000501, .hinge (oR 3 4 5 0 1)), (0x3F7020A0C0D00701, .tinvRetry (oR 2 10 12 13 1)),
    (0x3F7020A0C0000704, .tinvInv (oR 2 10 12 0 4)), (0x3F7030A0C0D00702, .tinvFail (oR 3 10 12 13 2))] :
    List (DWord × Instr)).all (fun x => decodesTo x.1 x.2) = true := by decide +kernel

/-! ## Words that do not decode: one for each check of well-formedness -/

/-- R21: PI 7 with PN 1; R24: a nonzero reserved field and MOD bit; R36, R33, R256: a reserved code; R40: no such FN. -/
theorem test_ill_formed_words :
    ([0x01F0000000000000, 0x0170100000000000, 0x0170000000000080, 0x3070500080006007, 0x127020405010001A, 0x0170000000000100,
      0x0000000000000000] : List DWord).all (fun w => !onOk (decode w) fun _ => true) = true := by decide +kernel

theorem test_ill_formed_terms : (Instr.nop { oR 0 0 0 0 with g := ⟨true, 7⟩ }).guardOk = false ∧ (Instr.nop (oR 1 0 0 0)).reservedOk = false ∧
    (Instr.ld (oM 5 8 6 0 7)).codesOk = false ∧ (Instr.shli (oI 4 5 32)).codesOk = false ∧ ¬ (Instr.shli (oI 4 5 32)).WellFormed ∧
    (Instr.shli (oI 4 5 31)).WellFormed := by
  unfold Instr.WellFormed; decide +kernel

/-! ## Witnesses: states and operands that meet the hypotheses of the obligations -/

theorem witness_DecodeOfEncode : (Instr.iadd (oR 4 5 12 0 0x40)).isWord = true ∧ (Instr.iadd (oR 4 5 12 0 0x40)).WellFormed ∧
    (Instr.tmma { g := alw, td := 15, ta := 0, tb := 4, ts := 15, ea := 10, eb := 10, acc := 10, gran := 3, mod := 0x3F }).WellFormed := by
  unfold Instr.WellFormed; decide +kernel

theorem witness_EncodeOfDecode : ∃ i, decode 0x30A0A0014FFF8323 = .ok i ∧ i.isWord = true := ok_of (by decide +kernel)

/-- A device with a word loaded for its next step. -/
def placed (w : DWord) : State := State.reset.withFetchWord 64 w.toNat

theorem witness_StepRunsDecodedWord : (placed 0x10704050C0000040).todo = [] ∧ (placed 0x10704050C0000040).bundle = [.thread 1 0] ∧
    onSome (getThread (placed 0x10704050C0000040) (.thread 1 0)) (fun t => t.st == .fused &&
      onOk (fetchWord { placed 0x10704050C0000040 with bundle := [] } (envOf (placed 0x10704050C0000040) (.thread 1 0)) t.pc)
        fun x => decodesTo x.1 (.iadd (oR 4 5 12 0 0x40))) = true := by decide +kernel

/-- The small device with a bundle of one thread at a PC. -/
def atPc (pc : DWord) : State := { gT { thr with pc := pc } with bundle := [gA] }

theorem witness_StepFaultsAndTurns :
    (onSome (getThread (atPc (2 ^ 56)) gA) fun t => t.st == .fused && !vaOk t.pc.toNat) = true ∧
    (onSome (getThread (atPc 0x10001) gA) fun t => t.st == .fused && vaOk t.pc.toNat && t.pc.toNat % 8 != 0) = true ∧
    (onSome (getThread (atPc (2 ^ 56 - 4)) gA) fun t => !vaOk t.pc.toNat) = true ∧
    (onOk (fetchWord { placed 0 with bundle := [] } (envOf (placed 0) gA) 0) fun x => !onOk (decode x.1) fun _ => true) = true ∧
    ({ State.reset with todo := [(.sbDiscard, {})] } : State).todo ≠ [] ∧
    ({ State.reset with agenda := [.ev .sbDiscard {}] } : State).bundle = [] ∧ Instr.sbDiscard.isWord = false ∧
    ({ State.reset with agenda := [.tick 1] } : State).todo = [] ∧
    (onSome (getThread { gT { thr with st := .exited } with bundle := [gA] } gA) fun t => t.st != .fused) = true := by decide +kernel

theorem witness_EveryInstructionGoesOn : (Instr.nop (oR 0 0 0 0)).isWord = true ∧ Executes (iss gA) gA thr ∧ Executes (iss lA) lA thr ∧
    Executes (iss sA) sA thr ∧ Instr.coldReset.isWord = false :=
  ⟨by decide, exec_of (by decide +kernel), exec_of (by decide +kernel), exec_of (by decide +kernel), by decide⟩

theorem witness_FalseGuardDoesNothing : (Instr.nop { oR 0 0 0 0 with g := ⟨false, 0⟩ }).guard? = some ⟨false, 0⟩ ∧
    Executes (iss gA) gA thr ∧ guardHolds ⟨false, 0⟩ thr = false ∧
    after (.nop { oR 0 0 0 0 with g := ⟨false, 0⟩ }) (iss gA) (fun _ => true) = true ∧
    fGuard 0x01F0000000000000 = ⟨true, 7⟩ ∧ Passes (iss gA) gA thr { place := .group } [.dx 64, .kx 159] ∧ steps (iss gA) (envOf (iss gA) gA) = false :=
  ⟨by decide, exec_of (by decide +kernel), by decide, by decide +kernel, by decide,
    (clear_of (g := alw) (by decide +kernel) : Clear (iss gA) gA thr alw { place := .group } [.dx 64, .kx 159]).toPasses, by decide +kernel⟩

/-- The limits of R27 to R31 at their edges: 64 registers declared, k160, an odd pair, a pair past the last register. -/
theorem witness_OperandLimits : Executes (iss gA) gA thr ∧ Executes (iss sA) sA thr ∧ (65 : RegNo).toNat > (envOf (iss gA) gA).nregs ∧
    (kA (oR 4 65 5 0) = false ∧ (65 : RegNo).toNat > (envOf (iss gA) gA).nregs) ∧ (kA (oR 4 160 5 0 0x80) = true ∧ (160 : RegNo).toNat > 159) ∧
    (kA (oR 4 0 5 0 0x80) = true ∧ (envOf (iss sA) sA).onSextant = true) ∧ (5 : RegNo).toNat % 2 = 1 ∧
    ((64 : RegNo) ≠ 0 ∧ (64 : RegNo).toNat + 1 > (envOf (iss gA) gA).nregs) ∧ (7 : RegNo).toNat > 6 ∧ (oR 4 5 0 3).c.toNat = 3 ∧
    (oR 4 5 0 9).c.toNat > 8 ∧ (oR 4 5 0 2).c.toNat < 3 ∧ 20 ≤ (oR 4 0 20 0).b.toNat ∧ 8 ≤ (oR 8 4 5 0).d.toNat :=
  ⟨exec_of (by decide +kernel), exec_of (by decide +kernel), by decide +kernel⟩

theorem witness_PlaceAndPrivilegeTraps : groupWord (.tumb (oR 0 0 0 12)) = true ∧ Executes (iss lA) lA thr ∧
    (envOf (iss lA) lA).inGroup = false ∧ computeWord (.yield (oR 5 10 0 0 2)) = true ∧ Executes (iss sA) sA thr ∧
    supervisorWord (.eret (oR 0 10 0 0)) = true ∧ supervisorWord (.csrr (oR 4 0 0x0C 6)) = true ∧ (envOf (iss gA) gA).sup = false ∧
    Executes (iss gA) gA thr ∧ (∀ d, gA ≠ .sextant d) ∧ (∀ c, gA ≠ .lane c 0) ∧ (∀ c, lA ≠ .lane c 0) ∧
    csrKind (csrNumber (oR 4 0 0x0F 0xFF)) = .none :=
  ⟨by decide, exec_of (by decide +kernel), by decide +kernel, by decide, exec_of (by decide +kernel), by decide, by decide +kernel,
    by decide +kernel, exec_of (by decide +kernel), by simp [gA], by simp [gA], by simp [lA], by decide +kernel⟩

theorem witness_RegisterRules : (5 : Nat) ≠ 0 ∧ readX (writeX thr 5 7) 5 = 7 ∧ readX (writeX thr 255 7) 255 = 7 := by decide +kernel

/-- The group with DBGST of its slot stepping thread 0. -/
def stepped : State := withCore (iss gA) fun k => { k with dbg := [(0, (0, true))] }

theorem witness_RetireEffect : getThread (iss gA) gA = some thr ∧ steps (iss gA) (envOf (iss gA) gA) = false ∧
    getThread stepped (.thread 1 0) = some thr ∧ steps stepped (envOf stepped (.thread 1 0)) = true := by decide +kernel

theorem witness_RegisterWordsFrame : registerOnly (.idiv (oR 4 5 0 0)) = true ∧ (iss gA).cur = some gA ∧
    after (.idiv (oR 4 5 0 0)) (iss gA) (fun _ => true) = true := by decide +kernel

theorem witness_TrapEntry : getThread (iss gA) (.thread 1 0) = some thr ∧ getThread (iss lA) (.lane 0 1) = some thr ∧
    (getDie (iss sA) 0).sx.inExc = false ∧
    (getDie { iss sA with dies := [(0, { die0 with sx := { die0.sx with inExc := true } })] } 0).sx.inExc = true := by decide +kernel

theorem witness_StepKeepsMemoryCanonical : MemOk { State.reset with agenda := [.tick 1] } ∧
    StepsOn { State.reset with agenda := [.tick 1] } :=
  ⟨by unfold MemOk; decide, _, rfl⟩

theorem witness_MemoryReadsWhatWasWritten : MemOk (memPut State.reset 0x10000 [1, 2]) ∧ MemOk State.reset ∧
    memByte (memPut State.reset 0x10000 [0]) 5 = memByte State.reset 5 := by
  unfold MemOk; decide +kernel

/-- Core 0 with one store of its thread to the line at 0x20000, which the home L2 holds. -/
def sbE : SbEntry :=
  { id := 0, who := gA, ctx := 1, tag := 1, line := 1024, gen := 0, home := 0, frame := 0x1020000, attr := { w := true, u := true },
    mask := 0xF0, data := 0x1122334400000000 }
def buffered : State :=
  { iss gA with cores := [(0, { core0 with sb := [sbE] })]
                dies := [(0, { die0 with l2 := [{ tag := 1, line := 1024, frame := 0x1020000, attr := { w := true, u := true }, data := 5 }] })] }

theorem witness_LinesHoldTheirBytes : ({} : Attr).df = 0 ∧ paRegion 0x1020000 ≠ 3 ∧ 120 + [(1 : Byte), 2, 3, 4, 5, 6, 7, 8].length ≤ 128 ∧
    sbE ∈ (getCore buffered 0).sb ∧ entryReady buffered 0 sbE = true ∧ paRegion sbE.frame = 0 ∧ sbE.attr.df = 0 ∧
    vaPlc (sbE.line * 128) ≠ 33 ∧ sbE.bad = false ∧ genCurrent buffered (sbE.write 0) = true ∧
    (findLine (getDie buffered sbE.home).l2 sbE.tag sbE.line sbE.gen).isSome = true := by decide +kernel

/-- A group thread, a lane and the sextant core; the pairs of MOVIH and AADDI; x0 as destination. -/
theorem witness_ImmediateResults : Clear (iss gA) gA thr (oI 4 5 1).g {} [.dx 4] ∧ Clear (iss lA) lA thr alw {} [.dx 0, .sx 255] ∧
    Clear (iss sA) sA thr alw {} [.dx 255, .sx 0] ∧ Clear (iss gA) gA thr alw {} [.dp 4] ∧ Clear (iss gA) gA thr alw {} [.dp 62, .sp 8] := by
  (repeat' apply And.intro) <;> exact clear_of (by decide +kernel)

/-- x registers and, in a group, the edges of k. -/
theorem witness_IntegerResults : Clear (iss gA) gA thr (oR 64 5 159 7 0x40).g {} [.dx 64, needSel false 5, needSel true 159] ∧
    Clear (iss gA) gA thr alw {} [.dx 4, needSel true 0] ∧ Clear (iss sA) sA thr alw {} [.dx 4, needSel false 5, needSel false 6, .sx 7] := by
  (repeat' apply And.intro) <;> exact clear_of (by decide +kernel)

theorem witness_LogicResults : Clear (iss gA) gA thr alw {} [.dx 4, needSel false 5, needSel true 6] ∧
    Clear (iss gA) gA thr alw {} [.dx 4, .sx 5, .sx 6, .sx 7] ∧ Clear (iss lA) lA thr alw {} [.dx 4, needSel true 5] ∧
    (0x00002010 : Word).toNat / 256 % 256 ≠ 0 ∧ (0x10 : Word).toNat / 256 % 256 = 0 ∧ (1 : Word) ≠ 0 := by
  (repeat' apply And.intro) <;> first | exact clear_of (by decide +kernel) | decide

theorem witness_CompareResults : Clear (iss gA) gA thr alw {} [.pr 7, needSel false 5, needSel true 159, .pr 0] ∧
    Clear (iss gA) gA thr alw {} [.dx 4, needSel false 5, needSel false 6, .pr 7] ∧
    Clear (iss gA) gA thr alw {} [.pr 0, .pr 1, .pr 2, .pr 3] ∧ Clear (iss gA) gA thr alw {} [.dx 4] ∧
    Clear (iss lA) lA thr alw {} [needSel false 5, needSel true 6] := by
  (repeat' apply And.intro) <;> exact clear_of (by decide +kernel)

theorem witness_AddressResults : Clear (iss gA) gA thr alw {} [.dp 62, needSelPair false 8, needSel true 159] ∧
    Clear (iss gA) gA thr alw {} [.dp 4, needSelPair true 158, needSelPair false 10] ∧
    Clear (iss sA) sA thr alw {} [.pr 2, needSelPair false 8, needSelPair false 0] ∧ Clear (iss gA) gA thr alw {} [.dp 4, needSelPair false 8] := by
  (repeat' apply And.intro) <;> exact clear_of (by decide +kernel)

theorem witness_RoundingIsRight : Elem.fp32 ∈ [Elem.fp32, .bf16, .fp16] ∧ 0x3F800001 < 2 ^ elemBits .fp32 ∧ decodeElem 0x3F800001 .fp32 ≠ .nan ∧
    2 * roundShift false 5 1 .rne * 2 ^ 1 + 2 ^ 1 = 2 * 5 ∧ 2 * 7 + 2 ^ 1 = 2 * roundShift false 7 1 .rne * 2 ^ 1 := by decide +kernel

theorem witness_FloatResults : Clear (iss gA) gA thr alw {} [.dx 4, needSel true 3, .sx 16] ∧
    Clear (iss lA) lA thr alw {} [.dx 4, needSel false 5, .sx 6, .sx 7] ∧ Clear (iss gA) gA thr alw {} [.pr 6, needSel false 16, .sx 16] ∧
    Clear (iss sA) sA thr alw {} [.dx 4, needSel false 16] := by
  (repeat' apply And.intro) <;> exact clear_of (by decide +kernel)

theorem witness_FloatSpecialOperands : (1 : Nat) ≠ 0 ∧ Val.nan.isNan = true ∧ (Val.fin true 0 0).isNan = false ∧ (13 : Nat) < 14 := by
  decide

theorem witness_PackedResults : Clear (iss gA) gA thr alw {} [.dx 4, .sx 5, .sx 6] ∧ Clear (iss gA) gA thr alw {} [.dx 4, .sx 5, .sx 6, .sx 7] ∧
    Clear (iss gA) gA thr alw { lim := fun _ => (6 : RegNo).toNat % 2 != 0 || (6 : RegNo).toNat > 6 } [.sx 5, .sx 6] := by
  (repeat' apply And.intro) <;> exact clear_of (by decide +kernel)

theorem witness_ApproximatedResults : Clear (iss gA) gA thr alw {} [.dx 4, needSel true 20] ∧ (f32 0x7FC00000).isNan = true ∧
    (0x80000001 : Word).toNat ≤ 0xFF800000 ∧ 0x43000000 ≤ (0x43000000 : Word).toNat ∧ (0xC3160001 : Word).toNat ≤ 0xFF800000 ∧
    (0x397FFFFF : Word).toNat < 0x39800000 ∧ 0x41100000 ≤ (0x41100000 : Word).toNat ∧ 253 ≤ 253 ∧ 126 < 127 ∧ 254 ≤ 254 := by
  (repeat' apply And.intro) <;> first | exact clear_of (by decide +kernel) | decide +kernel

/-- The codes at the ends of their ranges. -/
theorem witness_ConversionResults : Clear (iss gA) gA thr alw {} [.dx 4, needSel false 16] ∧
    Clear (iss gA) gA thr alw { lim := typeLim (oR 4 5 6 1) 1 2 } [.dx 4, needSel false 5, .sx 6] ∧
    Clear (iss gA) gA thr alw { lim := typeLim (oR 4 5 0 2) 1 2 } [.dp 4, needSel false 5] ∧
    Clear (iss gA) gA thr alw { lim := typeLim (oR 4 5 6 3) 3 8 } [.dx 4, needSel false 5, .sx 6] ∧
    Clear (iss gA) gA thr alw { lim := typeLim (oR 4 5 0 8) 3 8 } [.dx 4, needSel true 5] ∧ (-128 : Int) ≤ 0 ∧ (0 : Int) ≤ 255 := by
  (repeat' apply And.intro) <;> first | exact clear_of (by decide +kernel) | decide

theorem witness_MoveResults : Clear (iss gA) gA thr alw {} [.dx 4, .sx 5] ∧
    Clear (iss sA) sA thr alw { lim := fun _ => (oR 4 0 19 0).b.toNat > 19 } [.dx 4] ∧
    Clear (iss gA) gA thr alw { place := .group } [.kx 159, .sx 5] ∧ Clear (iss gA) gA thr alw { place := .group } [.dx 4, .kx 0] ∧
    0 < grp.k.length ∧ (getGroup (iss gA) 1).isSome = true := by
  (repeat' apply And.intro) <;> first | exact clear_of (by decide +kernel) | decide +kernel

/-- Targets at the ends of the address space, past them, and not a multiple of 8. -/
theorem witness_BranchResults : Clear (iss gA) gA thr alw {} [] ∧ (thr.pc.toNat : Int) + 8 * (-0x2000 : BitVec 36).toInt = (0 : Nat) ∧
    Clear (iss gA) gA thr (oJ 30 2).g {} [.dp 30] ∧ Clear (iss gA) gA thr alw {} [.sp 10] ∧
    ((readPair thr 10).toNat < 2 ^ 56 ∧ (readPair thr 10).toNat % 8 = 0) ∧ Clear (iss gA) gA thr alw {} [.dp 10, .sp 10] ∧
    (thr.pc.toNat : Int) + 8 * (-0x2001 : BitVec 36).toInt < 0 ∧ Clear (gT { thr with pc := 2 ^ 56 - 8 }) gA { thr with pc := 2 ^ 56 - 8 } alw {} [] ∧
    ((2 ^ 56 - 8 : DWord).toNat : Int) + 8 * (1 : BitVec 36).toInt ≥ 2 ^ 56 ∧ Clear (iss gA) gA thr alw {} [.sp 20] ∧
    (readPair thr 20).toNat ≥ 2 ^ 56 ∧ Clear (iss gA) gA thr alw {} [.dp 30, .sp 4] ∧
    ((readPair thr 4).toNat < 2 ^ 56 ∧ (readPair thr 4).toNat % 8 ≠ 0) := by
  (repeat' apply And.intro) <;> first | exact clear_of (by decide +kernel) | decide +kernel

/-- A thread that sleeps until cycle 0. -/
def asleep : State := { gT { thr with st := .waiting (.sleep 0) } with arg := { who := gA } }

theorem witness_EndsAndWaits : Clear (iss gA) (.thread 1 0) thr alw {} [] ∧ hasPend (iss gA) gA = false ∧
    onSome (getGroup (iss gA) 1) (fun g => (tumblerOf g 0).isEmpty) = true ∧ getThread (iss gA) (.thread 1 1) = some thr ∧ thr.st ≠ .exited ∧
    Clear (iss lA) (.lane 0 1) thr alw {} [] ∧ hasPend (iss lA) lA = false ∧ Clear (iss (.lane 0 0)) (.lane 0 0) thr alw {} [] ∧
    Clear (iss sA) (.sextant 0) thr alw {} [] ∧ Clear (iss gA) gA thr alw {} [.sx 0] ∧ readX thr 0 = 0 ∧ Clear (iss gA) gA thr alw {} [.sx 7] ∧
    (2 ^ 20 < (readX thr 7).toNat ∧ readX thr 12 = 1) ∧ (onSome (getThread asleep gA) fun t => t.st == .waiting (.sleep 0)) = true ∧
    cyclesOf asleep (envOf asleep gA) ≥ 0 := by
  (repeat' apply And.intro) <;> first | exact clear_of (by decide +kernel) | decide +kernel

/-- A thread parked on its YIELD. -/
def parkedOn1 (p : Park) : State := { gT { thr with st := .parked p } with arg := { who := gA } }

theorem witness_YieldResults :
    Clear (iss gA) gA thr alw (yieldPolicy (oR 5 4 0 12 2)) [.dx 5, .sp 4, if yieldKind (oR 5 4 0 12 2) = 2 then .sp 12 else .sx 12] ∧
    targetFault (readPair thr 4) = some 4 ∧ yieldKind (oR 5 10 0 0 2) = 2 ∧ Clear (iss gA) gA thr alw (yieldPolicy (oR 5 10 0 0 2)) [.dx 5, .sp 10, .sp 0] ∧
    targetFault (readPair thr 10) = none ∧ yieldKind (oR 5 10 31 4 8) = 0 ∧
    Clear (iss gA) gA thr alw (yieldPolicy (oR 5 10 31 4 8)) [.dx 5, .sp 10, .sx 4] ∧ yieldKind (oR 5 10 3 4 1) = 1 ∧
    Clear (iss gA) gA thr alw (yieldPolicy (oR 5 10 3 4 1)) [.dx 5, .sp 10, .sx 4] ∧
    (onSome (getThread (parkedOn1 (.tick 0 5 0x10000)) gA) fun t => t.st == .parked (.tick 0 5 0x10000)) = true ∧
    ((envOf (parkedOn1 (.tick 0 5 0x10000)) gA).group (parkedOn1 (.tick 0 5 0x10000))).state = .running ∧
    (semSeen (getCore (parkedOn1 (.sem 2 2 2 5 0x10000)) 0) 2 1).value ≥ 2 ∧ queueTest {} 0 = some 0 ∧
    queueTest { ret := 5, acc := 7, st := .faulted } 7 = some 1 ∧ queueTest { ret := 5, acc := 7 } 8 = some 2 ∧
    queueTest { ret := 5, acc := 7, st := .running } 6 = none := by
  (repeat' apply And.intro) <;> first | exact clear_of (by decide +kernel) | decide +kernel

theorem witness_TumblerResults : getGroup (iss gA) 1 = some grp ∧ steps (iss gA) (envOf (iss gA) (.thread 1 0)) = false ∧ thr.st ≠ .exited ∧
    readX thr 12 = BitVec.ofNat 32 (2 ^ (0 % 32)) ∧ tumblerOf grp 0 = [] ∧ Clear (iss gA) (.thread 1 0) thr alw groupOnly [.sx 12] ∧
    Released (iss gA) (envOf (iss gA) gA) thr (syncScope 0) ∧ Released (iss gA) (envOf (iss gA) gA) thr (syncScope 5) ∧
    Clear (iss gA) (.thread 1 0) thr alw groupOnly [.dx 4, .sx 5, .sx 6, .sx 12] ∧
    Clear (iss gA) (.thread 1 0) thr alw groupOnly [.dx 4, .sx 5, .sx 12] ∧ Clear (iss gA) (.thread 1 0) thr alw groupOnly [.dx 4, .pr 1, .sx 12] ∧
    Clear (iss gA) (.thread 1 0) thr alw groupOnly [.pr 2, .pr 1, .sx 12] ∧ (readX thr 24).getLsbD 0 = false ∧
    ((readX thr 4).getLsbD 0 = true ∧ lanesLive grp 0 (readX thr 4) = false) ∧
    ((readX thr 5).getLsbD 0 = true ∧ lanesLive grp 0 (readX thr 5) = true ∧ (readX thr 5).getLsbD 1 = true) ∧
    (∀ m ∈ [({ lane := 0, tid := 0, d := 4, va := 1, vb := 2, vp := true } : Arrival), { lane := 1, tid := 1, d := 4, va := 1, vb := 2, vp := true }],
      m.tid < grp.threads.length ∧ steps (iss gA) (envOf (iss gA) (.thread 1 m.tid)) = false ∧ (getThread (iss gA) (.thread 1 m.tid)).isSome = true) := by
  (repeat' apply And.intro) <;> first | exact clear_of (by decide +kernel) | (unfold Released; decide +kernel) | decide +kernel

/-- The group with an arrival of thread 0 at barrier 3. -/
def arrived3 : State := gG fun g => { g with bars := [(3, { arr := 1, arrived := [0] })] }

theorem witness_BarrierResults : Clear (iss gA) gA thr (oR 0 5 15 0).g groupOnly [.bar 15, .sx 5] ∧
    (getBar ((envOf (iss gA) gA).group (iss gA)) 15).arr = 0 ∧ (readX thr 5).toNat ≤ 65535 ∧ (readX thr 0).toNat = 0 ∧
    Clear arrived3 gA thr alw groupOnly [.bar 3, .sx 5] ∧ (getBar ((envOf arrived3 gA).group arrived3) 3).arr ≠ 0 ∧
    Clear (iss gA) gA thr alw groupOnly [.dx 5, .bar 3] ∧ arriveBad ((envOf (iss gA) gA).group (iss gA)) 3 0 = false ∧
    Released (iss gA) (envOf (iss gA) gA) thr 1 ∧ Clear arrived3 gA thr alw groupOnly [.dx 5, .bar 3] ∧
    arriveBad ((envOf arrived3 gA).group arrived3) 3 (envOf arrived3 gA).tid = true ∧ Clear (iss gA) gA thr alw groupOnly [.bar 3, .sx 0] ∧
    (readX thr 0 - phaseOf (iss gA) (envOf (iss gA) gA) 3).toNat = 0 ∧
    ((readX thr 6 - phaseOf (iss gA) (envOf (iss gA) gA) 3).toNat ≥ 2 ^ 31 ∧ (readX thr 12 - phaseOf (iss gA) (envOf (iss gA) gA) 3).toNat < 2 ^ 31) ∧
    Clear (iss gA) gA thr alw groupOnly [.bar 0] ∧ (getBar grp 0).arr + 1 ≠ barExp grp (getBar grp 0) ∧
    1 + 1 = barExp grp { arr := 1, all := true } := by
  (repeat' apply And.intro) <;> first | exact clear_of (by decide +kernel) | (unfold Released; decide +kernel) | decide +kernel

/-- Semaphore 4 of another context, and thread 0 waiting for one count of semaphore 2. -/
def semOther : State := withCore (iss gA) fun k => { k with sems := (4, { ceil := 3, owner := some 2 }) :: k.sems }
def semWaits : State :=
  { withCore (gT { thr with st := .waiting (.semw 2 1 2) }) fun k =>
      { k with sems := [(2, { value := 1, ceil := 8, owner := some 1, waiters := [{ who := .thread gA, ctx := 1, count := 1 }] })] } with
    arg := { n1 := 0, n2 := 2 } }

theorem witness_SemaphoreResults : Clear (iss gA) gA thr (oR 9 4 2 18).g groupOnly [.dx 9, .sem 2, .sx 4, .sx 18] ∧ (readX thr 0).toNat = 0 ∧
    (readX thr 6).toNat > 65535 ∧ (readX thr 4).toNat > (readX thr 5).toNat ∧ ((readX thr 18).toNat ≠ 0 ∧ (readX thr 4).toNat ≤ (readX thr 18).toNat) ∧
    (getSem (getCore (iss gA) 0) 2).owner = some 1 ∧ (getSem (getCore (iss gA) 0) 2).waiters = [] ∧ (getSem (getCore (iss gA) 0) 31).owner = none ∧
    Clear semOther gA thr alw groupOnly [.dx 9, .sem 4, .sx 4, .sx 18] ∧ (getSem (getCore semOther 0) 4).owner = some 2 ∧
    Clear (iss gA) gA thr alw groupOnly [.sem 2, .sx 4] ∧ (getSem (getCore (iss gA) 0) 2).value + 64 > (getSem (getCore (iss gA) 0) 2).ceil ∧
    (getSem (getCore (iss gA) 0) 2).value + (readX thr 4).toNat ≤ (getSem (getCore (iss gA) 0) 2).ceil ∧
    Released (iss gA) (envOf (iss gA) gA) thr 2 ∧ Clear semOther gA thr alw groupOnly [.sem 4, .sx 4] ∧
    (getSem (getCore (iss gA) 0) 2).value < (readX thr 4).toNat ∧ (readX thr 12).toNat ≤ (getSem (getCore (iss gA) 0) 2).value ∧
    Clear (iss gA) gA thr alw groupOnly [.dp 8, .sem 31] ∧ onSome (firstMet (getSem (getCore semWaits 0) 2)) (fun w => w.who == .thread gA) = true ∧
    getThread semWaits gA = some { thr with st := .waiting (.semw 2 1 2) } ∧ steps semWaits (envOf semWaits gA) = false := by
  (repeat' apply And.intro) <;> first | exact clear_of (by decide +kernel) | (unfold Released; decide +kernel) | decide +kernel

/-- 2^56, a word off its alignment, and a scratch offset past 2^27, misaligned, past the allocation. -/
theorem witness_AccessAddressTraps : Clear (iss gA) gA thr alw {} [widthDest 4 (memWidth (oM 4 20 0 0 2)), needSelPair false 20] ∧
    vaOk (memAddr (iss gA) (envOf (iss gA) gA) thr (oM 4 20 0 0 2)).toNat = false ∧
    vaOk (memAddr (iss gA) (envOf (iss gA) gA) thr (oM 4 8 2 0 2)).toNat = true ∧
    (memAddr (iss gA) (envOf (iss gA) gA) thr (oM 4 8 2 0 2)).toNat % widthBytes 2 ≠ 0 ∧
    Clear (iss gA) gA thr alw {} [widthSrc 4 (memWidth (oM 4 20 0 0 2)), needSelPair false 20] ∧
    Clear (iss gA) gA thr alw { place := .group } [widthDest 4 (memWidth (oM 4 0 0 0 2)), needSel false 0] ∧
    (scratchAddr (iss gA) (envOf (iss gA) gA) thr (oM 4 0 (-1) 0 2)).toNat ≥ 2 ^ 27 ∧
    (scratchAddr (iss gA) (envOf (iss gA) gA) thr (oM 4 0 2 0 2)).toNat % widthBytes 2 ≠ 0 ∧
    scratchByte (scratchAddr (iss gA) (envOf (iss gA) gA) thr (oM 4 0 4096 0 2)).toNat + 4 > grp.scratchSize := by
  (repeat' apply And.intro) <;> first | exact clear_of (by decide +kernel) | decide +kernel

/-- The access of a word of four bytes at 0x20000. -/
def acc4 (s : State) (a : Agent) : Acc := threadAcc (envOf s a) 0x20000 4

/-- The same device with its next access going out as a message. -/
def deferring : State := { iss gA with defer := true }

theorem witness_LoadStoreResults : Clear (iss gA) gA thr alw {} [widthDest 4 2, needSelPair false 8] ∧
    memAddr (iss gA) (envOf (iss gA) gA) thr (oM 4 8 0 0 2) = 0x20000 ∧ vaOk 0x20000 = true ∧ hasPend (iss gA) gA = false ∧
    (∃ v, check (iss gA) { acc4 (iss gA) gA with l1 := loadL1 (iss gA) (envOf (iss gA) gA) (oM 4 8 0 0 2) } = .ok v ∧
      (!pendOnLine (iss gA) gA v.1 && !canDefer (iss gA) (envOf (iss gA) gA) v.1 false) = true) ∧
    (∃ v, readBytes (iss gA) { acc4 (iss gA) gA with l1 := loadL1 (iss gA) (envOf (iss gA) gA) (oM 4 8 0 0 2) } {} = .ok v ∧ true = true) ∧
    (∃ v, check deferring { acc4 deferring gA with l1 := loadL1 deferring (envOf deferring gA) (oM 4 8 0 0 2) } = .ok v ∧
      (canDefer deferring (envOf deferring gA) v.1 false && (dataFault v.2 v.1).isNone) = true) ∧
    Clear deferring gA thr alw {} [widthDest 4 2, needSelPair false 8] ∧ Clear (iss sA) sA thr alw {} [widthSrc 4 4, needSelPair false 8] ∧
    Clear (iss gA) gA thr alw {} [widthSrc 4 2, needSelPair false 8] ∧ Released (iss gA) (envOf (iss gA) gA) thr 5 ∧
    (∃ v, check (iss gA) { acc4 (iss gA) gA with kind := 1, write := true } = .ok v ∧
      onOk (pushStore v.2 (envOf (iss gA) gA) v.1 (storeBytes thr 4 2) false) (fun _ => true) = true) := by
  (repeat' apply And.intro) <;> first | exact clear_of (by decide +kernel) | exact ok_of (by decide +kernel) |
    (unfold Released; decide +kernel) | decide +kernel

/-- A store to the last bytes of its line. -/
def tgt : Target := { tag := 1, va := 0x2007C, pva := 0x2007C, gen := 0, home := 0, frame := 0x1020000, attr := { w := true, u := true }, level := 0 }

theorem witness_StoreEntersBuffer : (envOf (iss gA) gA).core = some 0 ∧ (getCore (iss gA) 0).sb.length < 64 ∧
    (∃ v, pushStore (iss gA) (envOf (iss gA) gA) tgt [1, 2, 3, 4] false = .ok v ∧ true = true) ∧
    tgt.va % 128 + [(1 : Byte), 2, 3, 4].length ≤ 128 := by
  (repeat' apply And.intro) <;> first | exact ok_of (by decide +kernel) | decide +kernel

theorem witness_ScratchResults : Clear (iss gA) gA thr alw { place := .group } [widthDest 4 (memWidth (oM 4 0 4092 0 2)), needSel false 0] ∧
    scratchFault ((envOf (iss gA) gA).group (iss gA)) (scratchAddr (iss gA) (envOf (iss gA) gA) thr (oM 4 0 4092 0 2)).toNat 4 4 = none ∧
    scratchBad ((envOf (iss gA) gA).group (iss gA)) 4092 4 = false ∧ hasPend (iss gA) gA = false ∧
    Clear (iss gA) gA thr alw { place := .group } [widthSrc 8 4, needSel true 3] ∧ Released (iss gA) (envOf (iss gA) gA) thr 2 := by
  (repeat' apply And.intro) <;> first | exact clear_of (by decide +kernel) | (unfold Released; decide +kernel) | decide +kernel

/-- An atomic on scratch and one on global memory. -/
def aS : OpA := oA 4 0 5 6 2 .cas 0x0A
def aM : OpA := oA 4 8 5 6 4 .add 0x62

theorem witness_AtomicResults : atomScratch aS = true ∧ hasPend (iss gA) gA = false ∧ Released (iss gA) (envOf (iss gA) gA) thr 2 ∧
    scratchFault ((envOf (iss gA) gA).group (iss gA)) 0 4 4 = none ∧ scratchBad ((envOf (iss gA) gA).group (iss gA)) 0 4 = false ∧
    Clear (iss gA) gA thr alw (atomPolicy aS) (atomNeeds aS false) ∧
    Clear (iss gA) gA thr alw (atomPolicy (oA 0 0 5 0 2 .add 0x0A)) (atomNeeds (oA 0 0 5 0 2 .add 0x0A) true) ∧
    atomScratch aM = false ∧ Clear (iss gA) gA thr alw (atomPolicy aM) (atomNeeds aM false) ∧ Clear (iss gA) gA thr alw (atomPolicy aM) (atomNeeds aM true) ∧
    (0x20000 : Nat) % atomBytes aM = 0 ∧
    (∃ v, check (iss gA) { acc4 (iss gA) gA with kind := 3, write := true, plain := true, l1 := false } = .ok v ∧
      ((atomFault v.2 aM false v.1).isNone && !pendOnLine (iss gA) gA v.1 && releaseDone v.2 (envOf (iss gA) gA) 4 v.2.uid &&
      onSome (flushTarget v.2 (envOf (iss gA) gA) v.1) fun s2 => !(s2.defer && !atomAcq aM && portUp s2 (envOf (iss gA) gA) v.1) &&
        onOk (homeUpdate s2 (.agent gA) gA 1 true v.1 4 (atomicBytes .add 4 (wideRead thr (atomWide aM) 5) (wideRead thr (atomWide aM) 6))) fun _ => true) =
        true) := by
  (repeat' apply And.intro) <;> first | exact clear_of (by decide +kernel) | exact ok_of (by decide +kernel) |
    (unfold Released; decide +kernel) | decide +kernel

/-- Core 1 halted; thread 0 waiting for the receipt of core 2. -/
def halted1 : State := { iss gA with cores := [(0, core0), (1, { running := true, halted := true })] }
def receipts : State := { gT { thr with st := .waiting (.fprom 2) } with arg := { who := gA } }

/-! The well-formed words, and the operands out of their limits, of the clauses on what is reserved -/

theorem witness_ImmediateResults_reserved : fMaj 0x087010000000000B = 8 ∧ 11 ≤ ((0x087010000000000B : DWord).extractLsb' 0 4).toNat ∧
    (Instr.movi (oI 4 0 7)).WellFormed ∧ (Instr.shli (oI 4 5 31)).WellFormed := by
  (repeat' apply And.intro) <;> first | (unfold Instr.WellFormed; decide +kernel) | decide +kernel

theorem witness_IntegerResults_reserved : (∀ i ∈ [Instr.iadd (oR 4 5 6 0), .iabs (oR 4 5 0 0 0x80), .urem (oR 4 5 6 0 0xC0)],
    (i.guardOk && i.reservedOk && i.codesOk) = true) ∧ (Instr.popc (oR 4 5 0 0 0x80)).WellFormed ∧ (Instr.bfeu (oR 4 5 6 0 0x40)).WellFormed := by
  (repeat' apply And.intro) <;> first | (unfold Instr.WellFormed; decide +kernel) | decide +kernel

theorem witness_CompareResults_reserved : Executes (iss gA) gA thr ∧ (8 : RegNo).toNat = 8 ∧ (Instr.icmp (oR 7 5 6 0 0x09)).WellFormed ∧
    (Instr.icmpm (oR 7 5 6 7 0x30)).WellFormed ∧ (Instr.sel (oR 4 5 6 7 0xC0)).WellFormed ∧ (Instr.acmp (oR 7 6 8 0 0xC9)).WellFormed ∧
    (Instr.amov (oR 4 6 0 0 0x80)).WellFormed ∧ kA (oR 4 159 0 0 0x80) = true ∧ kB (oR 4 0 160 0 0x40) = true := by
  (repeat' apply And.intro) <;> first | exact exec_of (by decide +kernel) | (unfold Instr.WellFormed; decide +kernel) | decide +kernel

theorem witness_BranchResults_misaligned : (readPair { thr with x := [(10, 0x10014)] } 10).toNat % 8 ≠ 0 ∧
    Clear (gT { thr with x := [(10, 0x10014)] }) gA { thr with x := [(10, 0x10014)] } alw {} [.sp 10] ∧
    Clear (gT { thr with x := [(11, 0x1000000)] }) gA { thr with x := [(11, 0x1000000)] } alw {} [.dp 20, .sp 10] ∧
    (readPair { thr with x := [(11, 0x1000000)] } 10).toNat ≥ 2 ^ 56 := by
  (repeat' apply And.intro) <;> first | exact clear_of (by decide +kernel) | decide +kernel

theorem witness_AtomicResults_forms : (f32 0x7FC00001).isNan = true ∧ (Instr.atom (oA 4 10 6 0 4 .add 2)).WellFormed ∧
    (Instr.red_ (oA 0 10 6 0 4 .umax 3)).WellFormed ∧ Executes (iss gA) gA thr := by
  (repeat' apply And.intro) <;> first | exact exec_of (by decide +kernel) | (unfold Instr.WellFormed; decide +kernel) | decide +kernel

theorem witness_FenceResults : Clear (iss gA) gA thr (oS 0 0 0 4 0x40).g {} [] ∧ hasPend (iss gA) gA = false ∧ Released (iss gA) (envOf (iss gA) gA) thr 4 ∧
    modField (0x40 : BitVec 8) 5 2 = 2 ∧ modField (0x20 : BitVec 8) 5 2 ≠ 2 ∧ Clear (iss gA) gA thr alw {} [.dx 4, .sx 18] ∧ (readX thr 7).toNat > 639 ∧
    (readX thr 18).toNat ≤ 639 ∧ (getCore (iss gA) 64).sb = [] ∧ Clear halted1 gA thr alw {} [.dx 4, .sx 12] ∧ (getCore halted1 1).halted = true ∧
    Clear (iss gA) gA thr alw {} [.sp 8, .sx 12] ∧ rangeFault 0x20000 1 = some 2 ∧ rangeFault (2 ^ 56) 128 = some 5 ∧ rangeFault 0x20040 128 = some 4 ∧
    rangeFault (2 ^ 50 - 128) 256 = some 2 ∧ Clear (iss gA) gA thr alw {} [.sp 8, .sx 22] ∧ rangeFault 0x20000 128 = none ∧ rangeFault 0x20001 0 = none ∧
    (envOf (iss gA) gA).core = some 0 ∧ ((getCore (iss gA) 0).sb.any fun x => tagRelevant (iss gA) (envOf (iss gA) gA) x.tag) = false ∧
    getThread receipts gA = some { thr with st := .waiting (.fprom 2) } ∧ wideScope (iss gA) (envOf (iss gA) gA) 2 = false ∧
    wideScope (iss gA) (envOf (iss gA) gA) 3 = true := by
  (repeat' apply And.intro) <;> first | exact clear_of (by decide +kernel) | (unfold Released; decide +kernel) | decide +kernel

/-- The address of the first line of the bank memory of die 0, in x14, and a poisoned line there. -/
def bankVa : Nat := 2 ^ 54
def bankThr : Thread := { thr with x := [(5, 3), (15, 0x400000)] }
def banked : State := gT bankThr

theorem witness_BankResults : (Instr.bkvaddi (oS 0 14 0 0), fun w v => w + v) ∈ [(Instr.bkvaddi (oS 0 14 0 0), fun w v : Word => w + v)] ∧
    Clear banked gA bankThr alw { place := .group } [.sp 14, .sx 0] ∧ hasPend banked gA = false ∧ (readPair bankThr 14).toNat = bankVa ∧
    bankFault bankVa = none ∧ bankSourceFault ((envOf banked gA).group banked) 0 = none ∧ bankSourceFault grp 3968 = none ∧
    (∃ v, check banked (bankAcc (envOf banked gA) (readPair bankThr 14) true) = .ok v ∧
      (!scratchBad ((envOf banked gA).group banked) 0 128 && releaseDone v.2 (envOf banked gA) 0 v.2.uid &&
        onSome (flushTarget v.2 (envOf banked gA) v.1) fun s2 => !poisoned s2 v.1.pa 128 && poisoned (poisonLine s2 (v.1.pa / 128)) v.1.pa 128 &&
          onOk (homeUpdate s2 (.agent gA) gA 1 true v.1 128 fun old => some (bankWords (fun w v => w + v) old (scratchRead grp 0 128))) fun _ => true) = true) ∧
    Clear banked gA bankThr alw { place := .compute } [.dx 5, .sp 14] ∧
    (∃ v, check banked (bankAcc (envOf banked gA) (readPair bankThr 14) false) = .ok v ∧
      ((dataFault v.2 v.1).isNone && onSome (flushTarget v.2 (envOf banked gA) v.1) fun s2 =>
        onOk (homeUpdate s2 (.agent gA) gA 1 true v.1 128 fun _ => none) fun _ => true) = true) ∧
    (vaOk (15 * 2 ^ 50) = true ∧ vaPlc (15 * 2 ^ 50) < 16) ∧ (vaOk (32 * 2 ^ 50) = true ∧ vaPlc (32 * 2 ^ 50) > 31) := by
  (repeat' apply And.intro) <;> first | exact clear_of (by decide +kernel) | exact ok_of (by decide +kernel) | exact List.mem_cons_self |
    decide +kernel

/-! A leaf for a large page at address 0 of contexts 0 and 1, shared, writable and open to user mode: a root at 0x100000, a table at 0x200000 -/

/-- Bytes in memory from 64-bit words. -/
def words (s : State) (pa : Nat) (l : List Nat) : State := memPut s pa (l.flatMap fun v => toBytes v 8)

/-- The small device with that leaf, its translation caches empty, and thread 0 with other registers. -/
def tabled (t : Thread) : State :=
  words (words { gT t with ctxs := [(0, { state := .ready }), (1, { state := .active, root := 0x100000 })]
                           dies := [(0, { die0 with tlb := [] })] } 0x100000 [0x200001]) 0x200000 [0x100000057]

/-- A thread with 0x30000 in x10 and 2 in x12. -/
def armThr : Thread := { thr with x := [(5, 3), (6, 1024), (10, 0x30000), (12, 2)] }

/-- Window 3 armed over pages of context 1, window 0 in use. -/
def armed (t : Thread) : State :=
  { gT t with wins := [(0, { state := .armed, tag := 9 }), (3, { state := .armed, tag := 1, base := 0x30000, n := 2 })] }

theorem witness_ShutterInstructions : Clear (iss gA) gA thr alw { place := .compute } [.dp 4, .sp 10, .sx 12] ∧ sharmFault 0x10010 2 = some 4 ∧
    sharmFault (16 * 2 ^ 50) 2 = some 5 ∧ sharmFault 0x30000 3 = some 2 ∧ Clear (tabled armThr) gA armThr alw { place := .compute } [.dp 4, .sp 10, .sx 12] ∧
    sharmFault (readPair armThr 10).toNat (readX armThr 12).toNat = none ∧ Released (tabled armThr) (envOf (tabled armThr) gA) armThr 4 ∧
    writeRight (tabled armThr) 1 1 = true ∧ overlaps (tabled armThr) 1 0x30000 2 = false ∧
    (∃ v, pagesArm (tabled armThr) (spaceOf (tabled armThr) 1 0x30000) (envOf (tabled armThr) gA) 0x30000 2 = .ok v ∧
      (v && freeWin (tabled armThr) == some 0 && !anyBuffered (drainWhere (tabled armThr) fun x => lineIn 1 0x30000 131072 x.tag x.line)
        (fun x => lineIn 1 0x30000 131072 x.tag x.line)) = true) ∧
    overlaps (armed armThr) 1 0x40000 2 = true ∧ writeRight (armed armThr) 1 9 = false ∧ Clear (armed armThr) gA armThr alw { place := .compute } [.dx 4, .sx 6] ∧
    (readX armThr 6).toNat > 1023 ∧ Clear (armed armThr) gA armThr alw { place := .compute } [.dx 4, .sx 12] ∧ (getWin (armed armThr) 2).state = .free ∧
    (getWin (armed armThr) 1023).state = .free ∧ Clear (armed armThr) gA armThr alw { place := .compute } [.dp 8, .sx 5] ∧
    (getWin (armed armThr) 3).state = .armed ∧ hasPend (armed armThr) gA = false := by
  (repeat' apply And.intro) <;> first | exact clear_of (by decide +kernel) | exact ok_of (by decide +kernel) |
    (unfold Released; decide +kernel) | decide +kernel

/-- Slot 5 of q0 holds a copy template of context 1, slot 6 one of another context; 256 entries stand in q1. -/
def someEntry : Entry := { gid := 1, ctx := 1, launch := 1, slot := 0, tpl := 0 }
def enqThr : Thread := { thr with x := [(9, 5 * 2 ^ 26), (10, 6 * 2 ^ 26), (11, 5 * 2 ^ 26 + 2 ^ 20 + 2 ^ 21)] }
def queued (full : Bool) : State :=
  withCore (gT enqThr) fun k => { k with
    templates := [(5, { owner := some 1 }), (6, { owner := some 2 })]
    queues := [(0, { st := .running, acc := 7, ret := 6, entries := if full then List.replicate 256 someEntry else [someEntry] })] }

theorem witness_EnqueueResults : Clear (queued false) gA enqThr alw { place := .group, lim := notEngine (oE 6 0 9 0) } [.dp 6, .sx 9] ∧
    field (readX enqThr 9).toNat 16 4 = 0 ∧ bit (readX enqThr 9).toNat 20 = false ∧ bit (readX enqThr 11).toNat 21 = true ∧
    field (readX enqThr 11).toNat 16 4 = 0 ∧ bit (readX enqThr 11).toNat 20 = true ∧ Clear (queued false) gA enqThr alw { place := .group, lim := notEngine (oE 6 0 10 3) } [.dp 6, .sx 10] ∧
    (getTemplate (getCore (queued false) 0) 0 6).owner ≠ some 1 ∧ (getTemplate (getCore (queued false) 0) 0 5).owner = some 1 ∧
    templateFault (queued false) (envOf (queued false) gA) 0 (tplPatch 0 0 0) = none ∧ queueFull (queued false) 0 0 = false ∧
    Clear (queued true) gA enqThr alw { place := .group, lim := notEngine (oE 6 0 9 0 1) } [.dp 6, .sx 9] ∧ queueFull (queued true) 0 0 = true ∧
    (getQueue (getCore (queued false) 0) 0).st ≠ .idle := by
  (repeat' apply And.intro) <;> first | exact clear_of (by decide +kernel) | decide +kernel

/-- A group with 64 items in queue 19 and one in queue 16. -/
def pending : State := gG fun g => { g with pend := [(0, [7]), (3, List.replicate 64 1)] }

theorem witness_QueueInstructions : Clear (iss gA) gA thr alw { place := .group, lim := notEngine (oE 0 8 5 0) } [.sp 8, .sx 5] ∧
    (readX thr 5).toNat ≤ 63 ∧ (readPair thr 8).toNat % 32 = 0 ∧ hasPend (iss gA) gA = false ∧
    (∃ v, readRange (iss gA) (threadAcc (envOf (iss gA) gA) (readPair thr 8) 32) {} = .ok v ∧ true = true) ∧
    Executes (iss gA) gA thr ∧ (envOf (iss gA) gA).inGroup = true ∧ guardHolds alw thr = true ∧ needsAwait [.dp 10] thr = false ∧
    (Need.dp 10).ok (envOf (iss gA) gA) = true ∧ (oE 10 0 0 3 2).q.toNat ≤ 3 ∧ (16 ≤ (oE 10 0 0 19).q.toNat ∧ modField (oE 10 0 0 19).mod 0 2 = 0) ∧
    Clear (iss gA) gA thr alw { place := .group, lim := notEngine (oE 3 0 8 3) } [.dx 3, .sx 8] ∧
    Clear pending gA thr alw { place := .group, lim := notPending (oE 5 0 7 19) } [.dx 5, .sx 7] ∧
    (pendItems pending (envOf pending gA) 19).length ≥ 64 ∧ (pendItems pending (envOf pending gA) 16) = [7] ∧
    Clear pending gA thr alw { place := .group, lim := notPending (oE 12 0 0 17) } [.dp 12] ∧ pendItems pending (envOf pending gA) 17 = [] ∧
    (15 : Nat) < 16 ∧ (255 : Nat) < 256 := by
  (repeat' apply And.intro) <;> first | exact clear_of (by decide +kernel) | exact ok_of (by decide +kernel) | exact exec_of (by decide +kernel) |
    decide +kernel

/-- Tiles of context 1: 3 with one row of 4 bytes, 8, 9 and 10 as FP32 tiles of one row; 4 of another context. -/
def tcRow : Nat := 3 * 2 ^ 10
def tileThr : Thread := { thr with x := [(4, 5), (5, 3), (6, 0x1FFFF), (7, 0x20000), (8, 0x20000), (10, 4092), (12, 4093), (14, 2), (16, 8), (24, 0x20002), (26, tcRow + 2 ^ 20), (27, 1)] }
def tiled (full : Bool) : State :=
  withCore (gT tileThr) fun k => { k with
    tiles := [(3, { owner := some 1, tc := tcRow }), (4, { owner := some 2 }), (8, { owner := some 1, tc := tcRow }),
      (9, { owner := some 1, tc := tcRow }), (10, { owner := some 1, tc := tcRow })]
    queues := if full then [(1, { st := .running, entries := List.replicate 256 someEntry })] else [] }

theorem witness_TileInstructions : Clear (tiled false) gA tileThr (oR 4 3 5 0).g { place := .compute } [.dx 4, .tile 15, .sx 5] ∧
    (readX tileThr 7).toNat ≥ 2 ^ 17 ∧ tcOk (readX tileThr 6).toNat = false ∧ (readX tileThr 5).toNat < 2 ^ 17 ∧ tcOk (readX tileThr 5).toNat = true ∧
    (tileOf (tiled false) (envOf (tiled false) gA) 4).owner = some 2 ∧ (tileOf (tiled false) (envOf (tiled false) gA) 15).owner = none ∧
    Clear (tiled false) gA tileThr alw { place := .compute } [.dx 9, .tile 3] ∧ Clear (tiled false) gA tileThr alw { place := .compute } [.tile 0] ∧
    Clear (tiled false) gA tileThr alw { place := .compute } [if tgetWide (oR 8 3 10 0 1) then .dp 8 else .dx 8, .tile 3, .sx 10] ∧
    tgetFault (tiled false) (envOf (tiled false) gA) 3 4092 8 = some 2 ∧ tgetFault (tiled false) (envOf (tiled false) gA) 3 4092 4 = none ∧
    tgetFault (tiled false) (envOf (tiled false) gA) 3 2 4 = some 4 ∧ tgetFault (tiled false) (envOf (tiled false) gA) 4 0 4 = some 0x0E ∧
    tileBad (tileOf (tiled false) (envOf (tiled false) gA) 3) 4092 4 = false ∧
    Clear (tiled false) gA tileThr alw { place := .compute } [.tile 3, if tgetWide (oR 3 4 10 0) then .sp 4 else .sx 4, .sx 10] ∧
    4092 + [(1 : Byte), 2, 3, 4].length ≤ 4096 := by
  (repeat' apply And.intro) <;> first | exact clear_of (by decide +kernel) | decide +kernel

/-- TADD on the FP32 tiles, on tiles that are not ready, and of types it does not take. -/
def addOp (td ta tb : BitVec 4) (ea : BitVec 8) : OpT := { g := alw, td := td, ta := ta, tb := tb, ts := 0, ea := ea, eb := 0, acc := 0, gran := 0, mod := 0x3F }
def addTpl (td ta tb : BitVec 4) (ea : BitVec 8) : BitVec 256 := matTemplate (matOfWord 1 (addOp td ta tb ea)) true 31
def matWaits : State := { tiled false with groups := [(1, { grp with threads := [{ tileThr with st := .waiting (.matrix (addTpl 8 9 10 0)) }, thr] })], arg := { who := gA } }

theorem witness_MatrixInstructions : Executes (tiled false) gA tileThr ∧ (envOf (tiled false) gA).inGroup = true ∧
    comboOk (matOfWord 1 (addOp 8 9 10 3)) = false ∧ comboOk (matOfWord 1 (addOp 8 9 10 0)) = true ∧ guardHolds alw tileThr = true ∧
    matReady (getCore (tiled false) 0) (matOf (addTpl 8 9 4 0)) 1 = false ∧ matReady (getCore (tiled false) 0) (matOf (addTpl 8 9 10 0)) 1 = true ∧
    Executes (tiled true) gA tileThr ∧ matReady (getCore (tiled true) 0) (matOf (addTpl 8 9 10 0)) 1 = true ∧ queueFull (tiled true) 0 1 = true ∧
    queueFull (tiled false) 0 1 = false ∧ Released (tiled false) (envOf (tiled false) gA) tileThr 2 ∧
    (onSome (getThread matWaits gA) fun t => t.st == .waiting (.matrix (addTpl 8 9 10 0))) = true ∧
    ((envOf matWaits gA).group matWaits).state = .running ∧ queueFull matWaits 0 1 = false ∧
    matReady (getCore matWaits 0) (matOf (addTpl 8 9 10 0)) 1 = true ∧ (matOfWord 1 (addOp 15 9 10 10)).td < 16 := by
  (repeat' apply And.intro) <;> first | exact exec_of (by decide +kernel) | (unfold Released; decide +kernel) | decide +kernel

/-- The accesses of a tile's row and of its 4096 bytes. -/
def rowOf (s : State) (va : DWord) (n : Nat) : Acc := rowAcc (envOf s gA) va n

theorem witness_TileMemoryInstructions : Clear (tiled false) gA tileThr alw { place := .compute, ill := tileScopeIll (oR 4 8 0 5) } [.tile 4, .sp 8, .sx 0] ∧
    (tileOf (tiled false) (envOf (tiled false) gA) 4).owner ≠ some 1 ∧
    Clear (tiled false) gA tileThr alw { place := .compute, ill := tileScopeIll (oR 3 8 0 0) } [.tile 3, .sp 8, .sx 0] ∧
    (tileOf (tiled false) (envOf (tiled false) gA) 3).owner = some 1 ∧ (readX tileThr 14).toNat % 4 ≠ 0 ∧
    tileMemFault (tiled false) (envOf (tiled false) gA) 3 0x20000 0 = none ∧
    (let x := tldRows (envOf (tiled false) gA) (fun r => { rowOf (tiled false) (tileRowVa 0x20000 0 r) 4 with l1 := true }) {} 4
      { s := tiled false, tile := tileOf (tiled false) (envOf (tiled false) gA) 3, left := tldTodo (tileOf (tiled false) (envOf (tiled false) gA) 3) tileThr gA }
     (x.wait.isNone && x.fault.isNone) = true) ∧
    onOk (checkRows (tiled false) (envOf (tiled false) gA) 0x20000 0 4 (upTo 1) [])
      (fun v => (pushEntries v.2 (envOf (tiled false) gA) (entriesOf v.2 (envOf (tiled false) gA) v.1 (tileBytes {} 0 4) false)).2.1.isEmpty) = true ∧
    tileThr.stores = [] ∧
    Clear (tiled false) gA tileThr alw { place := .compute } [.dp 20, .tile 4, .sp 8] ∧ (envOf (tiled false) gA).sup = false ∧
    Clear (tiled false) gA tileThr alw { place := .compute } [.dp 20, .tile 3, .sp 16] ∧ (readPair tileThr 16).toNat % 128 ≠ 0 ∧
    onOk (checkPieces (tiled false) { rowOf (tiled false) 0x20000 4096 with kind := 1, write := true } (piecesOf 0x20000 4096) [])
      (fun v => (pushEntries v.2 (envOf (tiled false) gA) (entriesOf v.2 (envOf (tiled false) gA) v.1 (tileBytes {} 0 4096) false)).2.1.isEmpty) = true ∧
    Clear (tiled false) gA tileThr alw { place := .compute } [.sp 26, .tile 15, .sp 8] ∧
    tfillDenied (tileOf (tiled false) (envOf (tiled false) gA) 15) (envOf (tiled false) gA) (readPair tileThr 26).toNat = false ∧
    tfillBits (readPair tileThr 26).toNat = false ∧ tcOk (field (readPair tileThr 26).toNat 0 17) = true ∧ hasPend (tiled false) gA = false ∧
    onOk (readRange (tiled false) (rowOf (tiled false) 0x20000 4096) {}) (fun _ => true) = true := by
  (repeat' apply And.intro) <;> first | exact clear_of (by decide +kernel) | decide +kernel

/-! An image of 4 by 2 texels at 0x20080 whose descriptor stands at 0x20000; a launch record at 0x20000 and its kernel descriptor at 0x20040 -/

def imgThr : Thread := { thr with x := [(8, 0x20000), (10, 3), (11, 1), (12, 4), (16, 0x3F800000), (17, 0x3F800000)] }
def imaged : State := words (gT imgThr) 0x1020000 [0x20080, 3 + 2 ^ 14 + 128 * 2 ^ 32, 0, 0]
def img : Img := { base := 0x20080, w := 4, h := 2, fmt := 0, pitch := 128, amu := 0, amv := 0 }

theorem witness_ImageInstructions : Clear imaged gA imgThr (oR 12 8 16 0 1).g { place := .compute } [.dq 12, .sp 8, .sp 16] ∧
    onOk (readImg imaged (envOf imaged gA) (oR 12 8 16 0 1) 0x20000)
      (fun v => v.1 == img && onOk (sampleAt v.2 (envOf imaged gA) (oR 12 8 16 0 1) v.1 0x3F800000 0x3F800000) fun _ => true) = true ∧
    Clear imaged gA imgThr alw { place := .compute } [.dx 4, .sp 8, .sp 10] ∧ Clear imaged gA imgThr alw { place := .compute } [.dx 4, .sp 8, .sp 12] ∧
    onOk (readImg imaged (envOf imaged gA) (oR 4 8 10 0) 0x20000) (fun v => !texelRegBad (envOf imaged gA) v.1 (.dp 4) && v.1.w == 4 && v.1.h == 2 &&
      (addrFault (v.1.texel 3 1) 4).isNone &&
      onOk (threadRead v.2 (envOf imaged gA) (imgAcc (envOf imaged gA) (oR 4 8 10 0) (v.1.texel 3 1) 4) (imgMode (oR 4 8 10 0))) fun _ => true) = true ∧
    (((readPair imgThr 10).extractLsb' 0 32).toNat < img.w ∧ ((readPair imgThr 10).extractLsb' 32 32).toNat < img.h) ∧
    ((readPair imgThr 12).extractLsb' 0 32).toNat ≥ img.w ∧ Clear imaged gA imgThr alw { place := .compute } [.sx 4, .sp 8, .sp 10] ∧
    Clear imaged gA imgThr alw { place := .compute } [.sx 4, .sp 8, .sp 12] ∧
    onOk (readImg imaged (envOf imaged gA) (oR 4 8 10 0) 0x20000) (fun v => !texelRegBad (envOf imaged gA) v.1 (.sp 4) &&
      onOk (check v.2 { imgAcc (envOf imaged gA) (oR 4 8 10 0) (v.1.texel 3 1) 4 with kind := 1, write := true }) fun c =>
        onOk (pushStore c.2 (envOf imaged gA) c.1 (storeBytes imgThr 4 2) false) fun _ => true) = true := by
  (repeat' apply And.intro) <;> first | exact clear_of (by decide +kernel) | decide +kernel

/-- A CLOSED frame slot 2 of the context with one tile, an OPEN one of another context in slot 3, and 256 rays in q2. -/
def frmDesc : List Byte := toBytes (31 + 31 * 2 ^ 16) 8 ++ toBytes 0 8 ++ toBytes 0x20000 8 ++ toBytes 0x20400 8 ++ toBytes 0 32
def rayThr : Thread := { thr with x := [(4, 64), (6, 0x20000), (8, 56), (10, 57), (12, 2), (14, 3), (16, 32), (18, 4096 - 1040), (20, 4096 - 1024)] }
def rayed (full : Bool) : State :=
  { withCore (gT rayThr) fun k => { k with queues := if full then [(2, { st := .running, entries := List.replicate 256 someEntry })] else [] } with
    dies := [(0, { die0 with frames := [(2, { st := 3, owner := 1, desc := frmDesc }), (3, { st := 1, owner := 2, desc := frmDesc })] })] }
def traceWaits : State :=
  { rayed false with groups := [(1, { grp with threads := [{ rayThr with st := .waiting (.trace 0 5) }, thr] })], arg := { who := gA } }

theorem witness_RayInstructions : Clear (rayed false) gA rayThr alw { place := .group } [.dx 5, .sp 16, .sx 16, .sx 8] ∧ (readPair rayThr 16).toNat % 64 ≠ 0 ∧
    Clear (rayed false) gA rayThr alw { place := .group } [.dx 5, .sp 6, .sx 8, .sx 8] ∧ (readPair rayThr 6).toNat % 64 = 0 ∧ (readX rayThr 8).toNat % 16 ≠ 0 ∧
    Clear (rayed false) gA rayThr alw { place := .group } [.dx 5, .sp 6, .sx 16, .sx 10] ∧ (readX rayThr 10).toNat > 56 ∧
    Clear (rayed false) gA rayThr alw { place := .group } [.dx 5, .sp 6, .sx 20, .sx 8] ∧
    scratchOut ((envOf (rayed false) gA).group (rayed false)) (4096 - 1024) (16 * (56 + 9)) = true ∧
    Clear (rayed false) gA rayThr alw { place := .group } [.dx 5, .sp 6, .sx 18, .sx 8] ∧
    scratchOut ((envOf (rayed false) gA).group (rayed false)) (4096 - 1040) (16 * (56 + 9)) = false ∧ (readX rayThr 18).toNat % 16 = 0 ∧
    Released (rayed false) (envOf (rayed false) gA) rayThr 2 ∧ queueFull (rayed false) 0 2 = false ∧ queueFull (rayed true) 0 2 = true ∧
    Clear (rayed true) gA rayThr alw { place := .group } [.dx 5, .sp 6, .sx 18, .sx 8] ∧
    (onSome (getThread traceWaits gA) fun t => t.st == .waiting (.trace 0 5)) = true ∧ ((envOf traceWaits gA).group traceWaits).state = .running ∧
    queueFull traceWaits 0 2 = false ∧ Clear (rayed false) gA rayThr alw { place := .compute } [.dp 8, .sx 4, .sx 0, .sx 0] ∧ hasPend (rayed false) gA = false ∧
    (readX rayThr 4).toNat > 63 ∧ Clear (rayed false) gA rayThr alw { place := .compute } [.dp 8, .sx 14, .sx 0, .sx 0] ∧ (getFrame (rayed false) 0 3).owner ≠ 1 ∧
    Clear (rayed false) gA rayThr alw { place := .compute } [.dp 8, .sx 12, .sx 0, .sx 0] ∧
    ((getFrame (rayed false) 0 2).st = 3 ∧ (getFrame (rayed false) 0 2).owner = 1 ∧ 0 < frmTw frmDesc * frmTh frmDesc) ∧
    onOk (tlistRead (rayed false) (envOf (rayed false) gA) (getFrame (rayed false) 0 2) 0 0) (fun _ => true) = true := by
  (repeat' apply And.intro) <;> first | exact clear_of (by decide +kernel) | (unfold Released; decide +kernel) | decide +kernel

/-- The words of a launch record at 0x20000 and of the kernel descriptor it names. -/
def recWords : List Nat := [0x20040, 0, 1 + 2 ^ 32 + 2 ^ 48, 5, 0, 0, 0, 0, 0x10000, 8 + 2 ^ 9, 1 + 2 ^ 14 + 2 ^ 28, 0, 0, 0, 0, 0]
def aKdesc : KDesc := { va := 0x20040, entry := 0x10000, regs := 8, idem := false, depth := 1, nvar := 0, gx := 1, gy := 1, gz := 1, scratch := 0, offs := [0, 0, 0, 0], buds := [0, 0, 0, 0] }
def aLaunch : Launch :=
  { ctx := 1, lid := 5, depth := 0, kd := aKdesc, variant := 0, param := 0, lx := 1, ly := 1, lz := 1, cnt := none, parent := .job 1, graph := none, phase := 0 }
def workThr : Thread := { thr with x := [(4, 5), (5, 3), (6, 1023), (7, 1024), (8, 0x20000)] }
def working1 : State := { words (gT workThr) 0x1020000 recWords with launches := [(1, aLaunch), (2, { aLaunch with lid := 6, complete := true })] }
def heldCounter : State := { working1 with ctxs := [(1, { state := .active, held := [3, 5] })] }

theorem witness_WorkInstructions : Clear working1 gA workThr (oR 4 8 0 0).g workPolicy [.dp 4, .sp 8] ∧ addrFault 0x20000 64 = none ∧
    Released working1 (envOf working1 gA) workThr 4 ∧
    onOk (recordRead working1 (envOf working1 gA) 0x20000) (fun v => onSome (launchOf v.1) fun r => r.cnt == some 5 &&
      !counterHeld v.2 1 5 && counterHeld heldCounter 1 5 &&
      onOk (recordRead v.2 (envOf working1 gA) r.kdesc) fun k => (kdescOf r.kdesc k.1).isSome && (kdescOf r.kdesc (v.1)).isNone) = true ∧
    Clear (gT workThr) gA workThr alw workPolicy [.dp 4, .sp 8] ∧ onOk (recordRead (gT workThr) (envOf (gT workThr) gA) 0x20000) (fun v => (launchOf v.1).isNone) = true ∧
    Clear working1 gA workThr alw workPolicy (.dx 3 :: (if modField (oR 3 4 0 0 0).mod 0 2 = 0 then [.sx 4] else [])) ∧
    Clear working1 gA workThr alw workPolicy (.dx 3 :: (if modField (oR 3 0 0 0 3).mod 0 2 = 0 then [.sx 0] else [])) ∧
    launchById working1 1 9 = none ∧ onSome (launchById working1 1 5) (fun l => !l.2.complete && !cancelReached working1 l.1) = true ∧
    onSome (launchById working1 1 6) (fun l => l.2.complete) = true ∧ Clear working1 gA workThr alw workPolicy [.dp 10, .sx 7] ∧ (readX workThr 7).toNat > 1023 ∧
    Clear working1 gA workThr alw workPolicy [.dp 10, .sx 6] ∧ (readX workThr 6).toNat ≤ 1023 ∧ hasPend working1 gA = false ∧
    Clear heldCounter gA workThr alw workPolicy [.dp 10, .sx 5, .sx 4] ∧ counterHeld heldCounter 1 3 = true ∧
    Clear working1 gA workThr alw workPolicy [.dp 10, .sx 6, .sx 4] ∧ counterHeld working1 1 1023 = false ∧ Clear working1 gA workThr alw workPolicy [.dx 3] ∧
    Clear working1 gA workThr alw workPolicy [.sx 6] ∧ Clear working1 (.thread 1 0) workThr alw workPolicy [] ∧ steps working1 (envOf working1 gA) = false := by
  (repeat' apply And.intro) <;> first | exact clear_of (by decide +kernel) | (unfold Released; decide +kernel) | decide +kernel

/-- The sextant core with numbers at the edges of the ranges in its registers; core 1 halted, core 2 halted with an entry left. -/
def csrThr : Thread := { thr with x := [(4, 16), (5, 15), (6, 640), (7, 639), (8, 5), (9, 0), (10, 1), (12, 2), (14, 101)] }
def csrS (a : Agent) : State :=
  { iss a with dies := [(0, { die0 with sx := { th := csrThr, running := true } })]
               cores := [(0, { core0 with lanes := [(0, { busy := true, th := csrThr }), (1, { busy := true, th := csrThr })] }), (1, { running := true, halted := true }),
                 (2, { running := true, halted := true, frozen := [sbE] })] }

theorem witness_ControlRegisterInstructions : Clear (csrS sA) sA csrThr alw (csrPolicy (oR 8 4 0x0C 6)) [.dp 8, .sx 4] ∧ csrIndexOk (oR 8 4 0x0C 6) 16 = false ∧
    Clear (csrS sA) sA csrThr alw (csrPolicy (oR 8 5 0x0C 6)) [.dp 8, .sx 5] ∧ csrIndexOk (oR 8 5 0x0C 6) 15 = true ∧ hasPend (csrS sA) sA = false ∧
    Released (csrS sA) (envOf (csrS sA) sA) csrThr 5 ∧ (csrRead (csrS sA) (envOf (csrS sA) sA) 0x0C06 15).isSome = true ∧
    Clear (csrS lA) lA csrThr alw (csrPolicy (oR 8 0 0x0C 1)) [.dp 8, .sx 0] ∧ csrIndexOk (oR 8 0 0x0C 1) 0 = true ∧
    Released (csrS lA) (envOf (csrS lA) lA) csrThr 5 ∧ csrRead (csrS lA) (envOf (csrS lA) lA) 0x0C01 0 = none ∧
    Clear (csrS sA) sA csrThr alw (csrPolicy (oR 8 5 0x0C 6)) [.sp 8, .sx 5] ∧
    (match csrWrite (csrS sA) (envOf (csrS sA) sA) 0x0C06 15 5 with | .ok _ => true | _ => false) = true ∧
    (match csrWrite (csrS sA) (envOf (csrS sA) sA) 0x0C06 15 101 with | .bad => true | _ => false) = true ∧
    Clear (csrS sA) sA csrThr alw (csrPolicy (oR 14 5 0x0C 6)) [.sp 14, .sx 5] ∧
    Clear (csrS (.lane 0 0)) (.lane 0 0) csrThr alw { place := .compute, right := .steward } [.dx 5] ∧
    Clear (csrS sA) sA csrThr alw { right := .sup } [.dx 3, .sx 6] ∧ (readX csrThr 6).toNat > 639 ∧ Clear (csrS sA) sA csrThr alw { right := .sup } [.dx 3, .sx 7] ∧
    (readX csrThr 7).toNat ≤ 639 ∧ (getCore (acquire (csrS sA) (envOf (csrS sA) sA) 5) 639).halted = false ∧
    Clear (csrS sA) sA csrThr alw { right := .sup } [.dx 3, .sx 10] ∧ (getCore (acquire (csrS sA) (envOf (csrS sA) sA) 5) 1).halted = true ∧
    (getCore (acquire (csrS sA) (envOf (csrS sA) sA) 5) 1).frozen = [] ∧ Clear (csrS sA) sA csrThr alw { right := .sup } [.dx 3, .sx 12] ∧
    (getCore (acquire (csrS sA) (envOf (csrS sA) sA) 5) 2).frozen ≠ [] := by
  (repeat' apply And.intro) <;> first | exact clear_of (by decide +kernel) | (unfold Released; decide +kernel) | decide +kernel

/-- A lane that handles a trapped thread; keys of context 1 for stack 31, which its owner keeps, one FROZEN and one degraded. -/
def supThr : Thread :=
  { thr with x := [(4, 32), (5, 31), (6, 16), (7, 15), (8, 0x10000), (10, 0), (12, 3), (13, 1), (14, 2), (16, 640), (17, 40960), (18, 0x20000), (20, 0x20080), (22, 8192), (24, 1), (26, 639)] }
def trapRec : TrapRec := { kind := 0, code := 0x10, epc := 0, arg := 0, slot := 0, tid := 0, q := 0, va := 0, gid := 1 }
def supS (a : Agent) (gs : GState) : State :=
  { iss a with
    ctxs := [(0, { state := .ready }), (1, { state := .active, key := 0x80000006 })]
    groups := [(1, { grp with state := gs, threads := [{ (if a = gA then supThr else thr) with st := if a = gA then .fused else .trapped }, thr] })]
    stk := [(1, { owner := 0, target := 0, state := .frozen }), (2, { owner := 1, target := 1, degh := true })]
    dies := [(0, { die0 with sx := { th := supThr, running := true } })]
    cores := [(0, { core0 with lanes := [(1, { busy := true, th := supThr, trec := some trapRec }), (2, { busy := true, th := supThr })] }),
      (1, { running := true, halted := true })] }

theorem witness_SupervisorInstructions_returns : Clear (supS sA .running) sA supThr alw { right := .sup } [.sp 8] ∧ targetFault (readPair supThr 8) = none ∧
    Clear (supS (.lane 0 2) .running) (.lane 0 2) supThr alw { right := .sup } [.sp 8] ∧ laneThread (supS (.lane 0 2) .running) 0 2 = none ∧
    Clear (supS lA .running) lA supThr alw { right := .sup } [.sp 8] ∧ laneThread (supS lA .running) 0 1 = some (1, 0) ∧
    Clear (supS lA .running) lA supThr alw { right := .sup } [.sp 12] ∧ targetFault (readPair supThr 12) = some 4 ∧
    Clear (supS sA .running) sA supThr alw { right := .sup } [] ∧ Clear (supS lA .running) lA supThr alw { right := .sup } [] ∧
    (onSome (getThread (supS lA .running) (.thread 1 0)) fun t => t.st == .trapped) = true := by
  (repeat' apply And.intro) <;> first | exact clear_of (by decide +kernel) | decide +kernel

theorem witness_SupervisorInstructions_hinge : Clear (supS gA .running) gA supThr alw {} [.dx 3, .sx 4, .sx 7] ∧ (readX supThr 4).toNat > 31 ∧
    (readX supThr 6).toNat > 15 ∧ Clear (supS gA .running) gA supThr alw {} [.dx 3, .sx 5, .sx 7] ∧ (readX supThr 5).toNat = 31 ∧ (readX supThr 7).toNat = 15 ∧
    (getCtx (supS gA .running) 1).key.getLsbD 3 = false ∧ (getCtx (supS gA .running) 1).key.getLsbD 31 = true ∧ (15 : Nat) = lowerDie 31 ∧
    ((3 : Nat) ≠ lowerDie 31 ∧ (3 : Nat) ≠ upperDie 31) ∧ (getStack (supS gA .running) 1).state = .frozen ∧
    ((getStack (supS gA .running) 31).state = .owned ∧ (getStack (supS gA .running) 31).owner = 15) ∧ (0 : Nat) = upperDie 31 ∧
    degraded (getStack (supS gA .running) 31) 31 0 = false ∧ (getStack (supS gA .running) 2).owner ≠ 2 ∧ (2 : Nat) = upperDie 2 ∧
    degraded (getStack (supS gA .running) 2) 2 2 = true ∧ (envOf (supS sA .running) sA).onSextant = true ∧ Clear (supS sA .running) sA supThr alw {} [.dx 3, .sx 5, .sx 10] := by
  (repeat' apply And.intro) <;> first | exact clear_of (by decide +kernel) | decide +kernel

theorem witness_SupervisorInstructions_tinv : Clear (supS sA .running) sA supThr alw { right := .sup } [.dx 2, .sp 18, .sx 22, .sx 13] ∧
    tinvFault 8192 0x20000 1 = some 2 ∧ tinvFault 1 0x20080 1 = some 4 ∧ tinvFault 1 (34 * 2 ^ 50) 1 = some 5 ∧ tinvFault 1 0x20000 65537 = some 2 ∧
    Clear (supS sA .running) sA supThr alw { right := .sup } [.dx 2, .sp 18, .sx 13, .sx 13] ∧ tinvFault 1 0x20000 1 = none ∧ tinvFault 8191 5 0 = none ∧
    hasPend (supS sA .running) sA = false ∧ Released (supS sA .running) (envOf (supS sA .running) sA) supThr 5 ∧
    (dropRange (dropXlats (acquire (supS sA .running) (envOf (supS sA .running) sA) 5) 1 0x20000 1) 1 0x20000 1).1 = true := by
  (repeat' apply And.intro) <;> first | exact clear_of (by decide +kernel) | (unfold Released; decide +kernel) | decide +kernel

/-- The write of an image of `n` bytes at 0x20000 by the sextant core. -/
def capAcc (s : State) (n : Nat) : Acc := { threadAcc (envOf s sA) 0x20000 n with kind := 1, write := true }

theorem witness_SupervisorInstructions_capture : Clear (supS sA .running) sA supThr alw { right := .sup } [.dp 2, .sx 17, .sp 18] ∧ (readX supThr 17).toNat > 40959 ∧
    (readX supThr 16).toNat > 639 ∧ Clear (supS sA .running) sA supThr alw { right := .sup } [.dp 2, .sx 26, .sp 20] ∧ (readX supThr 26).toNat ≤ 639 ∧
    (readPair supThr 20).toNat % 256 ≠ 0 ∧ Clear (supS sA .running) sA supThr alw { right := .sup } [.dp 2, .sx 0, .sp 18] ∧ (readPair supThr 18).toNat % 256 = 0 ∧
    (getCore (supS sA .running) 0).halted = false ∧ (getCore (supS sA .running) 1).halted = true ∧ supThr.relBound = none ∧
    onOk (checkPieces (supS sA .running) (capAcc (supS sA .running) (coreImage (supS sA .running) 1).length)
        (piecesOf 0x20000 (coreImage (supS sA .running) 1).length) [])
      (fun v => onOk (pushPieces v.2 (envOf (supS sA .running) sA) v.1 (coreImage (supS sA .running) 1) false) fun s2 =>
        releaseDone s2 (envOf (supS sA .running) sA) 5 s2.uid) = true ∧
    SMap.find (getCore (supS sA .running) 0).slots 1 = none ∧ (SMap.find (getCore (supS sA .running) 0).slots 0).isSome = true ∧
    (let s1 := drainGroup (captureHalt (supS sA .running) 1) 1
     onSome (getGroup s1 1) fun g => groupDrained s1 1 g && onOk (checkPieces s1 (capAcc s1 (groupImage s1 g).length) (piecesOf 0x20000 (groupImage s1 g).length) [])
       fun v => onOk (pushPieces v.2 (envOf s1 sA) v.1 (groupImage s1 g) false) fun s3 => releaseDone s3 (envOf s1 sA) 5 s3.uid) = true ∧
    Clear (supS sA .running) sA supThr alw { right := .sup } [.dp 2, .sx 17] ∧ Clear (supS sA .running) sA supThr alw { right := .sup } [.dp 2, .sx 0] ∧
    onSome (getGroup (supS sA .running) 1) (fun g => g.state != .halted) = true ∧
    onSome (getGroup (supS sA .halted) 1) (fun g => g.state == .halted && !(g.slices.any fun p => (getCore (supS sA .halted) p.1).halted)) = true ∧
    onSome (getGroup (withCore (supS sA .halted) fun k => { k with halted := true }) 1) (fun g => g.state == .halted &&
      g.slices.any fun p => (getCore (withCore (supS sA .halted) fun k => { k with halted := true }) p.1).halted) = true := by
  (repeat' apply And.intro) <;> first | exact clear_of (by decide +kernel) | decide +kernel

/-! ## Witnesses for the steps of the device -/

/-- A state with its operands. -/
def args (s : State) (a : EvArg) : State := { s with arg := a }
/-- A device at a tick, in a state. -/
def devAt (d : Dev) (a : EvArg) : State := { st with dev := d, arg := a, links := [(22, { state := .up }), (31, { state := .degraded })] }

/-- Step 2 of R372 reads the header's words; what steps 3 and 4 compare comes from the device's fuses, which no state fixes. -/
def header : List Byte := toBytes 0x31574641 4 ++ toBytes 30048 4 ++ toBytes 256 8 ++ List.replicate 240 0

theorem witness_BringupAndHaltSteps_load : (args State.reset { n1 := 3, n2 := 1 }).arg.n1 ≤ 3 ∧ (args State.reset { n1 := 3, n2 := 1 }).dev.state = .rom ∧
    (devAt { state := .running } { n1 := 0, n2 := 0x11 }).arg.n2 % 16 = 1 ∧
    (devAt { state := .loading } { flag := true }).dev.resetDue = false ∧ linkUp (devAt { state := .loading } { flag := true }) (portLink 0) = true ∧
    admits (devAt { state := .loading } { flag := true }) 0 0 = true ∧
    headerOk 0 (memBytes (devAt { state := .verify } {}) slotPa 0) = false ∧ headerOk 30048 header = true ∧
    (args st { n1 := 1 }).dev.qbusy = false ∧ (args st { n1 := 1 }).dev.state ≠ .reset ∧ (devAt { qbusy := true } {}).dev.qbusy = true ∧
    (st.dev.mbbusy = false ∧ (getDie st 0).sx.events.length < 255) := by decide +kernel

theorem witness_BringupAndHaltSteps_clocks :
    (let s := devAt { tick := 10000 } { n1 := 15, n2 := 105 }
     s.arg.n1 ≤ 15 ∧ (getDie s s.arg.n1).lastClamp + 10000 ≤ s.dev.tick ∧ s.arg.n2 ≥ 105 ∧ 400 ≤ (getDie s s.arg.n1).clock) ∧
    (devAt { tick := 10000 } { n1 := 0, n2 := 99 }).arg.n2 < 100 ∧ (devAt {} { flag := true, n1 := 100 }).arg.n1 < (getDie st 3).clock ∧
    (args st { hit := .corrected }).arg.hit = .corrected ∧ (args st { hit := .register gA 5 }).arg.hit = .register gA 5 ∧ getThread st gA = some thr ∧
    (let s := devAt { tick := 20000000, state := .running } { n1 := 0 }
     s.dev.state = .running ∧ (getCore s 0).running = true ∧ (getCore s 0).halted = false ∧ deadline s 0 ≤ s.dev.tick) := by decide +kernel

/-- Core 0 with a record waiting, and its lane 1 trapped; the sextant core of die 0 with an event. -/
def recorded : State :=
  { withCore st fun k => { k with recs := [trapRec], tvecSet := true, tvec := 0x8000,
                                  lanes := [(1, { busy := true, th := { thr with st := .trapped, code := 5 } })] } with
    dies := [(0, { die0 with sx := { running := true, vec := 0x4000, events := [{ kind := 1, code := 5, core := 3 }] } })], arg := { n1 := 0, n2 := 1 } }

theorem witness_BringupAndHaltSteps_traps : (getCore recorded 0).recs.head? = some trapRec ∧ idleLane (getCore recorded 0) = some 2 ∧
    (getCore recorded 0).tvecSet = true ∧ (getDie recorded 0).sx.events ≠ [] ∧
    ((getDie recorded 0).sx.running = true ∧ (getDie recorded 0).sx.inExc = false ∧ (getDie recorded 0).sx.th.st = .ready) ∧
    ((getLane (getCore recorded 0) 1).th.st = .trapped ∧ (getLane (getCore recorded 0) 1).th.dispatched = false) := by decide +kernel

/-- A halted core with an entry left; a checkpoint that runs. -/
def frozen1 : State := { withCore st fun k => { k with halted := true, frozen := [sbE] } with dies := buffered.dies }
def cking : State := { st with dev := { state := .running, ck := .running } }

theorem witness_BringupAndHaltSteps_checkpoint : (match sbMerge frozen1 ownReq 0 with | .ok _ => true | _ => false) = true ∧
    (getCore frozen1 0).frozen = [sbE] ∧ onOk (performWrite frozen1 { sbE.write 0 with req := ownReq }) (fun _ => true) = true ∧ ckReady State.reset = true ∧ cking.dev.ck = .running ∧
    cking.dev.ckLoad = false ∧ anyPosted (cleanL2 cking fun _ => true) (fun _ _ => true) = false := by decide +kernel

/-- Window 0 over the page at 0x20000, open to host port 0 and peer port 5; its tag is 4096. -/
def hwin0 : HWin := { base := 2, len := 1, apn := 0, v := true, w := true, hmask := 1, pmask := 0x20 }
def windowed : State := { devAt { state := .running } { n1 := 0, n2 := 16 } with hwins := [(0, hwin0)], dies := [(0, { tlb := [xl 4096 2 0x1020000, xl 4096 3 0x1030000] })] }

/-- A request of the host at port 0, and of a peer at its port 5; an earlier write of the host. -/
def hreq (id : Nat) (r : PeerReq) (port : Nat := 0) : HostReq := { id := id, port := port, req := .window r, view := windowsNow windowed }
def hq : HostReq := hreq 5 (.read 0 4 1)

theorem witness_HostSteps_windows : (windowed.arg.n1 < 4 ∧ (args windowed { n1 := 3, n2 := 4095 }).arg.n2 < 4096 ∧ portOpen windowed 0 = true) ∧
    winServe windowed 0 65536 1 = none ∧ winServe windowed 1 0 4 = none ∧ onSome (winServe windowed 0 65532 4) (fun v => v.1 == hwin0 && v.2 == 0x2FFFC &&
      onOk (readRange windowed (hostAcc windowed hq v.1 v.2 4) { charge := false }) (fun _ => true)) = true ∧
    (let s := { windowed with dies := [(0, { tlb := [{ xl 4096 2 0x1020000 with attr := { psn := true, u := true } }] })] }
     (match readRange s (hostAcc s hq hwin0 0x20000 4) { charge := false } with | .error (.fault _) => true | _ => false) = true) ∧
    winServe windowed 0 65533 4 = none ∧
    onOk (checkPieces windowed { hostAcc windowed hq hwin0 0x20010 4 with kind := 1, write := true } (piecesOf 0x20010 4) [])
      (fun v => onOk (hostPieces v.2 hq v.1 [1, 2, 3, 4]) fun _ => true) = true ∧
    (match checkPieces windowed { hostAcc windowed hq { hwin0 with w := false } 0x20010 4 with kind := 1, write := true } (piecesOf 0x20010 4) [] with
      | .error (.fault _) => true | _ => false) = true ∧
    (hreq 5 (.read 0 4 1) 3).port < 4 ∧ 4 ≤ (hreq 5 (.read 0 4 1) 4).port ∧ portAtomic 3 .umax = false ∧ portAtomic 9 .umax = true ∧
    (let s : State := { windowed with hostq := [hreq 4 (.write 0 [1] 1), hq, hreq 6 (.read 0 4 1) 9] }
     hostTurn s hq = false ∧ hostTurn s (hreq 6 (.read 0 4 1) 9) = true ∧ hreq 4 (.write 0 [1] 1) ∈ s.hostq.takeWhile (fun x => x.id != hq.id) ∧
     (s.hostq.find? fun q => q.id == 6) = some (hreq 6 (.read 0 4 1) 9) ∧
     onOk (tryHost s (hreq 6 (.read (2 ^ 36) 4 1) 9)) (fun _ => true) = true) ∧
    (let s : State := { windowed with repls := [{ id := 1, who := portParty 0, frame := 0, tag := 1, line := 0, mask := 1, data := 0, dies := [3] }] }
     hostTurn s (hreq 4 (.write 0 [1] 1)) = false) ∧
    (match tryHost (fresh { windowed with links := [(22, { state := .up })], stk := [(0, { owner := 0, target := 0, state := .frozen })] }).2 (hreq windowed.uid (.read 65520 8 1)) with
      | .error (.wait _) => true | _ => false) = true ∧
    portAtomic 0 .add = true ∧ onSome (winServe windowed 0 8 8) (fun v => v.2 % 8 == 0) = true ∧
    onOk (check windowed { hostAcc windowed hq hwin0 0x20008 8 with kind := 3, write := true, plain := true, l1 := false }) (fun v =>
      (hostAtomFault v.2 .add v.1).isNone && onOk (homeUpdate v.2 (.host 5) (portParty 0) 4096 false v.1 8 (atomicBytes .add 8 1 0)) (fun _ => true)) = true ∧
    portOpen windowed (5 + 4) = true ∧ linkUp windowed (portLink 0) = true := by decide +kernel

/-- A thread that waits for request 9 at port 0, and a write of core 0 that is under way there. -/
def pend9 : Pend :=
  { id := 9, who := gA, core := 0, ctx := 1, atomic := false, d := 4, va := 0x20000, tag := 1, gen := 0, home := 0, frame := 3 * 2 ^ 46, attr := {}, level := 0, host := true }
def atPort : State :=
  { gT { thr with st := .waiting (.port 9) } with pends := [pend9], arg := { n1 := 9, flag := true, bytes := [1, 2, 3, 4] } }
def sentEntry : State := { withCore st fun k => { k with sb := [{ sbE with id := 7, sent := true, frame := 3 * 2 ^ 46 }] } with arg := { n1 := 7 } }

theorem witness_HostSteps_completions : (atPort.pends.find? fun p => p.id == atPort.arg.n1 && p.host) = some pend9 ∧ pend9.drop = false ∧
    portWaits atPort pend9 = true ∧ atPort.arg.bytes.length = widthBytes pend9.width ∧
    (sentEntry.pends.find? fun p => p.id == 7 && p.host) = none ∧ (findSent sentEntry sentEntry.arg.n1).isSome = true ∧
    onOk (performWrite { sentEntry with links := [(22, { state := .up })] } (SbEntry.write { sbE with id := 7, sent := true, frame := 3 * 2 ^ 46 } 0)) (fun _ => true) = true ∧
    (let q : PortAsk := { id := 7, req := .agent gA, port := 0, addr := 0 }
     let s : State := { st with asks := [q], arg := { n1 := 7 } }
     (s.pends.find? fun p => p.id == 7 && p.host) = none ∧ findSent s 7 = none ∧ (s.asks.find? fun q => q.id == 7 && !q.done) = some q) := by decide +kernel

/-! A queue entry at 0x20000 of context 1 with its job, phase, graph and node, and the kernel descriptor at 0x20100 -/

def levelWords : List Nat :=
  [0x20010, 0, 1 + 5 * 65536, 0x20020, 0x20030, 1 + 6 * 65536, 0x20040, 0, 0x20038, 1 + 7 * 65536, 0x20080, 0, 0, 0, 0, 0,
    0x20100, 0, 1 + 2 ^ 32 + 2 ^ 48, 8, 0, 0, 0, 0, 0, 0, 0, 0, 0, 0, 0, 0, 0x10000, 8 + 2 ^ 9, 1 + 2 ^ 14 + 2 ^ 28, 0, 0, 0, 0, 0]
def jobRun (p : Option PhaseRun) (idx : Nat) : Job := { entryVa := 0x20000, nph := 1, jcnt := 5, phtab := 0x20020, index := idx, phase := p }
def ctxOf (st : CtxState) (tail : Word) (j : Option Job) : Ctx := { state := st, cnt := 2 ^ 46 + 2 ^ 20, hqBase := 0x20, tail := tail, job := j }
def levels (c : Ctx) (a : EvArg) : State := { words st 0x1020000 levelWords with ctxs := [(1, c)], arg := a }
def run0 : PhaseRun := { cnt := 6, ng := 1, gtab := 0x20030 }
def node0 : GNode := { lrec := { kdesc := 0x20100, param := 0, lx := 1, ly := 1, lz := 1, cnt := some 8 }, preds := [] }
def graph0 : GraphRun := { ctx := 1, index := 0, cnt := 7, pdir := 0x20038, nodes := [node0] }

theorem witness_WorkSteps_levels :
    (let s := levels (ctxOf .active 1 none) { n1 := 1 }
     (getCtx s 1).head ≠ (getCtx s 1).tail ∧ (getCtx s 1).job = none ∧
     onOk (devRead s 1 (ringVa (getCtx s 1) 0) 16 16) (fun v => onSome v.1 fun b => field (recWord b 0) 56 8 == 0 &&
       onOk (devRead v.2 1 (recWord b 0) 16 16) fun r => onSome (r.1.bind (jobOf 0x20000)) fun j => !counterHeld r.2 1 j.jcnt &&
         onOk (writeSt r.2 1 0x20000 1 0) fun _ => true) = true) ∧
    (let s := levels (ctxOf .faulted 1 none) { n1 := 1 }
     (getCtx s 1).state = .faulted ∧ onOk (writeSt s 1 (ringVa (getCtx s 1) 0) 3 0) (fun _ => true) = true) ∧
    (let s := levels (ctxOf .active 1 (some (jobRun none 0))) { n1 := 1 }
     ctxRuns (getCtx s 1) = true ∧ (jobRun none 0).index < 1 ∧ onOk (devRead s 1 0x20020 16 16) (fun v => onSome v.1 fun b => onSome (phaseEntry b) fun p =>
       !counterHeld v.2 1 p.2.2) = true ∧ onOk (devRead s 1 0x20050 16 16) (fun v => onSome v.1 fun b => (phaseEntry b).isNone) = true) ∧
    (let s := levels (ctxOf .active 1 (some (jobRun (some run0) 0))) { n1 := 1, n2 := 0 }
     (getCtx s 1).job.bind (·.phase) = some run0 ∧ (0 : Nat) < run0.ng ∧ onOk (readGraph s 1 0x20030 0) (fun v => onSome v.1 fun r =>
       !counterHeld v.2 1 r.2.2.1 && onOk (readNodes v.2 1 r.2.2.2 0 r.2.1) fun n => n.1 == [node0]) = true ∧
     onOk (readGraph s 1 0x20038 0) (fun v => v.1.isNone) = true) ∧
    (let s : State := { levels (ctxOf .active 1 (some (jobRun (some run0) 0))) { n1 := 4, n2 := 0 } with graphs := [(4, graph0)] }
     getGraph s 4 = some graph0 ∧ graph0.nodes[0]? = some node0 ∧ nodeReady graph0 0 = true ∧
     onOk (readNode s graph0 node0 0) (fun v => v.1.isSome && !counterHeld v.2 1 8) = true) := by decide +kernel

def ended : State :=
  { levels (ctxOf .active 1 (some (jobRun none 1))) {} with
    launches := [(2, { aLaunch with ended := 1 })], graphs := [(4, { graph0 with nodes := [{ node0 with ended := true }] })] }

theorem witness_WorkSteps_completion : (onSome (getLaunch ended 2) fun l => !l.complete && l.ended ≥ l.total && l.kids == 0 && launchDrained ended 2) = true ∧
    (onSome (getGraph ended 4) fun r => r.nodes.all (·.ended)) = true ∧ run0.ended + 1 ≥ run0.ng ∧
    (onSome (getCtx ended 1).job fun j => j.phase.isNone && j.index ≥ j.nph &&
      onOk (writeSt (counterComplete ended 1 j.jcnt) 1 j.entryVa (finalSt (counterGet (counterComplete ended 1 j.jcnt) 1 j.jcnt)) j.mrec) fun _ => true) = true := by
  decide +kernel

/-- A launch with a group to place on core 1; groups in each state; nine slices on core 0, one of them not in the active set. -/
def placing : State :=
  { levels (ctxOf .active 0 none) { n1 := 2, n2 := 1, nums := [1] } with launches := [(2, aLaunch)], cores := [(0, core0), (1, { running := true })] }
def inState (st1 : GState) (d : Option DropKind) (k : DropKind) : State :=
  { st with groups := [(1, { grp with state := st1, idem := true, drop := d, dropping := k })], arg := { n1 := 1 } }
def crowded : State :=
  { st with
    cores := [(0, { core0 with slots := (upTo 8).map (fun i => (i, ({ gid := 1, rank := 0, active := some 0 } : Slot))) ++ [(8, { gid := 2, rank := 0 })] })]
    groups := [(1, grp), (2, { grp with threads := [{ thr with st := .ready }] })] }

theorem witness_WorkSteps_groups : (onSome (nextGroup aLaunch) fun v => v.1 == 0) = true ∧ ctxRuns (getCtx placing 1) = true ∧
    coresTake placing aKdesc 1 [1] = true ∧ (onSome (getGroup (inState .placing none .preempt) 1) fun g => g.state == .placing) = true ∧
    hasEntries (inState .draining none .preempt) 1 = false ∧ (onSome (getGroup (inState .dropping none .cancel) 1) fun g => g.state == .dropping) = true ∧
    (onSome (getGroup (inState .running (some .preempt) .preempt) 1) fun g => g.drop.isSome && !isMasked g) = true ∧ st.bundle = [] ∧
    groupAt { st with arg := { n1 := 0 } } 0 = some 1 ∧ (onSome (getGroup (inState .halted none .preempt) 1) fun g => g.state == .halted) = true ∧
    replaceDue crowded 0 = true ∧ (replacedSlot crowded 0).isSome = true ∧ (waitingSlots crowded 0).head? = some 8 := by decide +kernel

/-- Context 1, or aperture 7, in a state. -/
def inCtx (c : Ctx) (a : EvArg := { n1 := 1 }) : State := { State.reset with ctxs := [(1, c)], arg := a }
def ap7 (a : Ap) (n1 : Nat) : State := { State.reset with aps := [(7, a)], arg := { n1 := n1 } }

theorem witness_CommandSteps_contexts : (getCtx (args State.reset { n1 := 4095 }) 4095).state = .free ∧ (getCtx (inCtx { state := .ready }) 1).state ≠ .free ∧
    ((getCtx (inCtx { state := .loaded, cnt := 2 ^ 46 }) 1).state = .loaded ∧ (getCtx (inCtx { state := .loaded, cnt := 2 ^ 46 }) 1).cnt ≠ 0) ∧
    (getCtx (inCtx { state := .loaded }) 1).cnt = 0 ∧ (getCtx (inCtx { state := .quiescing }) 1).state = .quiescing ∧
    (ctxGroups (inCtx { state := .quiescing }) 1 = [] ∧ ctxEntries (inCtx { state := .quiescing }) 1 = false) ∧
    (getCtx (inCtx { state := .suspended }) 1).state = .suspended ∧ ctxHeld CtxState.loaded = true ∧ ctxHeld CtxState.suspended = true ∧
    ((inCtx { state := .faulted }).groups.all fun g => g.2.ctx != 1 || g.2.state == .halted) = true ∧ ctxIdle CtxState.loaded = true ∧
    ctxIdle CtxState.suspended = true ∧ (getCtx (inCtx { state := .suspended }) 1).tail = (getCtx (inCtx { state := .suspended }) 1).head ∧
    (getCtx (inCtx { state := .scrubbing }) 1).state = .scrubbing ∧ scrubbed (scrubCaches (inCtx { state := .scrubbing }) 1) 1 = true ∧
    (getAp (ap7 { state := .scrubbing } 4103) 7).state = .scrubbing ∧ scrubbed (scrubCaches (ap7 { state := .scrubbing } 4103) 4103) 4103 = true ∧
    (let a : Ap := { base := 2, len := 1 }
     a.len ≠ 0 ∧ vaOk (a.base * 65536) = true ∧ vaPlc (a.base * 65536) = vaPlc (a.base * 65536 + 65536 * a.len - 1) ∧ a.base * 65536 + 65536 * a.len ≤ 2 ^ 56) ∧
    ((getAp (ap7 { state := .live } 7) 7).state = .live ∧ (getAp (ap7 { state := .live } 7) 7).maps = 0) := by decide +kernel

theorem witness_CommandSteps_registers : (match writeCtxcnt (inCtx { state := .loaded }) 1 (2 ^ 46) with | .ok _ => true | _ => false) = true ∧
    (match writeCtxap (inCtx { state := .loaded }) 1 7 0 with | .ok _ => true | _ => false) = true ∧ bit 0xFFF 12 = false ∧ bit 0x1000 12 = true ∧
    (getHWin State.reset 63).len = 0 ∧ (getSem (getCore st 0) 2).waiters = [] ∧ (getTile (getCore st 0) 3).owner.isSome = true ∧ entryNames (getCore st 0) 3 = false ∧
    ((({ st with dev := { tick := 1000 } } : State).dev.tick - SMap.get (getDie st 15).lastToken 4095 0) / 1000 ≠ 0 ∧ ({ rate := 1 } : Ctx).rate ≠ 0) := by
  decide +kernel

/-! Engine queues of core 0 -/

/-- Core 0 with one queue, in a state of the small device. -/
def queue (q : Nat) (k : EngQ) (a : EvArg := { n1 := 0, n2 := q }) : State := { withCore st fun c => { c with queues := [(q, k)] } with arg := a }
def entry1 (t : BitVec 256) : Entry := { gid := 1, ctx := 1, launch := 1, slot := 0, tpl := t }
/-- A copy of two rows of 4 bytes from 0x20000 on to the group's scratch; the same from an unreadable address; a copy of no row. -/
def copyTpl : BitVec 256 := BitVec.ofNat 256 (4 * 2 ^ 32 + 2 * 2 ^ 48 + 0x20000 * 2 ^ 64 + 1 * 2 ^ 184 + 4 * 2 ^ 192 + 4 * 2 ^ 224)
def badTpl : BitVec 256 := BitVec.ofNat 256 (4 * 2 ^ 32 + 2 * 2 ^ 48 + 34 * 2 ^ 50 * 2 ^ 64 + 1 * 2 ^ 184)
def waitingHead : State :=
  { withCore st fun c => { c with
      queues := [(0, { st := .waiting, hst := 1, entries := [entry1 2] })]
      sems := [(2, { value := 1, ceil := 8, owner := some 1, waiters := [{ who := .engine 0, ctx := 1, count := 1 }] })] } with
    arg := { n1 := 0, n2 := 0 } }

theorem witness_EngineSteps_heads : (headOf (getQueue (getCore waitingHead 0) 0) = some (entry1 2) ∧ (getQueue (getCore waitingHead 0) 0).st = .waiting) ∧
    (onSome (firstMet (getSem (getCore waitingHead 0) (tplWsem 2))) fun w => w.who == .engine 0) = true ∧
    (let s := queue 0 { st := .running, hst := 2, entries := [entry1 copyTpl] }
     working (getQueue (getCore s 0) 0) = true ∧ 0 < copyUnits copyTpl ∧ onOk (copyRow s 0 copyTpl 0) (fun _ => true) = true) ∧
    (let s := queue 0 { st := .running, hst := 2, entries := [entry1 badTpl] }
     (match copyRow s 0 badTpl 0 with | .error (.fault _) => true | _ => false) = true ∧ (nextFault s 0 0 (entry1 badTpl)).isSome = true) ∧
    (let s := queue 0 { st := .stopping, hst := 2, prog := 2, entries := [entry1 copyTpl] }
     workFinished 0 (getQueue (getCore s 0) 0) (entry1 copyTpl) = true ∧ engineDrained s 0 0 = true ∧ (getQueue (getCore s 0) 0).st = .stopping ∧
     (getQueue (getCore s 0) 0).hst = 2) ∧
    (let s := queue 0 { st := .running, hst := 3, entries := [{ entry1 copyTpl with follow := some 0 }] }
     (getQueue (getCore s 0) 0).hst = 3 ∧ queueFull s 0 1 = false) ∧
    (let s := queue 3 { st := .running, hst := 3, entries := [entry1 0] }
     (3 : Nat) ≠ 0 ∧ headOf (getQueue (getCore s 0) 3) = some (entry1 0) ∧ tplGen 0 = false) ∧
    ((getQueue (getCore (queue 1 { st := .faulted }) 0) 1).st = .faulted ∧ (getQueue (getCore (queue 1 { st := .stopped }) 0) 1).st = .stopped ∧
     (getQueue (getCore (queue 1 { st := .running }) 0) 1).st ≠ .stopped) := by decide +kernel

/-- TADD of one row on tiles 8 and 9, with a poisoned word or none; a ray entry with a ray at 0x20000 of no length; an ENQ that waits. -/
def tadd : BitVec 256 := matTemplate { op := 1, td := 8, ta := 9, tb := 9, ts := 0, ea := 0, eb := 0, acc := 0, gran := 0 } false 0
def matrix1 (bad : List Nat) : State :=
  { withCore st fun c => { c with tiles := [(8, { owner := some 1, tc := tcRow }), (9, { owner := some 1, tc := tcRow, bad := bad })],
                                  queues := [(1, { st := .running, hst := 2, entries := [{ entry1 tadd with tcs := [(8, tcRow), (9, tcRow)] }] })] } with
    arg := { n1 := 0 } }
def enqWaits : State := { gT { thr with st := .waiting (.enq 0 6 0) } with arg := { who := gA } }

theorem witness_EngineSteps_units :
    (working (getQueue (getCore (matrix1 []) 0) 1) = true ∧ 0 < matUnits (matOf tadd) [(8, tcRow), (9, tcRow)] ∧
      matPoison (getCore (matrix1 []) 0) (matOf tadd) [(8, tcRow), (9, tcRow)] = false) ∧
    matPoison (getCore (matrix1 [0]) 0) (matOf tadd) [(8, tcRow), (9, tcRow)] = true ∧
    ((onSome (getThread enqWaits gA) fun t => t.st == .waiting (.enq 0 6 0)) = true ∧ ((envOf enqWaits gA).group enqWaits).state = .running ∧ queueFull enqWaits 0 0 = false) ∧
    (let s := words (queue 2 { st := .running, hst := 2, entries := [entry1 (BitVec.ofNat 256 (0x20000 * 2 ^ 64))] }) 0x1020000 [0, 0, 0, 0, 0, 0x20080, 0, 0]
     working (getQueue (getCore s 0) 2) = true ∧ onOk (rayEntry s 0 (BitVec.ofNat 256 (0x20000 * 2 ^ 64))) (fun _ => true) = true) := by decide +kernel

/-- q3 of core 0 at a feed of slot 2, with the frame there; the descriptor of a frame of one tile stands at 0x20000. -/
def feedTpl (op n : Nat) : BitVec 256 := BitVec.ofNat 256 ((2 + 64 * op) * 2 ^ 32 + 0x20000 * 2 ^ 64 + n * 2 ^ 128)
def frame0 (st0 : Nat) (outst : List Nat) : Frame := { st := st0, owner := 1, descVa := 0x20000, desc := frmDesc, outst := outst }
def fed (op n : Nat) (f : Frame) (spill : Option Nat) : State :=
  { words (queue 3 { st := .running, hst := 2, entries := [{ entry1 (feedTpl op n) with spill := spill }] }) 0x1020000 [31 + 31 * 2 ^ 14, 0, 0x20200, 0x20400] with
    dies := [(0, { die0 with frames := [(2, f)] })], launches := [(5, { aLaunch with complete := true })] }
def feedOn (op n : Nat) (f : Frame) (spill : Option Nat) (g : State → Entry → Bool) : Bool :=
  onSome (feedHead (fed op n f spill) 0 op) fun h => g (fed op n f spill) h
def feedEnv (s : State) : Env := envOf s (.engine 0 3)

theorem witness_EngineSteps_tiler : feedOn 0 0 {} none (fun s h => onOk (tilerBegin s 0 h) fun _ => true) = true ∧
    onOk (tilerPut (fed 0 0 {} none) (feedEnv (fed 0 0 {} none)) (clearCounts (feedEnv (fed 0 0 {} none)) frmDesc ++ [⟨0, 0x20000 + 56, toBytes 0 8⟩]))
      (fun _ => true) = true ∧
    feedOn 1 0 (frame0 1 []) none (fun s h => h.spill.isNone && (getQueue (getCore s 0) 3).prog ≥ feedCount h.tpl) = true ∧
    feedOn 1 1 (frame0 1 []) none (fun s h => (getFrame s 0 2).st == 1 && (getQueue (getCore s 0) 3).prog < feedCount h.tpl &&
      onOk (binPrim s 0 (feedEnv s) h 0) fun _ => true) = true ∧
    feedOn 1 1 (frame0 0 []) none (fun s h => (getFrame s 0 (feedSlot h.tpl)).st != 1) = true ∧
    feedOn 1 1 (frame0 1 [5]) (some 5) (fun s h => h.spill == some 5 && (onSome (getLaunch s 5) fun l => l.complete) && onOk (spillDone s 0 (feedEnv s) h 5) fun _ => true) = true ∧
    feedOn 2 0 { frame0 1 [] with owner := 9 } none (fun s h => (getFrame s 0 2).owner != h.ctx) = true ∧
    feedOn 2 0 (frame0 1 []) none (fun s h => (getFrame s 0 2).owner == h.ctx && !spillsOut s 0 2 && onOk (closeFrame s (feedEnv s) 2) fun _ => true) = true ∧
    feedOn 3 0 (frame0 3 []) none (fun _ _ => true) = true := by decide +kernel

/-! Messages that have reached die 0, links, stacks and windows -/

/-- A request of thread 0 for the word at 0x20000, and a message that stands at its destination. -/
def pendR (id : Nat) (atomic : Bool) : Pend :=
  { id := id, who := gA, core := 0, ctx := 1, atomic := atomic, d := 4, va := 0x20000, tag := 1, gen := 0, home := 0, frame := 0x1020000,
    attr := { w := true, u := true }, level := 0 }
def landed (b : MsgBody) (dst : Nat := 0) : State :=
  { buffered with pends := [pendR 1 false, pendR 2 true], msgs := [{ id := 3, src := 1, dst := dst, at_ := dst, path := [], body := b }],
                  arg := { n1 := 3 } }
def landedOk (b : MsgBody) (f : State → Msg → Bool) (dst : Nat := 0) : Bool :=
  onSome (findMsg (landed b dst) 3) fun m => m.body == b && arrived (landed b dst) m && f (landed b dst) m
/-- The buffer of core 0 with its entry, as event operands ask for it; the same entry on a converting page. -/
def draining (e : SbEntry) (flag : Bool) : State := { withCore buffered fun k => { k with sb := [e] } with arg := { n1 := 0, n2 := 0, flag := flag } }
def convE : SbEntry := { sbE with attr := { w := true, u := true, df := 8 } }
def repl0 : Repl := { id := 1, who := gA, frame := 0x1020000, tag := 1, line := 1024, mask := 1, data := 7, dies := [0, 3] }

theorem witness_MemoryAndLinkSteps_memory :
    (∀ flag ∈ [true, false], (getCore (draining sbE flag) 0).sb[(0 : Nat)]? = some sbE ∧ entryReady (draining sbE flag) 0 sbE = true) ∧
    onOk (performWrite (draining sbE false) (sbE.write 0)) (fun _ => true) = true ∧ convE.attr.df ≠ 0 ∧ entryReady (draining convE false) 0 convE = true ∧
    onOk (performWrite (draining convE false) (convE.write 0)) (fun _ => true) = true ∧
    (let s : State := { landed (.read 1) with arg := { n1 := 0, n2 := 1, v1 := 0x20040 } }
     (s.msgs.find? fun m => m.body == .read 1).isSome = true ∧ pendFault s (pendR 1 false) = none ∧
     (s.pends.find? fun p => !p.drop && !p.stale && !p.host && p.home == s.arg.n1 && p.tag == s.arg.n2 && p.va / 128 == s.arg.v1.toNat / 128) = some (pendR 1 false) ∧
     onOk (homeLine s (.msg 3) 1 true false (pendR 1 false).target) (fun v => v.1 == 5) = true) ∧
    (let s : State := { buffered with repls := [repl0], arg := { n1 := 0, n2 := 3 } }
     s.repls[(0 : Nat)]? = some repl0 ∧ repl0.dies.contains 3 = true ∧
     ((s.repls.take 0).any fun x => x.tag == repl0.tag && x.line == repl0.line && x.dies.contains 3) = false) := by decide +kernel

theorem witness_MemoryAndLinkSteps_messages :
    landedOk (.read 1) (fun s _ => onSome (findPend s 1) fun p => !p.drop && (pendFault s p).isNone && onOk (homeLine s (.msg 3) p.ctx true p.nt p.target (!p.stale)) fun _ => true) = true ∧
    landedOk (.readResp 1 5 none) (fun s _ => onSome (findPend s 1) fun p => !p.drop) = true ∧
    landedOk (.write 0 sbE) (fun s _ => onOk (performWrite s { sbE.write 0 with req := .msg 3 }) fun _ => true) = true ∧
    landedOk (.writeAck 0 0) (fun _ _ => true) = true ∧
    landedOk (.atomic 2) (fun s _ => onSome (findPend s 2) fun p => !p.drop && (pendFault s p).isNone && onOk (pendAtomic s (.msg 3) p) fun _ => true) = true ∧
    landedOk (.atomicResp 2 5) (fun s _ => onSome (findPend s 2) fun p => !p.drop) = true ∧
    landedOk (.control 21 true 9) (fun _ _ => true) = true := by decide +kernel

/-- Link l in a state, with two flits on the wire from its lower end. -/
def linked (l : Nat) (k : Link) (a : EvArg) : State := { st with links := [(l, k)], arg := a }
def flits : LinkDir := { wire := [{ seq := 4095, msg := 1 }, { seq := 0, msg := 2 }], expect := 4095, nak := true }

theorem witness_MemoryAndLinkSteps_links :
    (∀ flag ∈ [true, false], let s := linked 21 { state := .up, width := 4, fwd := flits } { n1 := 21, n2 := 1, flag := flag }
      linkUp s 21 = true ∧ (dirOf (getLink s 21) true).wire = { seq := 4095, msg := 1 } :: [{ seq := 0, msg := 2 }] ∧
      (dirOf (getLink s 21) true).expect = 4095 ∧ (dirOf (getLink s 21) true).nak = true) ∧
    (let s := linked 0 { state := .degraded, bwd := { flits with expect := 0 } } { n1 := 0, n2 := 0, flag := true }
     linkUp s 0 = true ∧ (dirOf (getLink s 0) false).wire = { seq := 4095, msg := 1 } :: [{ seq := 0, msg := 2 }] ∧ (dirOf (getLink s 0) false).expect ≠ 4095) ∧
    (getLink (linked 31 { fails := 1 } { n1 := 31, flag := true }) 31).state = .training ∧ (getLink (linked 31 { fails := 1 } {}) 31).fails < 2 ∧
    (linked 22 {} { n1 := 22, n2 := 16 }).arg.flag = false ∧ 0 < (linked 22 {} { n1 := 22, n2 := 16 }).arg.n2 ∧ (linked 22 {} { n1 := 22 }).arg.n2 = 0 ∧
    (getLink (linked 21 { state := .down } { n1 := 21 }) 21).state = .down ∧ (getLink (linked 0 { state := .up } {}) 0).state = .up ∧
    (getLink (linked 22 { state := .degraded } { n1 := 22 }) 22).state = .degraded ∧ (getLink (linked 21 { state := .off } { n1 := 21 }) 21).state = .off := by
  decide +kernel

/-- Stack 31 in a state. -/
def stacked (v : Stack) (a : EvArg := { n1 := 31 }) : State := { st with stk := [(31, v)], arg := a, dev := { tick := 1000000 } }
/-- The last marker of stack 31, or the first, at its new owner. -/
def marked (l : List Nat) (dst : Nat) : State := { landed (.marker 31 5) dst with stk := [(31, { state := .opening, owner := 0, target := 0, markers := l })] }

theorem witness_MemoryAndLinkSteps_stacks :
    ((getStack (stacked { state := .closing, owner := 15, target := 0 }) 31).state = .closing ∧
      (getStack (stacked { state := .closing, owner := 15, target := 0 }) 31).err = false ∧
      (getStack (stacked { state := .closing, owner := 15, target := 0 }) 31).began + 1000000 ≤ (stacked { owner := 15, target := 0 }).dev.tick) ∧
    (getStack (stacked { state := .drained, owner := 15, target := 0 }) 31).state = .drained ∧
    (getStack (stacked { state := .switching, owner := 15, target := 0 }) 31).state = .switching ∧
    (stacked { state := .closing, owner := 15, target := 0 } { n1 := 31, flag := true }).arg.flag = true ∧
    (getStack (stacked { state := .frozen, owner := 15, target := 15, err := true }) 31).err = true ∧
    (getStack (stacked { state := .frozen, owner := 15, target := 15 }) 31).err = false ∧ (getStack (stacked { owner := 15, target := 15 }) 31).state ≠ .frozen ∧
    (∀ v ∈ [([], 15), ([], 0), (upTo 15, 0)], onSome (findMsg (marked v.1 v.2) 3) (fun m => m.body == .marker 31 5 && arrived (marked v.1 v.2) m && m.dst == v.2) = true) ∧
    (15 : Nat) ≠ (getStack (takeMsg (marked [] 15) 3) 31).owner ∧
    (let s := modStack (takeMsg (marked [] 0) 3) 31 fun v => { v with markers := 5 :: v.markers }
     0 = (getStack (takeMsg (marked [] 0) 3) 31).owner ∧ (getStack s 31).markers.length < 16) ∧
    (let s := modStack (takeMsg (marked (upTo 15) 0) 3) 31 fun v => { v with markers := 5 :: v.markers }
     16 ≤ (getStack s 31).markers.length) := by decide +kernel

/-- Window 1023 in a state, due at tick 100. -/
def windowAt (w : WinState) (tick : Nat) : State :=
  { st with wins := [(1023, { state := w, tag := 1, base := 0x30000, n := 2, tick := 100, issuer := some gA })], dev := { tick := tick }, arg := { n1 := 1023 } }

theorem witness_MemoryAndLinkSteps_windows :
    ((getWin (windowAt .publishing 100) 1023).state = .publishing ∧ (getWin (windowAt .publishing 100) 1023).tick ≤ (windowAt .publishing 100).dev.tick) ∧
    ((getWin (windowAt .dropping 101) 1023).state = .dropping ∧ (getWin (windowAt .dropping 101) 1023).tick ≤ (windowAt .dropping 101).dev.tick) ∧
    (windowAt .publishing 99).dev.tick < (getWin (windowAt .publishing 99) 1023).tick := by decide +kernel

/-! ## Witnesses for single clauses -/

/-- A register whose values have the forms that the numeric clauses name. -/
theorem witness_ApproximatedResults_values : (0x80000000 ≤ (0xB97FFFFF : Word).toNat ∧ (0xB97FFFFF : Word).toNat < 0xB9800000) ∧
    (0xC1100000 ≤ (0xC1100000 : Word).toNat ∧ (0xFF800000 : Word).toNat ≤ 0xFF800000) ∧ isFin (f32 0x40400000) = true ∧
    (pow2 (-2) ≤ 1 / ratOf (f32 0x40400000) ∧ 1 / ratOf (f32 0x40400000) < pow2 (-2 + 1)) ∧ 0 < ratOf (f32 0x40400000) ∧
    (pow2 (2 * -1) * ratOf (f32 0x40400000) ≤ 1 ∧ 1 < pow2 (2 * -1 + 2) * ratOf (f32 0x40400000)) := by decide +kernel

theorem witness_ConversionResults_values : (1 : Nat) < 2 ^ 16 ∧ decodeElem 1 .bf16 ≠ .nan ∧ (0x04 : BitVec 8).getLsbD 2 = true ∧
    isFin (decodeElem 0x3C00 .fp16) = true ∧ (3 ≤ elemCode .e4m3 ∧ elemCode .int8 ≤ 8) ∧ isFin (scaledVal 0x7E .e4m3) = true ∧
    (0x7D + 1 ≤ elemMaxEnc .e4m3 ∧ ratOf (dequant 0x7D 127 .e4m3) ≤ ratOf (.fin false 440 0) ∧
      ratOf (.fin false 440 0) ≤ ratOf (dequant (0x7D + 1) 127 .e4m3)) ∧
    ratOf (dequant (elemMaxEnc .e4m3) 127 .e4m3) ≤ ratOf (.fin false 448 0) ∧
    ((∀ y ∈ [Val.fin false 3 0], isFin y = true ∧ ratOf y < pow2 (1 + 1) ∧ -(pow2 (1 + 1)) < ratOf y) ∧
      ∃ y ∈ [Val.fin false 3 0], pow2 1 ≤ ratOf y ∨ pow2 1 ≤ -(ratOf y)) := by decide +kernel

/-- A shape of one row of 32 bytes of each of three types: two of BF16 added into one of FP16. -/
def shapes : SMap Nat := [(1, 1 + 31 * 2 ^ 10), (2, 1 + 31 * 2 ^ 10), (3, 2 + 31 * 2 ^ 10)]
theorem witness_MatrixInstructions_units : (let m : MatOp := { op := 1, td := 3, ta := 1, tb := 2, ts := 0, ea := 1, eb := 1, acc := 2, gran := 0 }
     let tc (n : Nat) : Nat := SMap.get shapes n 0
     comboOk m = true ∧ matFits m tc = true ∧ tcOk (tc 3) = true ∧ 0 < tcRows (tc 3) ∧ tcElems (tc 3) = some (15 : Nat).succ) ∧
    (let m : MatOp := { op := 2, td := 3, ta := 1, tb := 2, ts := 0, ea := 1, eb := 1, acc := 2, gran := 0 }
     comboOk m = true ∧ matFits m (fun n => SMap.get shapes n 0) = true) ∧
    (∀ p ∈ [((Val.fin false 1 0, Val.fin false 1 0) : Val × Val)], isFin p.1 = true ∧ isFin p.2 = true) ∧ isFloatCode 1 = true ∧
    isFloatCode 3 = false := by decide +kernel

theorem witness_ImageInstructions_sampling : (fp32Val 0x7FC00000).isNan = true ∧ (isFin (fp32Val 0x3F000000) = true ∧ (oR 12 8 16 0 0).mod.getLsbD 0 = false) ∧
    ((2 : Rat) ≤ ratOf (fp32Val 0x3F000000) * (img.w : Rat) ∧ ratOf (fp32Val 0x3F000000) * (img.w : Rat) < (2 : Rat) + 1) ∧
    ((1 : Rat) ≤ ratOf (fp32Val 0x3F000000) * (img.h : Rat) ∧ ratOf (fp32Val 0x3F000000) * (img.h : Rat) < (1 : Rat) + 1) ∧
    adr 0 4 2 = .at_ 2 ∧ adr 2 4 (-1) = .border ∧
    onOk (threadRead imaged (envOf imaged gA) (imgAcc (envOf imaged gA) (oR 12 8 16 0 0) (img.texel 2 1) 4) (imgMode (oR 12 8 16 0 0))) (fun _ => true) = true ∧
    onOk (readTerms imaged (envOf imaged gA) (oR 12 8 16 0 1) img ((axisOf img.amv img.h 0x3F000000 true).flatMap fun y =>
      (axisOf img.amu img.w 0x3F000000 true).map fun x => (x.1 * y.1, x.2, y.2)) []) (fun _ => true) = true ∧
    ((0 : Rat) ≤ 1 / 2 ∧ (1 / 2 : Rat) < 1 ∧ (1 : Rat) + 1 / 2 = ratOf (fp32Val 0x3F000000) * (4 : Rat) - 1 / 2) := by decide +kernel

/-- A walk at the origin along z, and the vectors of a triangle and a box at z = 1. -/
def vec (x y z : Nat) : Vec := { x := fp32Val x, y := fp32Val y, z := fp32Val z }
def walker : Walker :=
  { s := st, e := envOf st gA, tmin := 0, tmax := 0x41200000, term := false, cullb := false, o := vec 0 0 0, d := vec 0 0 0x3F800000,
    area := { s := 0, c := 0, n := 0, linked := false }, io := vec 0 0 0, id := vec 0 0 0x3F800000 }
def tri0 : Vec := vec 0xBF800000 0xBF800000 0x3F800000
def tri1 : Vec := vec 0x40400000 0xBF800000 0x3F800000
def tri2 : Vec := vec 0xBF800000 0x40400000 0x3F800000
theorem witness_RayInstructions_walk : (tri0.fin = true ∧ tri1.fin = true ∧ tri2.fin = true ∧ walker.io.fin = true ∧ walker.id.fin = true) ∧
    (walker.tri tri0 tri1 tri2).1 = some (1, 0x3F800000, 0x3E800000, 0x3E800000, 1) ∧
    ((((tri1.q.sub tri0.q).cross (tri2.q.sub tri0.q)).dot walker.id.q ≠ 0) ∧ atLeast 1 walker.tmin = true ∧ atMost 1 walker.tcur = true ∧
      (let p := walker.io.q.along walker.id.q 1
       p.x = (1 - 1 / 4 - 1 / 4) * tri0.q.x + 1 / 4 * tri1.q.x + 1 / 4 * tri2.q.x ∧ p.z = (1 - 1 / 4 - 1 / 4) * tri0.q.z + 1 / 4 * tri1.q.z + 1 / 4 * tri2.q.z)) ∧
    (isFin (fp32Val walker.tmin) = true ∧ isFin (fp32Val walker.tcur) = true ∧ (walker.box tri0 (vec 0x3F800000 0x3F800000 0x40000000)).1 = some 0x3F800000 ∧
      (walker.box (vec 0x40000000 0 0) (vec 0x40400000 0 0x40000000)).1 = none) ∧
    (ptrBad 1 = true ∧ ptrBad (2 ^ 57 + 0x20000) = false ∧ ptrKind (2 ^ 57 + 0x20000) = 2 ∧ ptrKind (2 ^ 56 + 0x20000) = 1 ∧ ptrKind 0 = 0) ∧
    (let x : StackEnt := { ptr := 0, t := 0x41A00000, frame := false }
     valLt (fp32Val walker.tcur) (fp32Val x.t) = true ∧ valLt (fp32Val walker.tcur) (fp32Val 0) = false ∧
     8 ≤ { walker with chip := List.replicate 8 x }.chip.length ∧ walker.area.c ≤ walker.area.n) ∧
    onOk (walker.node 0x20000) (fun v => v.1.length == 64) = true ∧
    (8 ≤ word32 (List.replicate 48 0 ++ [8]) 48 ∧ word32 (List.replicate 64 0) 48 < 8 ∧ rayMiss (List.replicate 64 0) = true ∧ walker.best.isNone = true) := by
  decide +kernel

theorem witness_RayInstructions_tlist : bundleTurn traceWaits gA = true ∧
    (getFrame (rayed false) 0 3).st = 1 ∧ (readX rayThr 12).toNat ≤ 63 ∧ frmTw frmDesc * frmTh frmDesc ≤ (readX rayThr 4).toNat ∧ (readX rayThr 12).toNat < frmTw frmDesc * frmTh frmDesc ∧
    onOk (readRange (rayed false) { threadAcc (envOf (rayed false) gA) (BitVec.ofNat 64 (frmCnts frmDesc)) 4 with l1 := false } { install := false })
      (fun v => ofBytes v.1 ≤ 0) = true := by decide +kernel

/-- A counter at 1000 that core 0 writes, and a line that waits for a token at die 0 in the bulk class. -/
def waiter0 : TokReq := { req := .agent gA, ctx := 1, line := 5 }
def poor (n : Nat) (q : List TokReq) : State :=
  { st with dies := [(0, { die0 with tokq := q, buckets := [(1, n)] })], ctxs := [(1, { state := .active, rate := 1, depth := 4 })] }
/-- Contexts 1 and 2 of a class, the second waiting at stack 0, where `n` deadline-class requests have been served. -/
def poor2 (lat : Bool) (n : Nat) : State :=
  { poor 1 [{ waiter0 with ctx := 2 }] with
    ctxs := [(1, { state := .active, rate := 1, depth := 4, lat := lat }), (2, { state := .active, lat := lat })]
    dies := [(0, { die0 with tokq := [{ waiter0 with ctx := 2 }], buckets := [(1, 1)], dlRun := [(0, n)] })] }
/-- Context 1 is served there before context 2, which has a token too. -/
def servedFirst (lat : Bool) (n : Nat) : Bool :=
  onSome (takeToken (poor2 lat n) (.agent lA) 1 0 6) fun t => SMap.get (getDie t 0).buckets 1 4 == 0 && (getDie t 0).tokq == [{ waiter0 with ctx := 2 }]
theorem test_a_bulk_request_waits_behind_the_deadline_class :
    takeToken { poor2 false 0 with ctxs := [(1, { state := .active, rate := 1, depth := 4 }), (2, { lat := true })] } (.agent lA) 1 0 6 = none := by
  decide +kernel
theorem witness_CommandSteps_tokens : servedFirst false 0 = true ∧ servedFirst true 7 = true ∧
    waiter0.isOf (.agent gA) 1 5 = true ∧ waiter0.isOf (.agent lA) 1 5 = false ∧
    (getCtx (poor2 true 7) 2).lat = true ∧ tokenWaiters (poor2 true 7) 0 0 = [{ waiter0 with ctx := 2 }] ∧
    SMap.get (getDie (poor 1 [waiter0]) 0).dlRun 0 0 < 7 ∧ (getCtx (poor 1 []) 1).rate ≠ 0 ∧ (getCtx st 1).rate = 0 ∧ (getDie (poor 1 []) 0).tokq = [] ∧
    (getDie (poor 1 [waiter0]) 0).tokq = waiter0 :: [] ∧ waiter0.req ≠ .agent lA ∧
    (SMap.get (getDie (accrue (poor 0 []) 0 1) 0).buckets 1 4 = 0 ∧ SMap.get (getDie (accrue (poor 1 []) 0 1) 0).buckets 1 4 ≠ 0) := by decide +kernel

theorem witness_CommandSteps_stores : (getCtx (inCtx { state := .ready }) 1).state ≠ .loaded ∧ bankOk (2 ^ 40) = false ∧
    (getCtx (inCtx { state := .loaded }) 1).state = .loaded ∧ bankOk (2 ^ 46 + 2 ^ 20) = true ∧
    counterWrites (inCtx { state := .loaded }) (2 ^ 46 + 2 ^ 20) = false ∧ MemOk (inCtx { state := .loaded }) ∧
    ctxIdle (getCtx (inCtx { state := .ready }) 1).state = false ∧ ctxIdle (getCtx (inCtx { state := .loaded }) 1).state = true ∧
    slotAp (BitVec.ofNat 15 0x1007) = some 7 ∧ (getAp (inCtx { state := .loaded }) 7).state ≠ .live ∧ (getAp (ap7 { state := .live } 7) 7).state = .live := by
  (repeat' apply And.intro) <;> first | (unfold MemOk; decide +kernel) | decide +kernel

/-- The engine of q0 at a copy from tile 3 to itself, and from scratch to scratch; a queue that is to stop. -/
def tileCopy : BitVec 256 := BitVec.ofNat 256 (4 * 2 ^ 32 + 1 * 2 ^ 48 + (3 * 4096) * 2 ^ 64 + 2 * 2 ^ 120 + (3 * 4096 + 8) * 2 ^ 128 + 2 * 2 ^ 184)
def scratchCopy : BitVec 256 := BitVec.ofNat 256 (4 * 2 ^ 32 + 1 * 2 ^ 48 + 1 * 2 ^ 120 + 64 * 2 ^ 128 + 1 * 2 ^ 184)
def at0 (t : BitVec 256) : State := queue 0 { st := .running, hst := 2, entries := [entry1 t] }
theorem witness_EngineSteps_copies : (field tileCopy.toNat 120 8 = 2 ∧ field tileCopy.toNat 184 8 = 2 ∧ field scratchCopy.toNat 120 8 = 1 ∧
      field scratchCopy.toNat 184 8 = 1) ∧
    onOk (copyRow (at0 tileCopy) 0 tileCopy 0) (fun v => v.1.isEmpty) = true ∧ onOk (copyRow (at0 scratchCopy) 0 scratchCopy 0) (fun v => v.1.isEmpty) = true ∧
    (getGroup (at0 scratchCopy) 1).isSome = true ∧
    (atStopPoint (at0 scratchCopy) 0 0 { st := .stopping, hst := 2, entries := [entry1 scratchCopy] } (entry1 scratchCopy) = true) ∧
    (getQueue (getCore (queue 0 { st := .running }) 0) 0).st = .running ∧
    bundleTurn enqWaits gA = true := by decide +kernel

/-- A write of bank memory, one of a line the home holds, and one of an older generation than its window's. -/
def bankE : SbEntry := { sbE with frame := 2 ^ 46, line := 2 ^ 45 }
def failMsg : State := { landed (.failResp 1 0x18) with pends := [pendR 1 false] }
theorem witness_MemoryAndLinkSteps_writes : (let w := bankE.write 0
     isolated buffered w = false ∧ paRegion w.frame = 1 ∧ w.bad = false ∧ MemOk buffered) ∧
    (let w := sbE.write 0
     let c : CLine := { tag := w.tag, line := w.line, gen := w.gen, frame := w.frame, attr := {}, data := 0 }
     let s : State := { buffered with dies := [(0, { die0 with l2 := [c] })] }
     paRegion w.frame = 0 ∧ w.attr.df = 0 ∧ vaPlc (w.line * 128) ≠ 33 ∧ genCurrent s w = true ∧ findLine (getDie s w.home).l2 w.tag w.line w.gen = some c) ∧
    (let s : State := { buffered with pends := [{ pendR 1 false with gen := 3 }] }
     isolated s (sbE.write 0) = true) ∧
    (findMsg failMsg 3).isSome = true ∧ (onSome (findMsg failMsg 3) fun m => m.body == .failResp 1 0x18 && arrived failMsg m) = true ∧
    (onSome (findPend failMsg 1) fun p => !p.drop) = true ∧
    (let h : HeldReq := { req := .agent lA, seq := 0, die := 0, line := 5 }
     let s : State := { buffered with stk := [(0, { owner := 0, target := 0, held := [h] })], uid := 1 }
     h ∈ (getStack s 0).held ∧ h.seq < placeAt s (.agent gA) 0 ∧ passes s (.agent gA) 0 0 7 = false) := by
  (repeat' apply And.intro) <;> first | (unfold MemOk; decide +kernel) | decide +kernel

theorem witness_MemoryAndLinkSteps_ports :
    (let s := linked 26 { state := .up, bwd := { expect := 4095, nak := true } } { n1 := 26, n3 := 4095, flag := true }
     linkUp s 26 = true ∧ s.arg.n2 = 0 ∧ s.arg.n3 = (getLink s 26).bwd.expect ∧ (dirOf (getLink s 26) false).nak = true) ∧
    (let s : State := { st with msgs := [{ id := 3, src := 1, dst := farEnd 21 true, at_ := 1, path := [], body := .reserved (farEnd 21 true) }] }
     ∃ m, s.msgs = [m] ∧ m.id = 3 ∧ m.body = .reserved (farEnd 21 true) ∧ m.dst = farEnd 21 true) ∧
    trainedWidth 25 7 = 4 ∧ trainedWidth 22 3 = 0 ∧ fullWidth 22 ≤ 16 := by
  refine ⟨by decide +kernel, ⟨_, rfl, rfl, rfl, rfl⟩, by decide +kernel⟩

theorem witness_StepFaultsAndTurns_time : dueAt State.reset = [] ∧
    (let w : Win := { state := .publishing, tag := 1, base := 0x30000, n := 2, tick := 100 }
     let s := windowAt .publishing 99
     (1023, { w with issuer := some gA }) ∈ s.wins ∧ s.dev.tick ≤ w.tick ∧ w.tick < 2 ^ 64) := by decide +kernel

theorem witness_WorkSteps_records : (getLaunch { st with launches := [(2, aLaunch)] } 2 = some aLaunch) ∧ (∀ c ∈ [1], (getCore placing c).l1 = []) ∧ [1].Nodup ∧
    (freeSlot placing 1 = some 0) ∧ (nextGroup { aLaunch with requeue := [0] }).isSome = true ∧ MemOk st ∧ counterHeld st 1 5 = false ∧
    (onSome (indexOf [{ node0 with launch := some 2 }] fun n => n.launch == some 2) fun i => i == 0) = true := by
  (repeat' apply And.intro) <;> first | (unfold MemOk; decide +kernel) | decide +kernel

theorem witness_ControlRegisterInstructions_registers : (envOf (csrS sA) sA).onSextant = true ∧ (envOf (csrS lA) lA).onSextant = false ∧
    laneRec (csrS sA) (envOf (csrS sA) sA) = none ∧ (laneRec (supS (.lane 0 1) .running) (envOf (supS (.lane 0 1) .running) (.lane 0 1))).isSome = true ∧
    txThread (csrS sA) (envOf (csrS sA) sA) 0 = none ∧ field 0x10101010 24 5 = 16 ∧ field 0x1000 0 12 = 0 := by decide +kernel

/-! ### Cases added to the clauses -/

theorem witness_OperandLimits_needs : ({} : Policy).place.allows (envOf (iss gA) gA) = true ∧ ({} : Policy).ill (envOf (iss gA) gA) = false ∧
    ({} : Policy).right.allows (envOf (iss gA) gA) = true ∧ (∃ n ∈ [Need.dx 4, .sx 65], n.ok (envOf (iss gA) gA) = false) := by decide +kernel

/-- The midpoint above 1, and a value half a step past the largest FP16 number. -/
theorem witness_RoundingIsRight_inexact : 0x3F800000 < elemMaxEnc .fp32 ∧ ratOf (decodeElem 0x3F800000 .fp32) < ((0x1000001 : Nat) : Rat) * pow2 (-24) ∧
    ((0x1000001 : Nat) : Rat) * pow2 (-24) < ratOf (decodeElem 0x3F800001 .fp32) ∧
    2 * (((0x1000001 : Nat) : Rat) * pow2 (-24)) = ratOf (decodeElem 0x3F800000 .fp32) + ratOf (decodeElem 0x3F800001 .fp32) ∧
    ratOf (decodeElem (elemMaxEnc .fp16) .fp16) < ((65520 : Nat) : Rat) * pow2 0 := by decide +kernel

/-- The group with thread 1 waiting in span 0 for a rendezvous. -/
def tumbling (fn : Nat) (mask : Word) : State :=
  gG fun g => { g with tumblers := [(0, [{ mask := mask, fn := fn, mod := 0, got := [{ lane := 1, tid := 1, d := 4, va := 1, vb := 2, vp := true }] }])] }
theorem witness_TumblerResults_arrivals : Clear (iss gA) (.thread 1 0) thr alw groupOnly [.sx 5] ∧
    ((readX thr 5).getLsbD 0 = true ∧ lanesLive grp 0 (readX thr 5) = true ∧ ((tumblerOf grp 0).find? fun r => r.mask == readX thr 5) = none) ∧
    Clear (tumbling 0 3) (.thread 1 0) thr alw groupOnly [.sx 5] ∧ Clear (tumbling 4 3) (.thread 1 0) thr alw groupOnly [.sx 5] ∧
    Clear (tumbling 0 2) (.thread 1 0) thr alw groupOnly [.sx 5] ∧ onSome (getGroup (tumbling 4 3) 1) (fun g =>
      (tumblerOf g 0).any fun r => r.mask == readX thr 5 && r.fn != 0) = true ∧
    onSome (getGroup (tumbling 0 2) 1) (fun g => ((tumblerOf g 0).find? fun r => r.mask == readX thr 5).isNone &&
      (tumblerOf g 0).any fun r => r.mask &&& readX thr 5 != 0) = true ∧
    onSome (getGroup (tumbling 0 3) 1) (fun g => lanesLive g 0 (readX thr 5) && (tumblerOf g 0).any fun r => r.mask == readX thr 5 && r.fn == 0 && r.mod == 0 &&
      (upTo 32).all fun k => !(readX thr 5).getLsbD k || ((r.got ++ [arrivalOf (envOf (tumbling 0 3) gA) thr (oR 0 0 0 5)]).any fun x => x.lane == k)) = true := by
  (repeat' apply And.intro) <;> first | exact clear_of (by decide +kernel) | decide +kernel

/-- Semaphore 2 with thread 1 waiting for more than it holds, and for less. -/
def semShared (n : Nat) : State :=
  withCore (iss gA) fun k => { k with sems := [(2, { value := 2, ceil := 8, owner := some 1, waiters := [{ who := .thread (.thread 1 1), ctx := 1, count := n }] })] }
theorem witness_SemaphoreResults_waiters : Clear (semShared 5) gA thr alw groupOnly [.sem 2, .sx 12] ∧
    (let m := getSem (getCore (semShared 5) 0) 2
     let w : SemWaiter := { who := .thread gA, ctx := 1, count := 1 }
     m.owner = some 1 ∧ (readX thr 12).toNat = 1 ∧ firstMet { m with waiters := m.waiters ++ [w] } = some w ∧ m.waiters ≠ []) ∧
    (let m := getSem (getCore (semShared 1) 0) 2
     let w : SemWaiter := { who := .thread gA, ctx := 1, count := 1 }
     firstMet { m with waiters := m.waiters ++ [w] } ≠ some w) ∧ steps (semShared 5) (envOf (semShared 5) gA) = false ∧
    onSome (firstMet { getSem (getCore (semShared 5) 0) 2 with value := 2 + 5 }) (fun w => w.who == .thread (.thread 1 1)) = true := by
  (repeat' apply And.intro) <;> first | exact clear_of (by decide +kernel) | decide +kernel

theorem witness_BankResults_traps : bankFault (readPair bankThr 8).toNat = some 5 ∧ Clear banked gA bankThr alw { place := .group } [.sp 8, .sx 0] ∧
    Clear banked gA bankThr alw { place := .compute } [.dx 5, .sp 8] := by
  (repeat' apply And.intro) <;> first | exact clear_of (by decide +kernel) | decide +kernel

/-- Window 3 armed over another context's pages; window 3 about to publish. -/
def foreign : State := { armed armThr with wins := [(3, { state := .armed, tag := 9, base := 0x30000, n := 2 })] }
def committing : State := { armed armThr with wins := [(3, { state := .publishing, tag := 1, base := 0x30000, n := 2, tick := 512 })] }
theorem witness_ShutterInstructions_statuses : Clear foreign gA armThr alw { place := .compute } [.dx 4, .sx 5] ∧ (readX armThr 5).toNat = 3 ∧
    (getWin foreign 3).state = .armed ∧ writeRight foreign 1 (getWin foreign 3).tag = false ∧
    Clear committing gA armThr alw { place := .compute } [.dx 4, .sx 5] ∧ (getWin committing 3).state = .publishing ∧
    (getWin (armed armThr) 3).state = .armed ∧ writeRight (armed armThr) 1 (getWin (armed armThr) 3).tag = true ∧
    (let s : State := { tabled armThr with mem := [] }
     onOk (pagesArm s (spaceOf s 1 0x30000) (envOf s gA) 0x30000 2) (fun v => !v) = true) := by
  (repeat' apply And.intro) <;> first | exact clear_of (by decide +kernel) | decide +kernel

theorem witness_AtomicResults_undeferred : (let s := iss gA
    onOk (check s { acc4 s gA with kind := 3, write := true, plain := true, l1 := false }) fun v => !goesOut v.2 (envOf s gA) v.1 false) = true := by
  decide +kernel

/-- A line of context 1 in core 0's buffer, and one that is to go to memory while its stack hands over. -/
theorem witness_FenceResults_cases : receiptDue (iss gA) 64 = true ∧ receiptDue halted1 1 = true ∧ (oS 0 8 22 5).scope.toNat = 5 ∧
    ((getCore (iss gA) 0).sb.all fun x => !tagRelevant (iss gA) (envOf (iss gA) gA) x.tag) = true ∧
    anyPosted (cleanL2 (iss gA) fun x => tagRelevant (iss gA) (envOf (iss gA) gA) x.tag && inRange 0x20000 128 x.line)
      (fun tag line => tagRelevant (iss gA) (envOf (iss gA) gA) tag && inRange 0x20000 128 line) = false ∧
    (let c : CLine := { tag := 1, line := 0x20000 / 128, gen := 0, frame := 0x1020000, attr := {}, data := 7, dirty := 1 }
     let s : State := { iss gA with dies := [(0, { die0 with l2 := [c] })], stk := [(0, { owner := 0, target := 1, state := .closing })] }
     anyPosted (cleanL2 s fun x => tagRelevant s (envOf s gA) x.tag && inRange 0x20000 128 x.line)
       (fun tag line => tagRelevant s (envOf s gA) tag && inRange 0x20000 128 line) = true) ∧
    (let c : CLine := { tag := 1, line := 0x20000 / 128, gen := 0, frame := 0x1020000, attr := {}, data := 7, dirty := 1 }
     admits st (paStack c.pa) 0 = true ∧ heldTurn st st.uid (paStack c.pa) 0 (c.pa / 128) = true ∧ (getCtx st c.ctx).rate = 0 ∧
     (getDie st (getStack st (paStack c.pa)).owner).tokq = []) := by decide +kernel

/-- A core whose q0 has yet to stop, and the steward that waits for its halt. -/
def halting (h : Bool) : State :=
  { csrS sA with
    cores := [(0, core0), (1, { running := true, halted := h, freezing := h, queues := [(0, { st := .stopping, hst := 2, entries := [entry1 copyTpl] })] })]
    dies := [(0, { die0 with sx := { th := { csrThr with st := .waiting (.halt 1 3) }, running := true } })] }
theorem witness_ControlRegisterInstructions_halts : coreStopped (haltCore (acquire (csrS sA) (envOf (csrS sA) sA) 5) 639 0x14 false) 639 = true ∧
    coreStopped (haltCore (halting false) 1 0x14 false) 1 = false ∧ getThread (halting true) sA = some { csrThr with st := .waiting (.halt 1 3) } ∧
    coreStopped (halting true) 1 = false ∧ (getCore (halting true) 1).halted = true ∧ (getCore (halting false) 1).halted = false := by decide +kernel

theorem witness_SupervisorInstructions_queued : (let s := supS sA .running
    handingOver (getStack { s with stk := [(31, { state := .closing, owner := 15, target := 0 })] } 31) = true ∧
    (getStack { s with stk := [(31, { owner := 15, target := 15, queue := [lA] })] } 31).queue ≠ [] ∧ (getStack s 31).queue = [] ∧ carried s 31 = false) ∧
    queuesAtRest (stopCore (supS sA .running) 1) 1 = true ∧ (getCore (stopCore (supS sA .running) 1) 1).freezing = false := by decide +kernel

/-- Host port 0 with nothing kept, the device running. -/
def portUp0 : State := devAt { state := .running } { n1 := 0, n2 := 1 }
theorem witness_PortClear : PortClear portUp0 0 ∧ PortClear windowed 0 ∧ PortClear (devAt { qbusy := true } { n1 := 0 }) 0 :=
  ⟨⟨by decide +kernel, by decide +kernel, by decide +kernel, by decide +kernel⟩,
   ⟨by decide +kernel, by decide +kernel, by decide +kernel, by decide +kernel⟩,
   ⟨by decide +kernel, by decide +kernel, by decide +kernel, by decide +kernel⟩⟩

theorem witness_BringupAndHaltSteps_replies : mayReply { portUp0 with dev := { state := .running, mbbusy := true } } = true ∧
    ({ portUp0 with dev := { state := .running, mbbusy := true } } : State).dev.mbbusy = true ∧ reaches portUp0 0 (portDie 0) = true ∧
    reaches frozen1 0 sbE.home = true ∧ (getCore frozen1 0).freezing = false ∧ reaches st 0 1 = false ∧
    ((upTo 16).all fun d => reaches { cking with links := (upTo 22).map fun l => (l, { state := .up }) } d 0) = true ∧ portDie 0 = 0 ∧
    (match performWrite { frozen1 with stk := [(0, { owner := 0, target := 1, state := .closing })], dies := [(0, die0)] } { sbE.write 0 with req := ownReq } with
      | .error (.wait _) => true | _ => false) = true ∧
    (∃ k ∈ ({ cking with stk := [(3, { owner := 2, target := 3, state := .closing })] } : State).stk, k.2.state ≠ .owned) ∧
    (∀ k ∈ cking.stk, k.2.state = .owned) := by decide +kernel

/-- A frame of the host for an atomic that no host port performs; a peer's port with a flit taken. -/
def peerUp (rx : Nat) : State := { windowed with links := [(26, { state := .up, rx := rx })], arg := { n1 := 0, n2 := 7 } }
def twoPends : State := { atPort with pends := [{ pend9 with id := 3 }, pend9] }
theorem witness_HostSteps_cases : (paRegion (3 * 2 ^ 46) = 3 ∧ field (3 * 2 ^ 46) 44 2 = 0 ∧ AtomOp.min ≠ .add ∧ AtomOp.min ≠ .exch ∧ AtomOp.min ≠ .cas) ∧
    (windowed.dev.state = .running ∧ (getCtx windowed 1).state ≠ .free ∧ (getCtx windowed 1).state ≠ .scrubbing ∧ windowed.arg.n2 < 4096) ∧
    (portOpen (peerUp 1) 4 = true ∧ (getLink (peerUp 1) (portLink 4)).rx ≠ 0 ∧ (getLink (peerUp 0) (portLink 4)).rx = 0) ∧
    (answerPort atPort atPort.arg.n1).isSome = true ∧ onSome (answerPort { atPort with links := [(22, { state := .up })] } 9) (fun p =>
      decide (p < 4) && portOpen { atPort with links := [(22, { state := .up })] } p) = true ∧
    onSome (oldestPend atPort gA) (fun q => q.id == 9) = true ∧ onSome (oldestPend twoPends gA) (fun q => q.id == 3 && q.fail.isNone) = true ∧
    Sys2Proof.Machine.placed { atPort with pends := atPort.pends.map fun x => if x.id = 9 then { x with fail := some 8 } else x } (fun r => r == .agent gA) = false ∧
    getThread atPort gA = some { thr with st := .waiting (.port 9) } ∧ (findHost sentEntry 7).isNone = true ∧ (findSent sentEntry 7).isSome = true ∧
    (let q : PortAsk := { id := 7, req := .agent gA, port := 0, addr := 0 }
     let s : State := { st with asks := [q, { q with id := 8, req := .host 3 }], arg := { n1 := 7 } }
     findHost s 7 = none ∧ findSent s 7 = none ∧ findAsk s 7 = some q ∧ onSome (findAsk s 8) (fun q => q.req == .host 3) = true ∧ answerPort s 7 = some 0) := by
  decide +kernel

/-- A write of context 1 at peer port 4 that is out. -/
def peerAsk : State := { peerUp 1 with asks := [{ id := 7, req := .agent gA, port := 4, addr := 0 }], arg := { n1 := 7 } }
theorem witness_HostSteps_peers : answerPort peerAsk 7 = some 4 ∧ portOpen peerAsk 4 = true ∧ (getLink peerAsk (portLink 4)).rx ≠ 0 ∧
    requestOut peerAsk 4 7 = true ∧ requestOut { peerAsk with links := [(26, { state := .up, rx := 1, fwd := { queue := [7] } })] } 4 7 = false := by decide +kernel

/-- Thread 1 with thread 0 of its bundle before it: at a word, or waiting for its registers; thread 0 with a request under way. -/
def paired (st0 : TStat) : State :=
  { iss gA with
    groups := [(1, { grp with threads := [{ thr with st := st0, bids := [4] }, { thr with bids := [4] }] })], bundle := [.thread 1 1] }
theorem witness_StepRunsDecodedWord_turns : ordered (.launch (oR 4 10 0 0)) = true ∧ ordered (.iadd (oR 4 5 12 0)) = false ∧
    bundleTurn (paired (.waiting .regs)) (.thread 1 1) = false ∧ bundleTurn (paired (.waiting .tumbler)) (.thread 1 1) = true ∧
    hasPend (paired .ready) (.thread 1 1) = false ∧
    hasPend { buffered with pends := [{ pendR 1 false with who := gA }] } gA = true ∧ runsAhead 0x10704050C0000040 = true ∧
    runsAhead 0x3E7040A000000000 = false ∧ agentOn (paired .ready) (.thread 1 1) = true ∧
    ((allAgents State.reset).all fun a => match getThread State.reset a with | some t => t.await.isEmpty && t.st == .ready | none => true) = true ∧ placeLeft State.reset State.reset = false := by
  (repeat' apply And.intro) <;> decide +kernel

/-- Context 1 in FAULTED with HALTED, a job begun and an entry posted. -/
def faulted1 : State := { levels (ctxOf .faulted 1 (some (jobRun none 0))) { n1 := 1 } with groups := [] }
/-- A RELEASE that has the status of the job begun to write, then that of the entry posted. -/
def released1 (s : State) : State := modCtx s 1 fun c => { c with state := .scrubbing, job := none, rel := some (c.job.map fun j => (j.entryVa, j.mrec)) }
theorem witness_CommandSteps_endings : (getCtx (inCtx { state := .ready }) 1).state = .ready ∧ ctxHeld CtxState.free = false ∧
    (let s : State := { faulted1 with ctxs := [(1, { ctxOf .faulted 1 (some (jobRun none 0)) with halted := true })] }
     (getCtx s 1).halted = true ∧ (let e := endJob (released1 s) 1
       e.1 = true ∧ (getCtx e.2 1).rel = some none ∧ (let r := refuseEntries e.2 1 1
         r.1 = true ∧ (getCtx r.2 1).head = 1)) ∧
     (getCtx (releaseOn (released1 s) 1) 1).rel = none ∧ (getCtx (releaseOn (released1 s) 1) 1).state = .scrubbing) ∧
    (let s := ap7 { state := .live, maps := 2 } 7
     (getAp s 7).maps ≠ 0 ∧ (getAp (ap7 {} 7) 7).state ≠ .live ∧ (getAp (ap7 {} 7) 7).len = 0) ∧
    (getSem (getCore waitingHead 0) 2).waiters ≠ [] ∧
    counterWrites st (2 ^ 46 + 2 ^ 20) = false := by decide +kernel

/-- q0 at a copy with its last write under way: in core 0's store buffer, or in the frozen one of a halted core. -/
def writing (k : EngQ) (halted : Bool) : State :=
  let x := { sbE with who := .engine 0 0 }
  withCore (queue 0 k) fun c => { c with halted := halted, sb := if halted then [] else [x], frozen := if halted then [x] else [] }
theorem witness_EngineSteps_stops :
    (let k : EngQ := { st := .stopping, hst := 2, prog := 2, entries := [entry1 copyTpl] }
     workFinished 0 k (entry1 copyTpl) = true ∧ engineDrained (writing k false) 0 0 = false ∧ engineDrained (writing k true) 0 0 = false ∧
     coreOn (writing k false) 0 = true ∧ coreOn (writing k true) 0 = false ∧ (entry1 copyTpl).dropped = false) ∧
    (let k : EngQ := { st := .stopping, hst := 3, entries := [{ entry1 copyTpl with follow := some 0 }] }
     queueFull (queue 0 k) 0 1 = false ∧ engineDrained (queue 0 k) 0 0 = true) ∧
    (let k : EngQ := { st := .stopped, hst := 3, entries := [entry1 copyTpl] }
     (getQueue (getCore (writing k false) 0) 0).hst = 3 ∧ engineDrained (writing k false) 0 0 = false ∧ engineDrained (queue 0 k) 0 0 = true) ∧
    (let k : EngQ := { st := .running, hst := 2, entries := [entry1 copyTpl], stores := [sbE] }
     (getQueue (getCore (queue 0 k) 0) 0).stores ≠ [] ∧ (pushEntries (queue 0 k) (envOf (queue 0 k) (.engine 0 0)) [sbE]).2.1 = []) ∧
    (let c : Core := { core0 with sb := List.replicate 64 sbE }
     let s : State := { queue 0 {} with cores := [(0, c)], stk := [(0, { owner := 0, target := 1, state := .closing })] }
     (pushEntries s (envOf s (.engine 0 0)) [{ sbE with line := 9 }]).2.1 ≠ []) ∧
    (tplSpace tileCopy 2 = 2 ∧ tplSpace tileCopy 4 = 2 ∧ tileBad (getTile (getCore (at0 tileCopy) 0) (tplAddr tileCopy 2 / 4096)) 0 (tplRb tileCopy) = false ∧
      tplSpace scratchCopy 2 = 1 ∧ tplSpace scratchCopy 4 = 1 ∧ onSome (getGroup (at0 scratchCopy) (envOf (at0 scratchCopy) (.engine 0 0)).gid) (fun g =>
        !scratchBad g 0 (tplRb scratchCopy)) = true) ∧
    (feedOp (feedTpl 0 0) = 0 ∧ feedOp (feedTpl 1 0) = 1 ∧ feedOp (feedTpl 2 0) = 2 ∧ feedOp (feedTpl 3 0) = 3) := by
  (repeat' apply And.intro) <;> decide +kernel

/-- A feed of slot 2 whose tile 0 is to spill, with a copy of the tiler's write still missing or none; a triangle over the first tile. -/
def noteDesc : List Byte := frmDesc.take 40 ++ toBytes 0x20600 8 ++ toBytes 0 16
def spilling (rp : List Repl) : State := { fed 1 1 { frame0 1 [] with desc := noteDesc } none with repls := rp }
def tileTri : List Byte := [0, 0, 0x3F000000, 0x40800000, 0, 0x3F000000, 0, 0x40800000, 0x3F000000, 0, 0, 0].flatMap fun v => toBytes v 4
theorem witness_EngineSteps_spills : tilerDrained (spilling [{ repl0 with who := .engine 0 3 }]) 0 2 = false ∧ tilerDrained (spilling []) 0 2 = true ∧
    engineDrained (spilling []) 0 3 = true ∧ slotFree {} 1 = true ∧ slotFree (frame0 1 []) 1 = false ∧
    ((∀ x ∈ [vecAt tileTri 0, vecAt tileTri 12, vecAt tileTri 24], x.fin = true) ∧ (0, 0) ∈ primTiles frmDesc tileTri) ∧
    (∃ x ∈ [vecAt (toBytes 0x7F800000 4 ++ List.replicate 44 0) 0], x.fin = false) ∧
    [(3, 0), (1, 2)].Pairwise (fun a b => entryBefore a b = true) ∧
    onOk (clearTile (spilling []) (feedEnv (spilling [])) 2 0) (fun s => SMap.get (getFrame s 0 2).passes 0 0 == 1) = true ∧
    onOk (spillNotice (spilling []) 0 (feedEnv (spilling [])) 2 0 0) (fun _ => true) = true := by
  (repeat' apply And.intro) <;> decide +kernel

theorem witness_MemoryAndLinkSteps_entries : entryGoes buffered 0 sbE = true ∧ entryLeaves buffered sbE = false ∧
    (let x : SbEntry := { sbE with home := portDie 4, frame := 3 * 2 ^ 46 + 2 ^ 44 }
     let s : State := { buffered with links := [(26, { state := .up })] }
     (paRegion x.frame = 3 ∧ linkUp s 26 = true ∧ entryLeaves s x = true)) ∧
    (let s : State := { buffered with stk := [(0, { owner := 0, target := 1, state := .closing })], dies := [(0, die0)] }
     onSome (match performWrite s { sbE.write 0 with req := .entry 0 0 } with | .error w => some w | _ => none) (fun w => match w with
       | .wait (.held _ _ _) => true | _ => false) = true) ∧
    (let y := { sbE with id := 1 }
     let s := withCore buffered fun k => { k with sb := [sbE, y] }
     sbE ∈ (getCore s 0).sb ∧ sbE.id < y.id ∧ entryReady s 0 y = false) ∧
    (let s : State := { buffered with dies := [(0, { die0 with l2 := [{ tag := 1, line := 1024, frame := 0x1030000, attr := {}, data := 5 }] })] }
     onSome (findLine (getDie s 0).l2 1 1024 0) (fun c => c.frame != sbE.frame) = true) ∧
    (let p : Posted := { seq := 0, die := 0, addr := 640, tag := 1, line := 5, data := 0, mask := 0, ctx := 1, adm := true }
     let s : State := { buffered with stk := [(0, { owner := 0, target := 0, posted := [p] })], uid := 1 }
     p ∈ (getStack s 0).posted ∧ p.seq < placeAt s (.agent gA) 0 ∧ p.addr / 128 = 5 ∧ passes s (.agent gA) 0 0 5 = false) ∧
    (admits st 0 0 = true ∧ admits { st with stk := [(0, { owner := 0, target := 1, state := .opening, markers := [3] })] } 0 0 = false) := by
  (repeat' apply And.intro) <;> decide +kernel

/-- The word of a request that is under way arrives at its thread, which is READY, with a later request behind it. -/
def answered : State :=
  { gT { thr with st := .ready, await := [4] } with pends := [{ pendR 5 false with d := 6 }] }
theorem witness_MemoryAndLinkSteps_results : getThread answered (pendR 1 false).who = some { thr with st := .ready, await := [4] } ∧
    (∀ q ∈ answered.pends, q.fail = none) ∧ (∃ q ∈ answered.pends, q.who = (pendR 1 false).who ∧ (pendR 1 false).id < q.id) ∧
    landedOk (.read 1) (fun s _ => onSome (findPend { s with pends := s.pends.map fun p => { p with drop := true } } 1) fun p => p.drop) = true ∧
    (∀ v ∈ [({ queue := [7], replay := List.replicate 511 { seq := 0, msg := 1 } } : LinkDir)], v.replay.length < 512) ∧
    (512 ≤ (List.replicate 512 ({ seq := 0, msg := 1 } : Flit)).length) ∧
    (let s := linked 26 { state := .up, rx := 3, bwd := { expect := 5 } } { n1 := 26, n3 := 4, flag := true }
     s.arg.n3 ≠ (getLink s 26).bwd.expect ∧ linkUp s 26 = true) ∧
    (let s := stacked { state := .closing, owner := 15, target := 0, posted := [{ seq := 0, die := 0, addr := 640, tag := 1, line := 5, data := 0, mask := 0, ctx := 1, adm := true }] }
     (getStack s 31).posted.any (·.adm) = true) := by
  (repeat' apply And.intro) <;> decide +kernel

/-! ## Single steps: the expected values are those of the chapters' tables and examples -/

/-- Register d after a word that thread 0 executes with other values in x1 to x3, and the pc past the word. -/
def x3 (a b c : Word) : State := gT { thr with x := [(1, a), (2, b), (3, c)] }
def gives (i : Instr) (s : State) (d : Nat) (v : Word) : Bool :=
  after i s fun u => onSome (getThread u gA) fun t => readX t d == v && t.pc == 0x10008
/-- The pair at d after a word. -/
def gives64 (i : Instr) (s : State) (d : Nat) (v : DWord) : Bool :=
  after i s fun u => onSome (getThread u gA) fun t => readPair t d == v
/-- Predicate p after a word. -/
def pred (i : Instr) (s : State) (p : Nat) (v : Bool) : Bool :=
  after i s fun u => onSome (getThread u gA) fun t => readP t p == v
/-- The trap record's code at thread 0 after a word that traps. -/
def traps (i : Instr) (s : State) (code : Nat) : Bool :=
  after i s fun u => onSome (getThread u gA) fun t => t.st == .trapped && t.code == code

/-- R28: x0 discards what is written to it. R169: MOVIH leaves the lower half; SARI rounds toward minus infinity. -/
theorem test_x0 : gives (.movi (oI 0 0 7)) (x3 1 2 3) 0 0 = true := by decide +kernel
theorem test_movih : gives64 (.movih (oI 2 0 0x00800010)) (x3 1 2 3) 2 0x0080001000000002 = true := by decide +kernel
theorem test_sari : gives (.sari (oI 4 1 1)) (x3 0xFFFFFFFD 2 3) 4 0xFFFFFFFE = true := by decide +kernel
theorem test_aaddi : gives64 (.aaddi (oI 4 2 0xFFFFFFC0)) (x3 0 0 1) 4 0xFFFFFFC0 = true := by decide +kernel
/-- R170, R171: sums wrap, IMULH is signed, and division meets its corners; the examples with -7 and 2 are R171's. -/
theorem test_iadd : gives (.iadd (oR 4 1 2 0)) (x3 0xFFFFFFFF 2 0) 4 1 = true := by decide +kernel
theorem test_imulh : gives (.imulh (oR 4 1 2 0)) (x3 0xFFFFFFFF 2 0) 4 0xFFFFFFFF = true ∧
    gives (.imulhu (oR 4 1 2 0)) (x3 0xFFFFFFFF 2 0) 4 1 = true := by decide +kernel
theorem test_idiv : gives (.idiv (oR 4 1 2 0)) (x3 0xFFFFFFF9 2 0) 4 0xFFFFFFFD = true ∧
    gives (.idiv (oR 4 1 2 0)) (x3 5 0 0) 4 0xFFFFFFFF = true ∧
    gives (.idiv (oR 4 1 2 0)) (x3 0x80000000 0xFFFFFFFF 0) 4 0x80000000 = true := by decide +kernel
theorem test_irem : gives (.irem (oR 4 1 2 0)) (x3 0xFFFFFFF9 2 0) 4 0xFFFFFFFF = true ∧
    gives (.urem (oR 4 1 2 0)) (x3 0xFFFFFFF9 2 0) 4 1 = true := by decide +kernel
theorem test_iadds : gives (.iadds (oR 4 1 2 0)) (x3 0x7FFFFFFF 1 0) 4 0x7FFFFFFF = true ∧
    gives (.isubs (oR 4 1 2 0)) (x3 0x80000000 1 0) 4 0x80000000 = true := by decide +kernel
theorem test_dp4a : gives (.dp4a (oR 4 1 2 3)) (x3 0xFF 0x02 10) 4 8 = true ∧ gives (.dp4au (oR 4 1 2 3)) (x3 0xFF 0x02 10) 4 520 = true := by
  decide +kernel
/-- R172: shifts by 32 and more, fields past bit 31, and the control words of BSHUF that the chapter explains. -/
theorem test_shifts : gives (.shl (oR 4 1 2 0)) (x3 1 32 0) 4 0 = true ∧ gives (.sar (oR 4 1 2 0)) (x3 0x80000000 99 0) 4 0xFFFFFFFF = true ∧
    gives (.rol (oR 4 1 2 0)) (x3 0x80000001 33 0) 4 3 = true := by decide +kernel
theorem test_bfe : gives (.bfe (oR 4 1 2 0)) (x3 0x80000000 0x081C 0) 4 0xFFFFFFF8 = true ∧
    gives (.bfeu (oR 4 1 2 0)) (x3 0x80000000 0x081C 0) 4 8 = true := by decide +kernel
theorem test_bfi : gives (.bfi (oR 4 1 2 3)) (x3 0xAB 0x0818 0x11223344) 4 0xAB223344 = true := by decide +kernel
theorem test_bshuf : gives (.bshuf (oR 4 1 2 3)) (x3 0x11223344 0 0x00010203) 4 0x44332211 = true ∧
    gives (.bshuf (oR 4 1 2 3)) (x3 0x11223344 0 0x10101000) 4 0x44 = true := by decide +kernel
theorem test_blut : gives (.blut (oR 4 1 2 3 0x96)) (x3 0xF0 0xCC 0xAA) 4 0x96 = true := by decide +kernel
theorem test_clz : gives (.clz (oR 4 1 0 0)) (x3 0 0 0) 4 32 = true ∧ gives (.clz (oR 4 1 0 0)) (x3 1 0 0) 4 31 = true := by decide +kernel
/-- R173, R33: a signed and an unsigned comparison differ; p7 stays true. -/
theorem test_icmp : pred (.icmp (oR 2 1 2 0 2)) (x3 0x80000000 1 0) 2 true = true ∧ pred (.icmp (oR 7 1 2 0 1)) (x3 1 1 0) 7 true = true := by decide +kernel
/-- R174: AADD sign-extends its register. -/
theorem test_aadd : gives64 (.aadd (oR 4 2 1 0)) (x3 0xFFFFFFFC 0 1) 4 0xFFFFFFFC = true := by decide +kernel
/-- R180, R181: 1.0 + 2.0, infinity less infinity, and the lesser of the zeros. -/
theorem test_fadd : gives (.fadd (oR 4 1 2 0)) (x3 0x3F800000 0x40000000 0) 4 0x40400000 = true ∧
    gives (.fsub (oR 4 1 2 0)) (x3 0x7F800000 0x7F800000 0) 4 0x7FC00000 = true := by decide +kernel
theorem test_fmin : gives (.fmin (oR 4 1 2 0)) (x3 0 0x80000000 0) 4 0x80000000 = true := by decide +kernel
theorem test_fsqrt : gives (.fsqrt (oR 4 1 0 0)) (x3 0x80000000 0 0) 4 0x80000000 = true ∧ gives (.fsqrt (oR 4 1 0 0)) (x3 0x40800000 0 0) 4 0x40000000 = true := by
  decide +kernel
/-- R183: an element that overflows leaves the other alone. -/
theorem test_hadd2 : gives (.hadd2 (oR 4 1 2 0)) (x3 0x7BFF3C00 0x7BFF3C00 0) 4 0x7C004000 = true := by decide +kernel
/-- R165: CALL links to the word after it, and jumps by words. -/
theorem test_call : after (.call (oJ 4 2)) (x3 0 0 0) (fun u => onSome (getThread u gA) fun t => readPair t 4 == 0x10008 && t.pc == 0x10010) = true := by
  decide +kernel
/-- R168: TRAP n saves the address after it, as a completed instruction. -/
theorem test_trap : after (.trap (oR 0 0 9 0)) (x3 0 0 0) (fun u => onSome (getThread u gA) fun t => t.st == .trapped && t.pc == 0x10008) = true := by
  decide +kernel
/-- R27, R29: a predicate number above 7 and a pair with an odd number trap 0x02. -/
theorem test_limits : traps (.icmp (oR 8 1 2 0)) (x3 0 0 0) 2 = true ∧ traps (.amov (oR 5 2 0 0)) (x3 0 0 0) 2 = true := by decide +kernel

/-! Witnesses of the third review's clauses -/

/-- Two threads that stand at a LAUNCH, the second chosen in a later bundle. -/
def launching (a b : Thread) : State := { iss gA with groups := [(1, { grp with threads := [{ thr with st := a.st, lau := a.lau }, { thr with st := b.st, lau := b.lau }] })] }
def atLaunch (n : Nat) : Thread := { st := .ready, lau := some n }
theorem test_a_LAUNCH_waits_for_an_earlier_one : launchTurn (launching (atLaunch 1) (atLaunch 2)) (.thread 1 1) = false ∧
    launchTurn (launching (atLaunch 1) (atLaunch 2)) gA = true ∧
    launchTurn (launching { st := .waiting (.drain 3), lau := some 1 } (atLaunch 2)) (.thread 1 1) = false ∧
    launchTurn (launching { st := .exited, lau := some 1 } (atLaunch 2)) (.thread 1 1) = true := by decide +kernel

theorem witness_StepRunsDecodedWord_launches : takesIds (.launch (oR 4 10 0 0)) = true ∧ takesIds (.iadd (oR 4 5 12 0)) = false ∧
    bundleTurn (noteLaunch (paired .exited) (.thread 1 1)) (.thread 1 1) = true ∧ launchTurn (noteLaunch (paired .exited) (.thread 1 1)) (.thread 1 1) = true ∧
    hasPend (noteLaunch (paired .exited) (.thread 1 1)) (.thread 1 1) = false ∧ Machine.inState (paired .ready) gA .halted = false ∧
    tokensMoved State.reset State.reset = false ∧ busyCount State.reset = 0 ∧ State.reset.groups = [] ∧ State.reset.cores.all (fun c => !c.2.freezing) = true ∧
    getThread (unnoteLaunch (launching (atLaunch 1) (atLaunch 2)) gA) gA = some { thr with st := .ready, lau := some 1 } := by
  (repeat' apply And.intro) <;> decide +kernel

/-- Stack 31 in CLOSING since tick 5; time passes up to its limit. -/
def limited (tick : Nat) : State := { State.reset with stk := [(31, { state := .closing, owner := 15, target := 0, began := 5 })], dev := { tick := tick } }
theorem witness_StepFaultsAndTurns_limit : (passTime (limited 999000) 5000).dev.tick = 1000005 ∧ (limited 999000).dev.tick ≤ 5 + 1000000 ∧
    (Instr.drainTimeout, ({ n1 := 31 } : EvArg)) ∈ (passTime (limited 999000) 5000).todo := by decide +kernel

theorem witness_ControlRegisterInstructions_freezing : (getCore (halting true) 1).freezing = true ∧ coreQuiet (halting true) 1 = false ∧
    (let s := withCore buffered fun k => { k with halted := true, freezing := true, slots := [], queues := [], lanes := [] }
     coreQuiet s 0 = true ∧ (getCore s 0).freezing = true ∧ (getCore (freezeQuiet s 0) 0).frozen = (getCore buffered 0).sb) ∧
    ((getCore frozen1 0).halted = true ∧ (getCore frozen1 0).freezing = false ∧ (getCore frozen1 0).frozen ≠ []) ∧
    ((getCore halted1 1).halted = true ∧ (getCore halted1 1).freezing = false ∧ (getCore halted1 1).frozen = []) := by decide +kernel

theorem test_a_core_that_is_halted_freezes_its_store_buffer : (getCore (haltCore buffered 0 0x14 false) 0).frozen = (getCore buffered 0).sb ∧
    (getCore (haltCore buffered 0 0x14 false) 0).sb = [] ∧ (getCore (haltCore buffered 0 0x14 false) 0).freezing = false := by decide +kernel

theorem witness_FenceResults_halted : receiptDue halted1 1 = true ∧ receiptDue { halted1 with cores := [(1, { halted := true, freezing := true, sb := [sbE] })] } 1 = false := by
  decide +kernel

theorem witness_SupervisorInstructions_captures : imageBegun supThr = none ∧ imageBegun { supThr with capt := some (1, 256) } = some 256 ∧
    captTarget (supS sA .running) supThr 39999 = none ∧ (captTarget (supS sA .running) supThr 0).isSome = true ∧
    captTarget (supS sA .placing) supThr 0 = none ∧ captTarget (supS sA .running) { supThr with capt := some (1, 0) } 0 = none ∧
    (captTarget (supS sA .halted) { supThr with capt := some (1, 0) } 0).isSome = true ∧ laneThread st 0 1 = none := by decide +kernel

theorem witness_BringupAndHaltSteps_waits : (getCore (halting true) 1).freezing = true ∧ cking.dev.ck = .running ∧
    reaches cking 1 (portDie (getDie cking 1).ckPort) = false ∧
    reaches { frozen1 with cores := [(0, { core0 with frozen := [{ sbE with home := 1 }] })] } (dieOf 0) 1 = false := by decide +kernel

theorem witness_HostSteps_closed : (PortReq.window (.read 0 4 1)).answered 0 = true ∧ portOpen { windowed with links := [] } 0 = false ∧
    (PortReq.window (.write 0 [] 1)).answered 0 = false ∧ portOpen windowed 0 = true ∧ answerPort st 9 = none ∧ portBrings (peerUp 1) 4 = true ∧
    discarded st gA = false ∧ discarded st (.thread 9 0) = true ∧
    discarded { st with groups := [(1, { grp with state := .dropping, threads := [thr] })] } gA = true := by decide +kernel

/-- Counter 7 or 8 held by another level. -/
def conflicting : State :=
  { levels { ctxOf .active 1 (some (jobRun (some run0) 0)) with held := [5, 6, 7, 8] } { n1 := 1, n2 := 0 } with graphs := [(4, graph0)] }
theorem witness_WorkSteps_conflicts : onOk (readGraph conflicting 1 0x20030 0) (fun v => onSome v.1 fun r => counterHeld v.2 1 r.2.2.1) = true ∧
    onOk (readNode conflicting graph0 node0 0) (fun v => v.1.isSome && counterHeld v.2 1 8) = true := by decide +kernel
theorem test_a_conflict_shows_in_every_counter_above :
    ([5, 6, 7].all fun i => bit (counterGet (graphFaulted conflicting 4) 1 i) 61) = true := by decide +kernel

/-- The head of q3 whose spill of tile 0 is of frame 3, which holds its slot, or of one that does not. -/
def spillsAs (f : Frame) : State := fed 1 1 { f with id := 3, desc := noteDesc } (some 5)
def spillHead (n : Nat) : Entry := { entry1 (feedTpl 1 1) with spill := some 5, spillFrame := n }
theorem witness_EngineSteps_frames : (let s := spillsAs (frame0 2 [5])
    spillHolds s (feedEnv s) (spillHead 3) 0 = true ∧ spillHolds s (feedEnv s) (spillHead 4) 0 = false ∧ spillHolds (spillsAs (frame0 3 [])) (feedEnv s) (spillHead 3) 0 = false ∧
    onOk (spillOver s 0 (feedEnv s) (spillHead 3) 0 (some 5)) (fun t => (getFrame t 0 2).st == 3 && (getQueue (getCore t 0) 3).prog == 1) = true) ∧
    (let s := spillsAs (frame0 1 [5])
     onOk (spillOver s 0 (feedEnv s) (spillHead 3) 0 (some 5)) (fun t => (getFrame t 0 2).st == 1 && (getQueue (getCore t 0) 3).prog == 1) = true ∧
     tilesHeld s (feedEnv s) 2 [(0, 0)] = [(0, 0)]) ∧
    engineOn (writing { st := .stopping } false) 0 { st := .stopping } = true := by
  (repeat' apply And.intro) <;> decide +kernel

theorem witness_MemoryAndLinkSteps_tokens :
    (let s : State := { st with dies := [(0, { die0 with tokq := [waiter0] })], stk := [(0, { owner := 0, target := 1, state := .closing })] }
     tokenAdmitted s (.agent gA) 0 5 = true ∧ passes s (.agent gA) 0 0 5 = true ∧ tokenAdmitted s (.agent lA) 0 5 = false ∧ waitsForToken s 0 = true ∧
     waitsForToken st 0 = false) ∧
    (let s : State := { st with links := [(22, { state := .up })], arg := { n1 := 22 } }
     linkUp s 22 = true ∧ after .flitReceive s (fun t => (getLink t 22).crce == 1) = true) ∧
    (let y := { sbE with id := 1, who := .lane 0 1 }
     let s := withCore buffered fun k => { k with sb := [sbE, y] }
     sbE ∈ (getCore s 0).sb ∧ sbE.id < y.id ∧ entryReady s 0 y = false) := by
  (repeat' apply And.intro) <;> decide +kernel

end Sys2Proof.Tests
end

/-!
PROOFS. The statements of 02_encoding: the false guard (R21) and the register rules (R28), with the laws they rest on: a register read
after any write, what setting a thread leaves, that every word goes through `issue`, and that the decoder keeps the guard.
-/

namespace Sys2Proof.Machine

/-! ## Registers read after a write (R28) -/

/-- R28, for x: a write is read back at its own number unless that is 0, and every other register reads as before. -/
theorem readX_writeX (t : Thread) (r k : Nat) (v : Word) : readX (writeX t r v) k = if k = r ∧ r ≠ 0 then v else readX t k := by
  by_cases hk : k = r
  · subst hk
    by_cases h0 : k = 0
    · subst h0; rfl
    · simp [h0, readX_writeX_same t h0]
  · simp [hk, readX_writeX_other t (Ne.symm hk)]

/-- A pair that is written reads back in two halves, the low one first. -/
theorem readX_writePair (t : Thread) {r : Nat} (h : r ≠ 0) (k : Nat) (v : DWord) :
    readX (writePair t r v) k = if k = r then v.extractLsb' 0 32 else if k = r + 1 then v.extractLsb' 32 32 else readX t k := by
  simp only [writePair, if_neg h, readX_writeX]
  by_cases hr : k = r
  · subst hr; simp [h]
  · simp [hr]

/-- The bits of the predicate register after one of them is set or cleared. -/
theorem getLsbD_setOrClear (p : BitVec 8) {r : Nat} (h : r < 8) (k : Nat) (v : Bool) :
    (if v then p ||| (1 : BitVec 8) <<< r else p &&& ~~~((1 : BitVec 8) <<< r)).getLsbD k = if k = r then v else p.getLsbD k := by
  have hbit : ((1 : BitVec 8) <<< r).getLsbD k = decide (k = r) :=
    (BitVec.getLsbD_twoPow r k).trans (by simp [h, eq_comm])
  have hwidth : p.getLsbD k = true → k < 8 := BitVec.lt_of_getLsbD
  cases v
  · simp only [Bool.false_eq_true, if_false, BitVec.getLsbD_and, BitVec.getLsbD_not, hbit]
    by_cases hr : k = r
    · simp [hr]
    · simpa [hr] using hwidth
  · simp only [if_true, BitVec.getLsbD_or, hbit]
    by_cases hr : k = r <;> simp [hr]

/-- R28, for p: a write is read back at its own number below 7, and every other predicate reads as before. -/
theorem readP_writeP (t : Thread) (r k : Nat) (v : Bool) : readP (writeP t r v) k = if k = r ∧ r < 7 then v else readP t k := by
  by_cases h7 : r < 7
  · simp only [writeP, if_neg (Nat.not_le.2 h7), readP, getLsbD_setOrClear t.p (Nat.lt_succ_of_lt h7)]
    by_cases hk : k = r
    · simp [hk, h7, Nat.ne_of_lt h7]
    · simp [hk]
  · simp [writeP, h7, Nat.le_of_not_lt h7]

/-- A write of an x register touches the registers and their poison marks only. -/
theorem writeX_frame (t : Thread) (r : Nat) (v : Word) : { writeX t r v with x := t.x, bad := t.bad } = t := by
  unfold writeX
  split <;> rfl

/-- A write of a predicate touches the predicates only. -/
theorem writeP_frame (t : Thread) (r : Nat) (b : Bool) : { writeP t r b with p := t.p } = t := by
  unfold writeP
  split <;> rfl

/-! ## Setting a thread, and retiring (R19) -/

@[simp] theorem envOf_who (s : State) (a : Agent) : (envOf s a).who = a := by cases a <;> rfl

@[simp] theorem setThread_dev (s : State) (a : Agent) (t : Thread) : (setThread s a t).dev = s.dev := by
  cases a <;> simp [setThread]

theorem sameObjects_refl (s : State) : SameObjects s s := ⟨fun _ => rfl, fun _ => rfl, fun _ => rfl⟩

/-- Setting a thread changes nothing of its group, its core or its die but the thread. -/
theorem setThread_objects (s : State) (a : Agent) (t : Thread) : SameObjects s (setThread s a t) := by
  cases a with
  | thread gid tid =>
    refine ⟨fun c => by simp [setThread], fun d => by simp [setThread], fun g => ?_⟩
    simp only [setThread, modGroup]
    cases hg : getGroup s gid with
    | none => rfl
    | some v =>
      by_cases h : gid = g
      · subst h; simp [hg]
      · simp [getGroup_setGroup_ne _ h]
  | lane c l =>
    refine ⟨fun k => ?_, fun d => by simp [setThread, modLane], fun g => by simp [setThread, modLane]⟩
    by_cases h : c = k
    · subst h; simp [setThread, modLane]
    · simp [setThread, modLane, getCore_modCore_ne _ h]
  | sextant d =>
    refine ⟨fun c => by simp [setThread], fun k => ?_, fun g => by simp [setThread]⟩
    by_cases h : d = k
    · subst h; simp [setThread]
    · simp [setThread, getDie_modDie_ne _ h]
  | engine c q => exact sameObjects_refl s

/-- Where DBGST does not step it, a word that retires only sets its thread. -/
theorem retire_eq_setThread {s : State} {a : Agent} (h : steps s (envOf s a) = false) (t : Thread) :
    retire s (envOf s a) t =
      setThread s a { t.settled with st := .ready, stamp := dieCycle s (envOf s a).die, pc := t.pc + 8 } := by
  simp [retire, retireTo, h, readyThread]

/-! ## Every word goes through `issue` (R22) -/

/-- `r` is what the issue from `s` of a word with guard `g` comes to, for some checks, operands and effect. -/
def Issued (s : State) (g : GuardF) (r : Host.Outcome State Fault Refusal) : Prop :=
  ∃ pol needs body, r = issue s g pol needs body

section
variable (s : State)

/-! The shapes that families share. -/

theorem regOp_issued (g d needs f) : Issued s g (regOp s g d needs f) := ⟨_, _, _, rfl⟩
theorem pairOp_issued (g d needs f) : Issued s g (pairOp s g d needs f) := ⟨_, _, _, rfl⟩
theorem predOp_issued (g d needs f) : Issued s g (predOp s g d needs f) := ⟨_, _, _, rfl⟩
theorem immOp_issued (o f) : Issued s o.g (immOp s o f) := regOp_issued ..
theorem intOp1_issued (o f) : Issued s o.g (intOp1 s o f) := regOp_issued ..
theorem intOp2_issued (o f) : Issued s o.g (intOp2 s o f) := regOp_issued ..
theorem intOp3_issued (o f) : Issued s o.g (intOp3 s o f) := regOp_issued ..
theorem plainOp2_issued (o f) : Issued s o.g (plainOp2 s o f) := regOp_issued ..
theorem plainOp3_issued (o f) : Issued s o.g (plainOp3 s o f) := regOp_issued ..
theorem addrOp1_issued (o f) : Issued s o.g (addrOp1 s o f) := pairOp_issued ..
theorem addrOp2_issued (o f) : Issued s o.g (addrOp2 s o f) := pairOp_issued ..
theorem fltOp1_issued (o f) : Issued s o.g (fltOp1 s o f) := regOp_issued ..
theorem fltOp2_issued (o f) : Issued s o.g (fltOp2 s o f) := regOp_issued ..
theorem fltOp3_issued (o f) : Issued s o.g (fltOp3 s o f) := regOp_issued ..
theorem bankVector_issued (o fn) : Issued s o.g (bankVector s o fn) := ⟨_, _, _, rfl⟩
theorem commitOp_issued (o st) : Issued s o.g (commitOp s o st) := ⟨_, _, _, rfl⟩
theorem matInsn_issued (op o) : Issued s o.g (matInsn s op o) := by dsimp only [matInsn]; exact ⟨_, _, _, rfl⟩
theorem tinv_issued (o op) : Issued s o.g (tinv s o op) := ⟨_, _, _, rfl⟩

end

/-- Every word issues under its own guard, whatever its family. -/
theorem exec_issued {i : Instr} {g : GuardF} (h : i.guard? = some g) (s : State) : Issued s g (exec i s) := by
  cases i <;> cases h <;> dsimp only [exec, execYield, execQstat, execCancel]
  case iaddi | imuli | andi | ori | xori | shli | shri | sari => exact immOp_issued ..
  case iabs | popc | clz | brev | i2f | u2f => exact intOp1_issued ..
  case iadd | isub | imul | imulh | imulhu | imin | imax | umin | umax | iadds | isubs | idiv | udiv | irem | urem | and_ | or_ | xor_ |
      andn | shl | shr_ | sar | rol | bfe | bfeu => exact intOp2_issued ..
  case imad | dp4a | dp4au | bfi | bshuf => exact intOp3_issued ..
  case hadd2 | hmul2 | hmin2 | hmax2 => exact plainOp2_issued ..
  case blut | hfma2 | hdot2 => exact plainOp3_issued ..
  case aadd | shl64 | shr64 => exact addrOp1_issued ..
  case asub | iadd64 | imul64 => exact addrOp2_issued ..
  case f2i | f2u | fsqrt | frnd | frcp | frsq | fexp2 | flog2 | fsin | fcos | ftanh => exact fltOp1_issued ..
  case fadd | fsub | fmul | fmin | fmax | fdiv => exact fltOp2_issued ..
  case ffma => exact fltOp3_issued ..
  case movi | icmpm | sel | pgat | fset | mov => exact regOp_issued ..
  case aaddi | amov => exact pairOp_issued ..
  case icmp | plut | acmp | fsetp => exact predOp_issued ..
  case bkvaddf | bkvaddi | bkvmaxf | bkvmaxa | bkvaddh => exact bankVector_issued ..
  case shpub | shdrop => exact commitOp_issued ..
  case tmma | tcvt | tadd => exact matInsn_issued ..
  case tinvInv | tinvRetry | tinvFail => exact tinv_issued ..
  -- every other word is written as an `issue` of its own
  all_goals exact ⟨_, _, _, rfl⟩

/-! ## The false guard (R21) -/

theorem guardHolds_eq_xor (g : GuardF) (t : Thread) : guardHolds g t = Bool.xor (readP t g.pi.toNat) g.pn := rfl

/-- A word whose guard is false retires as it is, unless one of the three checks before the guard traps. -/
theorem issue_of_not_guardHolds {s s' : State} {a : Agent} {t : Thread} {g : GuardF} {pol : Policy} {needs : List Need}
    {body : Env → Thread → State} (hx : Executes s a t) (hg : guardHolds g t = false) (h : issue s g pol needs body = .next s') :
    s' = retire s (envOf s a) t ∨ s' = trap s a 0x01 ∨ s' = trap s a 0x03 ∨ s' = trap s a 0x02 := by
  simp only [issue, hx.cur, hx.thread, hg, Bool.not_false, if_true] at h
  repeat' split at h
  case isTrue => cases h; exact .inr (.inl rfl)
  case isTrue => cases h; exact .inr (.inr (.inl rfl))
  case isTrue => cases h; exact .inr (.inr (.inr rfl))
  case isFalse => cases h; exact .inl rfl

/-- The decoder gives an instruction the guard of its word, before any check of the fields. -/
theorem guard?_of_decodeShape {w : DWord} {i : Instr} (h : decodeShape w = some (some i)) : i.guard? = some (fGuard w) := by
  simp only [decodeShape, decode01, decode04, decode08, decode10, decode11, decode12, decode13, decode18, decode19, decode1A, decode1B,
    decode20, decode21, decode22, decode36, decode37, decode38, decode39, decode3A, decode3B, decode3C, decode3D, decode3E, decode3F,
    decodeAtom, atomOpOf] at h
  repeat' split at h
  all_goals cases h <;> rfl

/-- A word with the reserved guard does not decode. -/
theorem decode_error_of_reserved_guard {w : DWord} (h : (fGuard w).ok = false) : ∃ x, decode w = .error x := by
  unfold decode
  split
  · exact ⟨_, rfl⟩
  · exact ⟨_, rfl⟩
  next i hi =>
    have hg : i.guardOk = false := by simp only [Instr.guardOk, guard?_of_decodeShape hi, h]
    exact ⟨.reservedGuard, by simp [hg]⟩

/-! ## The obligations -/

/-- Settles O7: every word goes through `issue`, which comes to the guard before the word's own effect. -/
theorem falseGuardDoesNothing : Obligations.FalseGuardDoesNothing := by
  refine ⟨?_, guardHolds_eq_xor, fun w h => decode_error_of_reserved_guard (by rw [h]; rfl),
    fun s a t g pol needs body hp hg => issue_guarded hp hg body, ?_⟩
  · intro i s a t g s' hi hx hg hnext
    obtain ⟨pol, needs, body, hissue⟩ := exec_issued hi s
    exact issue_of_not_guardHolds hx hg (hissue ▸ hnext)
  · intro s a t ht hs
    rw [retire_eq_setThread hs]
    exact ⟨getThread_setThread ht _, fun b hb => getThread_setThread_ne s hb.symm _, setThread_outside s a _, setThread_objects s a _,
      setThread_dev s a _⟩

/-- Settles O10, by the read-after-write laws and frames of the registers. -/
theorem registerRules : Obligations.RegisterRules := by
  refine ⟨fun t => ⟨readX_zero t, rfl, readP_seven t⟩, fun t v w b => ⟨writeX_zero t v, writePair_zero t w, writeP_seven t b⟩,
    fun e => ?_, readX_writeX, readP_writeP, fun t r k v h => readX_writePair t h k v, writeX_frame, writeP_frame⟩
  simp [Need.ok, Need.regs]

end Sys2Proof.Machine

/-!
PROOFS. The immediate family of 08_thread (R169): what the shapes that write registers come to where nothing stops the word, the shifts
as multiplication and division by a power of two, and what the decoder and the encoding reserve.
-/

namespace Sys2Proof.Machine

/-! ## The shapes that write registers, where nothing stops the word -/

/-- A word that writes one x register. -/
theorem regOp_clear {s : State} {a : Agent} {t : Thread} {g : GuardF} {d : RegNo} {needs : List Need} (f : Env → Thread → Word)
    (h : Clear s a t g {} (.dx d :: needs)) :
    regOp s g d needs f = .next (wrote s a (.dx d :: needs) (writeX t d.toNat (f (envOf s a) t))) :=
  issue_clear h _

/-- A word that writes a pair. -/
theorem pairOp_clear {s : State} {a : Agent} {t : Thread} {g : GuardF} {d : RegNo} {needs : List Need} (f : Env → Thread → DWord)
    (h : Clear s a t g {} (.dp d :: needs)) :
    pairOp s g d needs f = .next (wrote s a (.dp d :: needs) (writePair t d.toNat (f (envOf s a) t))) :=
  issue_clear h _

/-- A word whose meaning is `immOp` of `m` writes `f`, where `f` is `m` in the spec's arithmetic. -/
theorem immWrites_of_immOp {mk : OpI → Instr} {m f : Word → Word → Word} (hexec : ∀ o s, exec (mk o) s = immOp s o m)
    (hf : ∀ x i, m x i = f x i) : ImmWrites mk f := by
  intro s a t o h
  rw [hexec, ← hf]
  exact regOp_clear _ h

/-! ## The shape of each word of family 0x08 -/

section
variable (o : OpI) (s : State)

theorem exec_movi : exec (.movi o) s = regOp s o.g o.d [] fun _ _ => o.imm := rfl
theorem exec_movih : exec (.movih o) s =
    issue s o.g {} [.dp o.d] fun e t => retire s e (if o.d = 0 then t else writeX t (o.d.toNat + 1) o.imm) := rfl
theorem exec_iaddi : exec (.iaddi o) s = immOp s o fun x i => x + i := rfl
theorem exec_imuli : exec (.imuli o) s = immOp s o fun x i => x * i := rfl
theorem exec_andi : exec (.andi o) s = immOp s o fun x i => x &&& i := rfl
theorem exec_ori : exec (.ori o) s = immOp s o fun x i => x ||| i := rfl
theorem exec_xori : exec (.xori o) s = immOp s o fun x i => x ^^^ i := rfl
theorem exec_shli : exec (.shli o) s = immOp s o fun x i => x <<< (i.toNat % 32) := rfl
theorem exec_shri : exec (.shri o) s = immOp s o fun x i => x >>> (i.toNat % 32) := rfl
theorem exec_sari : exec (.sari o) s = immOp s o fun x i => x.sshiftRight (i.toNat % 32) := rfl
theorem exec_aaddi : exec (.aaddi o) s =
    pairOp s o.g o.d [.sp o.a] fun _ t => readPair t o.a.toNat + o.imm.signExtend 64 := rfl

end

/-! ## Shifts as arithmetic -/

theorem shiftLeft_eq_ofNat_mul {w : Nat} (x : BitVec w) (n : Nat) : x <<< n = BitVec.ofNat w (x.toNat * 2 ^ n) :=
  congrArg (BitVec.ofNat w) (Nat.shiftLeft_eq x.toNat n)

theorem ushiftRight_eq_ofNat_div {w : Nat} (x : BitVec w) (n : Nat) : x >>> n = BitVec.ofNat w (x.toNat / 2 ^ n) := by
  rw [← Nat.shiftRight_eq_div_pow, ← BitVec.toNat_ushiftRight, BitVec.ofNat_toNat, BitVec.setWidth_eq]

/-- `Int` division by a positive number rounds toward −∞, as SARI does. -/
theorem sshiftRight_eq_ofInt_div {w : Nat} (x : BitVec w) (n : Nat) : x.sshiftRight n = BitVec.ofInt w (x.toInt / 2 ^ n) := by
  simp [BitVec.sshiftRight, Int.shiftRight_eq_div_pow]

/-! ## What is reserved -/

/-- A word of an assigned family whose function is unassigned does not decode (R40). -/
theorem decode_error_of_unassignedFunction {w : DWord} (h : decodeShape w = some none) : decode w = .error .unassignedFunction := by
  rw [decode, h]

/-- FN4 values 11 to 15 name no instruction of the immediate family. -/
theorem decode08_eq_none {w : DWord} (h : 11 ≤ (w.extractLsb' 0 4).toNat) : decode08 w = none := by
  unfold decode08
  split
  case h_12 => rfl
  all_goals omega

theorem wellFormed_iff (i : Instr) : i.WellFormed ↔ i.guardOk = true ∧ i.reservedOk = true ∧ i.codesOk = true := by
  simp only [Instr.WellFormed, Bool.and_eq_true, and_assoc]

theorem reservedOk_of_wellFormed {i : Instr} (h : i.WellFormed) : i.reservedOk = true := ((wellFormed_iff i).1 h).2.1

theorem codesOk_of_wellFormed {i : Instr} (h : i.WellFormed) : i.codesOk = true := ((wellFormed_iff i).1 h).2.2

/-- MOVI and MOVIH have no operand A. -/
theorem a_eq_zero_of_wellFormed {o : OpI} (h : (Instr.movi o).WellFormed ∨ (Instr.movih o).WellFormed) : o.a = 0 := by
  rcases h with h | h <;> exact eq_of_beq (reservedOk_of_wellFormed h)

/-- The immediate of a shift is a count below 32: I[31:5] is zero. -/
theorem imm_lt_of_wellFormed_shift {o : OpI}
    (h : (Instr.shli o).WellFormed ∨ (Instr.shri o).WellFormed ∨ (Instr.sari o).WellFormed) : o.imm.toNat < 32 := by
  rcases h with h | h | h <;> exact of_decide_eq_true (codesOk_of_wellFormed h)

/-! ## The obligation -/

/-- Settles O19: the words of the table are `immOp` of their row's function, or a shape of their own (MOVI, MOVIH, AADDI), and the shifts
are those of R169 by the laws above. -/
theorem immediateResults : Obligations.ImmediateResults := by
  refine ⟨?movi, ?movih, ?iaddi, ?imuli, ?andi, ?ori, ?xori, ?shli, ?shri, ?sari, ?aaddi, ?unassigned, ?reserved⟩
  case movi => intro s a t o h; rw [exec_movi]; exact regOp_clear _ h
  case movih => intro s a t o h; rw [exec_movih]; exact issue_clear h _
  case iaddi => exact immWrites_of_immOp exec_iaddi fun _ _ => rfl
  case imuli => exact immWrites_of_immOp exec_imuli fun _ _ => rfl
  case andi => exact immWrites_of_immOp exec_andi fun _ _ => rfl
  case ori => exact immWrites_of_immOp exec_ori fun _ _ => rfl
  case xori => exact immWrites_of_immOp exec_xori fun _ _ => rfl
  case shli => exact immWrites_of_immOp exec_shli fun x i => shiftLeft_eq_ofNat_mul x (i.toNat % 32)
  case shri => exact immWrites_of_immOp exec_shri fun x i => ushiftRight_eq_ofNat_div x (i.toNat % 32)
  case sari => exact immWrites_of_immOp exec_sari fun x i => sshiftRight_eq_ofInt_div x (i.toNat % 32)
  case aaddi => intro s a t o h; rw [exec_aaddi]; exact pairOp_clear _ h
  case unassigned =>
    intro w hmaj hfn
    have hshape : decodeShape w = some none := by rw [decodeShape, hmaj]; exact congrArg some (decode08_eq_none hfn)
    exact ⟨_, decode_error_of_unassignedFunction hshape⟩
  case reserved => exact fun o => ⟨a_eq_zero_of_wellFormed, imm_lt_of_wellFormed_shift⟩

end Sys2Proof.Machine
